-- ==== Sys2Proof/Word.lean ====
section
/-! DEFINITION. The words of the block: its registers are 32 bits wide, its fields and bytes narrower
(spec/10_state.md R21, spec/00_scope.md R9). -/

namespace Sys2Proof

/-- A 32-bit register or value (10_state.md R21). -/
abbrev Word := BitVec 32

/-- A 16-bit field: `syt`, a segment number, a count register. -/
abbrev Half := BitVec 16

/-- A byte of BUF or of a packet (20_memory.md R67). -/
abbrev Byte := BitVec 8

/-- A 13-bit packet identifier (45_ts_demux.md R272). -/
abbrev Pid := BitVec 13

end Sys2Proof
end

