-- ==== Sys2Proof/Syntax.lean ====
section
/-! DEFINITION. The instructions: the 21 commands the host writes to CMD and the 6 event words of the
event port, one constructor per row of spec/opcode_table.json (spec/30_encoding.md R87). -/

namespace Sys2Proof

/-- One command or event. `e` is the instance index, the field imm[7:0]; a CTL command names its
unit imm[15:12], instance imm[11:8] and CSR index imm[7:0] (30_encoding.md R88). The other operands
are in ARG0 to ARG3 (R89), except the segment index that `evSegment` carries (R163). -/
inductive Instr where
  | isCip
  | parseCip
  | buildCip
  | ctAdd
  | ctDelta
  | ctIndex
  | engSetup (e : Nat)
  | engStart (e : Nat)
  | engStop (e : Nat)
  | engSetWatchdog (e : Nat)
  | evSegment (e seg : Nat)
  | evOverrun (e : Nat)
  | evFinalize (e : Nat)
  | evForceStop (e : Nat)
  | evWatchdog (e : Nat)
  | evPollTimeout (e : Nat)
  | dvrCycle (e : Nat)
  | dvrRelease (e : Nat)
  | dvrRegister (e : Nat)
  | dvtCycle (e : Nat)
  | tsPacket (e : Nat)
  | tsFlush (e : Nat)
  | tsReleasePes (e : Nat)
  | urxCycle (e : Nat)
  | utxCycle (e : Nat)
  | csrRead (unit inst idx : Nat)
  | csrWrite (unit inst idx : Nat)
deriving DecidableEq, Repr

end Sys2Proof
end

