-- ==== Sys2Proof/WellFormed.lean ====
section
/-! DEFINITION. Which instruction terms are words of the block: every field fits its place in the word
(spec/30_encoding.md R88). Whether the named instance or CSR exists is not a question of form: a
command that names one that does not exist runs and answers BadArgument (R90). -/

namespace Sys2Proof

/-- An instance index fits imm[7:0] (30_encoding.md R88). -/
abbrev instanceFits (e : Nat) : Prop := e < 256

/-- A segment index fits the 16 bits of `SEGMENTS` (10_state.md R26). -/
abbrev segmentFits (seg : Nat) : Prop := seg < 65536

/-- A CTL operand fits imm[15:12], imm[11:8] and imm[7:0] (30_encoding.md R88). -/
abbrev ctlFits (unit inst idx : Nat) : Prop := unit < 16 ∧ inst < 16 ∧ idx < 256

/-- The term is the meaning of some word: each of its fields fits. -/
def Instr.wellFormed : Instr → Bool
  | .isCip | .parseCip | .buildCip | .ctAdd | .ctDelta | .ctIndex => true
  | .engSetup e | .engStart e | .engStop e | .engSetWatchdog e => decide (instanceFits e)
  | .evSegment e seg => decide (instanceFits e ∧ segmentFits seg)
  | .evOverrun e | .evFinalize e | .evForceStop e | .evWatchdog e | .evPollTimeout e =>
    decide (instanceFits e)
  | .dvrCycle e | .dvrRelease e | .dvrRegister e | .dvtCycle e => decide (instanceFits e)
  | .tsPacket e | .tsFlush e | .tsReleasePes e | .urxCycle e | .utxCycle e =>
    decide (instanceFits e)
  | .csrRead u i x | .csrWrite u i x => decide (ctlFits u i x)

end Sys2Proof
end

