-- ==== Sys2Proof/Decode.lean ====
section
/-! DEFINITION. Command and event words to instructions and back (spec/30_encoding.md R86 to R90). -/

namespace Sys2Proof

/-- Why a word is no instruction of the port it stands on (30_encoding.md R90). -/
inductive DecodeError where
  /-- The (unit, op) pair is in no row of R87, or the unit is reserved. -/
  | unassigned (unit op : Byte)
  /-- A reserved `imm` bit is not 0 (R88). -/
  | reservedImm (imm : Half)
  /-- An event encoding was written to CMD. -/
  | eventOnCmd (op : Byte)
  /-- No word was given. -/
  | noWord
deriving DecidableEq, Repr

/-- `unit`, bits [31:24] of a command word (30_encoding.md R86). -/
def unitField (w : Word) : Byte := w.extractLsb' 24 8

/-- `op`, bits [23:16] (R86). -/
def opField (w : Word) : Byte := w.extractLsb' 16 8

/-- `imm`, bits [15:0] (R86). -/
def immField (w : Word) : Half := w.extractLsb' 0 16

/-- CIP and CT commands: `imm` is reserved and must be 0 (R88). -/
def decodeNoImm (imm : Half) (i : Instr) : Except DecodeError Instr :=
  if imm = 0 then .ok i else .error (.reservedImm imm)

/-- ENG, DVR, DVT, TS and UNI commands and the events: imm[7:0] is the instance, imm[15:8] must be
0 (R88). -/
def decodeInstance (imm : Half) (f : Nat → Instr) : Except DecodeError Instr :=
  if imm.extractLsb' 8 8 = 0 then .ok (f (imm.extractLsb' 0 8).toNat)
  else .error (.reservedImm imm)

/-- CTL commands: imm[15:12] unit, imm[11:8] instance, imm[7:0] CSR index (R88). -/
def decodeCtl (imm : Half) (f : Nat → Nat → Nat → Instr) : Except DecodeError Instr :=
  .ok (f (imm.extractLsb' 12 4).toNat (imm.extractLsb' 8 4).toNat (imm.extractLsb' 0 8).toNat)

/-- The opcode map (30_encoding.md R87); `arg` is the segment index an EV_SEGMENT carries (R163). -/
def decodeFields (unit op : Byte) (imm : Half) (arg : Half) : Except DecodeError Instr :=
  if unit = 0x01 then
    if op = 0x01 then decodeNoImm imm .isCip
    else if op = 0x02 then decodeNoImm imm .parseCip
    else if op = 0x03 then decodeNoImm imm .buildCip
    else .error (.unassigned unit op)
  else if unit = 0x02 then
    if op = 0x01 then decodeNoImm imm .ctAdd
    else if op = 0x02 then decodeNoImm imm .ctDelta
    else if op = 0x03 then decodeNoImm imm .ctIndex
    else .error (.unassigned unit op)
  else if unit = 0x03 then
    if op = 0x01 then decodeInstance imm .engSetup
    else if op = 0x02 then decodeInstance imm .engStart
    else if op = 0x03 then decodeInstance imm .engStop
    else if op = 0x04 then decodeInstance imm .engSetWatchdog
    else if op = 0x10 then decodeInstance imm (.evSegment · arg.toNat)
    else if op = 0x11 then decodeInstance imm .evOverrun
    else if op = 0x12 then decodeInstance imm .evFinalize
    else if op = 0x13 then decodeInstance imm .evForceStop
    else if op = 0x14 then decodeInstance imm .evWatchdog
    else if op = 0x15 then decodeInstance imm .evPollTimeout
    else .error (.unassigned unit op)
  else if unit = 0x04 then
    if op = 0x01 then decodeInstance imm .dvrCycle
    else if op = 0x02 then decodeInstance imm .dvrRelease
    else if op = 0x03 then decodeInstance imm .dvrRegister
    else .error (.unassigned unit op)
  else if unit = 0x05 then
    if op = 0x01 then decodeInstance imm .dvtCycle
    else .error (.unassigned unit op)
  else if unit = 0x06 then
    if op = 0x01 then decodeInstance imm .tsPacket
    else if op = 0x02 then decodeInstance imm .tsFlush
    else if op = 0x03 then decodeInstance imm .tsReleasePes
    else .error (.unassigned unit op)
  else if unit = 0x07 then
    if op = 0x01 then decodeInstance imm .urxCycle
    else if op = 0x02 then decodeInstance imm .utxCycle
    else .error (.unassigned unit op)
  else if unit = 0x0F then
    if op = 0x01 then decodeCtl imm .csrRead
    else if op = 0x02 then decodeCtl imm .csrWrite
    else .error (.unassigned unit op)
  else .error (.unassigned unit op)

/-- The instruction of a word of either port, with the argument an event carries. -/
def decode (w : Word) (arg : Half) : Except DecodeError Instr :=
  decodeFields (unitField w) (opField w) (immField w) arg

/-- The event encodings, unit 0x03 and op 0x10 to 0x15 (30_encoding.md R86). -/
def Instr.isEvent : Instr → Bool
  | .evSegment .. | .evOverrun _ | .evFinalize _ | .evForceStop _ | .evWatchdog _
  | .evPollTimeout _ => true
  | _ => false

/-- What a word written to CMD stands for: an event encoding there is illegal (30_encoding.md R90). -/
def decodeCommand (w : Word) : Except DecodeError Instr :=
  match decode w 0 with
  | .ok i => if i.isEvent then .error (.eventOnCmd (opField w)) else .ok i
  | .error r => .error r

/-- The words of an instruction as stored: the command word, and for EV_SEGMENT a second word whose
low 16 bits are the segment index it carries (DESIGN CHOICE, log 18). -/
def decodeWords : List Word → Except DecodeError Instr
  | [] => .error .noWord
  | [w] => decode w 0
  | w :: a :: _ => decode w (a.extractLsb' 0 16)

/-- (unit, op) of each row of the opcode map (30_encoding.md R87). -/
def Instr.opcode : Instr → Byte × Byte
  | .isCip => (0x01, 0x01)
  | .parseCip => (0x01, 0x02)
  | .buildCip => (0x01, 0x03)
  | .ctAdd => (0x02, 0x01)
  | .ctDelta => (0x02, 0x02)
  | .ctIndex => (0x02, 0x03)
  | .engSetup _ => (0x03, 0x01)
  | .engStart _ => (0x03, 0x02)
  | .engStop _ => (0x03, 0x03)
  | .engSetWatchdog _ => (0x03, 0x04)
  | .evSegment _ _ => (0x03, 0x10)
  | .evOverrun _ => (0x03, 0x11)
  | .evFinalize _ => (0x03, 0x12)
  | .evForceStop _ => (0x03, 0x13)
  | .evWatchdog _ => (0x03, 0x14)
  | .evPollTimeout _ => (0x03, 0x15)
  | .dvrCycle _ => (0x04, 0x01)
  | .dvrRelease _ => (0x04, 0x02)
  | .dvrRegister _ => (0x04, 0x03)
  | .dvtCycle _ => (0x05, 0x01)
  | .tsPacket _ => (0x06, 0x01)
  | .tsFlush _ => (0x06, 0x02)
  | .tsReleasePes _ => (0x06, 0x03)
  | .urxCycle _ => (0x07, 0x01)
  | .utxCycle _ => (0x07, 0x02)
  | .csrRead .. => (0x0F, 0x01)
  | .csrWrite .. => (0x0F, 0x02)

/-- The `imm` field of each format (30_encoding.md R88). -/
def Instr.imm : Instr → Half
  | .isCip | .parseCip | .buildCip | .ctAdd | .ctDelta | .ctIndex => 0
  | .engSetup e | .engStart e | .engStop e | .engSetWatchdog e => BitVec.ofNat 16 e
  | .evSegment e _ | .evOverrun e | .evFinalize e | .evForceStop e | .evWatchdog e
  | .evPollTimeout e => BitVec.ofNat 16 e
  | .dvrCycle e | .dvrRelease e | .dvrRegister e | .dvtCycle e => BitVec.ofNat 16 e
  | .tsPacket e | .tsFlush e | .tsReleasePes e | .urxCycle e | .utxCycle e => BitVec.ofNat 16 e
  | .csrRead u i x | .csrWrite u i x =>
    BitVec.ofNat 4 u ++ BitVec.ofNat 4 i ++ BitVec.ofNat 8 x

/-- The segment index an event carries beside its word (42_buffer_engine.md R163), 0 where it
carries none. -/
def Instr.carried : Instr → Half
  | .evSegment _ seg => BitVec.ofNat 16 seg
  | _ => 0

/-- The command or event word (30_encoding.md R86). -/
def encodeWord (i : Instr) : Word := i.opcode.1 ++ i.opcode.2 ++ i.imm

/-- The words of an instruction as stored (log 18). -/
def encode (i : Instr) : List Word :=
  match i with
  | .evSegment _ _ => [encodeWord i, i.carried.setWidth 32]
  | _ => [encodeWord i]

/-- The words held by the low `nbits` bits of `w`, the first word lowest; the bits above are 0. -/
def tableWords (nbits w : Nat) : List Word :=
  let v := w % 2 ^ nbits
  [BitVec.ofNat 32 v, BitVec.ofNat 32 (v / 2 ^ 32)]

/-- The instruction the decoder reads from an instruction whose bits are `w`. -/
def decodeTableWord (nbits w : Nat) : Option Instr :=
  (decodeWords (tableWords nbits w)).toOption

end Sys2Proof
end

