-- ==== Sys2Proof/Config.lean ====
section
/-! DEFINITION. The implementation parameters (spec/00_scope.md R8), what the environment can do and
answer (spec/00_scope.md R13, spec/20_memory.md R70 to R75, spec/60_exceptions.md R318), and the free
values the spec leaves open. -/

namespace Sys2Proof

/-- A row of the parameter `DV_FORMATS` (00_scope.md R8; 92_eei_decisions.md D61). -/
structure DvFormat where
  /-- bytes of one frame -/
  frameSize : Nat
  /-- the `fdf` value of the format; it fits 8 bits (44_dv_transmit.md R245) -/
  mode : Byte
  /-- quadlets of one data block -/
  dbs : Byte
  fn : BitVec 2
  startingSYTOffset : Nat
deriving DecidableEq, Repr

/-- Bytes of one data block, `blk = dbs*4` (43_dv_receive.md, 44_dv_transmit.md, opening lines). -/
def DvFormat.blk (r : DvFormat) : Nat := r.dbs.toNat * 4

/-- The implementation parameters the model takes as arguments (00_scope.md R8).
They are constants, not state (70_reset_and_hazards.md R341 point 8): every state carries them in
`State.par`, no step changes them, and a statement about every state is one about every parameter
value (DESIGN CHOICE, log 1). -/
structure Params where
  /-- `E_INST`, the number of instances of each index (10_state.md R24) -/
  eInst : Nat
  /-- `BUF_BYTES` -/
  bufBytes : Nat
  /-- `MAX_SOURCE_PACKETS` -/
  maxSourcePackets : Nat
  /-- `PSI_TIMEOUT`, the reset value of the CSR -/
  psiTimeout : Word
  /-- `DV_FORMATS` by mode key -/
  dvFormats : List (Byte × DvFormat)
  /-- `F_RX` -/
  fRx : Nat
  /-- `F_TX` -/
  fTx : Nat
  /-- `PES_CAP_V` -/
  pesCapV : Nat
  /-- `PES_CAP_A` -/
  pesCapA : Nat
  /-- `PARTIAL_CAP` -/
  partialCap : Nat
  /-- `PES_POOL_INIT` -/
  pesPoolInit : Nat
  /-- `HDV_PIDS` -/
  hdvPids : List Pid
  /-- the values of `DATA_CYCLE` at 0, 1, ..; beyond the list it is uninterpreted (log 15) -/
  cadence : List Bool
  /-- values of `SYT_OF`; at an argument that is not listed it is uninterpreted (log 15) -/
  sytTable : List ((Word × Nat) × Half)
deriving DecidableEq, Repr

/-- One row of `DV_FORMATS` obeys its constraints: `dbs ≥ 1` and `frameSize` a positive multiple of
`dbs*4` (00_scope.md R8). -/
def DvFormat.wf (r : DvFormat) : Bool :=
  decide (1 ≤ r.dbs.toNat ∧ 0 < r.frameSize ∧ r.frameSize % r.blk = 0)

/-- The constraints of 00_scope.md R8. -/
def Params.wf (p : Params) : Bool :=
  decide (1 ≤ p.eInst ∧ p.eInst ≤ 16 ∧ p.bufBytes ≤ 2 ^ 32 ∧ 1 ≤ p.maxSourcePackets ∧
    1 ≤ p.psiTimeout.toNat) &&
  p.dvFormats.all (fun r => r.2.wf) &&
  decide (1 ≤ p.fRx ∧ 1 ≤ p.fTx ∧ 184 ≤ p.pesCapV ∧ 184 ≤ p.pesCapA ∧ 184 ≤ p.partialCap)

/-- The host's registers (10_state.md R21). -/
inductive HostReg where
  | cmd | arg0 | arg1 | arg2 | arg3 | res0 | res1 | res2 | res3 | status | faults
deriving DecidableEq, Repr

/-- What the host, or a client inside a callback, can do to the block: register accesses and byte
accesses to BUF through the memory port (10_state.md R21, 20_memory.md R67, 60_exceptions.md R318). -/
inductive HostAct where
  /-- a register write; a write to CMD issues a command -/
  | write (r : HostReg) (v : Word)
  /-- a register read; it has no side effect -/
  | read (r : HostReg)
  /-- a memory-port write of one byte of BUF -/
  | poke (a : Nat) (b : Byte)
  /-- a memory-port read of one byte of BUF; it has no side effect -/
  | peek (a : Nat)
deriving DecidableEq, Repr

/-- One answer of the environment, a draw (00_scope.md R13). Each request or callback reads the parts
it asks for; the others are ignored (log 2, log 11). -/
structure Draw where
  /-- the status a callback returns, or whether the Port Engine and the allocator agree: 0 is
  `Success` / `ok`, anything else a non-success / `fail` -/
  status : Byte := 0
  /-- an address, a cycle time, an isochronous header, a node id or a frame index -/
  word : Word := 0
  /-- the payload bytes a Port Engine step delivers -/
  bytes : List Byte := []
  /-- the PSI decoder's answer (45_ts_demux.md R285); all three absent is `noChange` -/
  videoPid : Option Pid := none
  audioPid : Option Pid := none
  pmtPid : Option Pid := none
  /-- what the client does inside the callback, in order, before it returns (60_exceptions.md R318) -/
  acts : List HostAct := []
  /-- reset is asserted while the client runs, after `acts` (70_reset_and_hazards.md R341 point 3) -/
  reset : Bool := false
deriving DecidableEq, Repr, Inhabited

/-- The client of the callback that this answers does nothing while it runs, and no reset falls there. -/
abbrev Draw.quiet (d : Draw) : Prop := d.acts = [] ∧ d.reset = false

/-- The client of the callback that this answers only reads and writes BUF while it runs, through the
memory port, and no reset falls there. -/
abbrev Draw.portOnly (d : Draw) : Prop :=
  (∀ a ∈ d.acts, ∃ n, a = .peek n ∨ ∃ b, a = .poke n b) ∧ d.reset = false

/-- One move of the schedule (10_state.md R28, 20_memory.md R72 to R74, R78, 70_reset_and_hazards.md
R341). -/
inductive Action where
  /-- reset is asserted -/
  | reset
  /-- a host step -/
  | host (a : HostAct)
  /-- the sequencer consumes the head of instance `e`'s event queue -/
  | consume (e : Nat)
  /-- `PE(e)` does one segment -/
  | peSegment (e : Nat)
  /-- `PE(e)` confirms a stop -/
  | peFinalize (e : Nat)
  /-- a bus reset stops `PE(e)` -/
  | peForceStop (e : Nat)
  /-- the no-data deadline of instance `e` expires -/
  | watchdog (e : Nat)
  /-- the STOP poll bound of instance `e` expires -/
  | pollTimeout (e : Nat)
deriving DecidableEq, Repr, Inhabited

/-- A free value: the answer to the n-th draw when the tape holds none (DESIGN CHOICE, log 2). -/
opaque Config.draw : Nat → Draw

/-- A free value: the schedule's next move when the agenda holds none (DESIGN CHOICE, log 3). -/
opaque Config.action : Nat → Action

/-- A free value: byte `j` of a Port Engine payload where the n-th draw does not list it
(20_memory.md R72; log 11). -/
opaque Config.drawByte : Nat → Nat → Byte

/-- A free value: what BUF holds at power-on, by address (70_reset_and_hazards.md R341 point 6;
log 5). -/
opaque Config.powerOnByte : Nat → Byte

/-- A free value: byte `j` of the data array of DVR frame `f` of instance `e` where nothing has been
written since the `epoch`-th reset (R341 point 7; log 6). -/
opaque Config.frameByte : (epoch e f j : Nat) → Byte

/-- A free value: byte `j` of the data array of PES buffer `id`, likewise (R341 point 7; log 6). -/
opaque Config.pesByte : (epoch e id j : Nat) → Byte

/-- A free value: what a client observes of a frame or PES buffer it does not hold, at the moment when
`now` free values have been taken (20_memory.md R63: "unspecified bytes"; 70_reset_and_hazards.md R351).
The rules give neither the bytes nor how many there are, and both are free (DESIGN CHOICE, log 6). -/
opaque Config.unheldData : (now e x : Nat) → List Byte

/-- The parameter `DATA_CYCLE` where `Params.cadence` does not list it (00_scope.md R8; log 15). -/
opaque Config.dataCycle : Nat → Bool

/-- The parameter `SYT_OF` where `Params.sytTable` does not list it (00_scope.md R8; log 15). -/
opaque Config.sytOf : Word → Nat → Half

/-- The client context passed with each callback, by unit and instance (00_scope.md R15). That it is a
value of 32 bits, and one of its own for each unit and instance, is the model's choice: R15 calls it
opaque and gives it no width (DESIGN CHOICE, log 19). -/
opaque Config.refcon : Nat → Nat → Word

/-- The parameter `DATA_CYCLE` (44_dv_transmit.md R247). -/
def Params.dataCycle (p : Params) (n : Nat) : Bool :=
  match p.cadence[n]? with
  | some b => b
  | none => Config.dataCycle n

/-- The parameter `SYT_OF` (44_dv_transmit.md R246). -/
def Params.sytOf (p : Params) (t : Word) (offset : Nat) : Half :=
  match p.sytTable.lookup (t, offset) with
  | some v => v
  | none => Config.sytOf t offset

/-- The row of `DV_FORMATS` with this mode key, if there is one (00_scope.md R8). -/
def Params.dvRow (p : Params) (key : Byte) : Option DvFormat := p.dvFormats.lookup key

/-- The parameter values `State.reset` carries: the test configuration of 95_test_vectors.md
section 0, which are "test choices, not properties of the hardware" (DESIGN CHOICE, log 1). -/
def Config.params : Params where
  eInst := 1
  bufBytes := 0x10000
  maxSourcePackets := 4
  psiTimeout := 1000
  dvFormats :=
    [(0x00, ⟨16, 0x00, 2, 0, 0⟩), (0x01, ⟨24, 0x01, 2, 0, 0⟩)]
  fRx := 2
  fTx := 2
  pesCapV := 400
  pesCapA := 400
  partialCap := 200
  pesPoolInit := 1
  hdvPids := []
  cadence := []
  sytTable := []

end Sys2Proof
end

