-- ==== Sys2Proof/Machine/State.lean ====
section
/-! DEFINITION. Everything the spec gives the machine (spec/10_state.md R21 to R37, spec/20_memory.md
R61, R71, R73), and the machine right after reset (spec/70_reset_and_hazards.md R341, R342). -/

namespace Sys2Proof.Machine

/-- Values by key where most keys hold none: pairs in strictly rising key order. -/
abbrev Sparse (α : Type) := List (Nat × α)

/-- Bytes by address or offset; `List Host.Cell`. -/
abbrev Mem := Sparse Byte

/-- The four engine kinds, CSR `KIND` (10_state.md R26). -/
inductive Kind where
  | dvrx | dvtx | urx | utx
deriving DecidableEq, Repr

/-- A segment's end marker: its jump target (10_state.md R27). -/
inductive Jump where
  | start (s : Nat)
  | overrun
deriving DecidableEq, Repr

/-- An event of an instance's queue (60_exceptions.md R316). -/
inductive Event where
  | segment (s : Nat)
  | overrun
  | finalize
  | forceStop
  | watchdog
  | pollTimeout
deriving DecidableEq, Repr

/-- The two elementary stream types (10_state.md R35). -/
inductive StreamType where
  | video | audio
deriving DecidableEq, Repr

/-- A DV receive frame's state (10_state.md R30). -/
inductive FrameState where
  | free | filling | dispatched
deriving DecidableEq, Repr

/-- A PES buffer's state (10_state.md R36). -/
inductive PesState where
  | free | filling | delivered
deriving DecidableEq, Repr

/-- The messages clients get through callbacks (60_exceptions.md R312). -/
inductive Msg where
  | overrun | autoRestartFailed | timeStampAdjust | noData | forcedStop
  | frameReceived | frameCorrupted | wrongMode | frameDropped
  | pesReceived | packetError | discontinuity | pesLargerThanAllocatedBuffer
  | flushedPesBuffer | rescanningForPsi
deriving DecidableEq, Repr

/-- A sticky fault with the information it records (60_exceptions.md R314). -/
inductive BlockFault where
  | shortPayload (len : Nat)
  | ctRange (t : Word)
  | segOrder (s cur : Nat)
  /-- `len` is none where the header was never written: "reported as unknown" (R166) -/
  | cycleOversize (k : Nat) (len : Option Nat)
  | finalizeTimeout (e : Nat)
  | reentrant (word : Word)
  | badAddress (addr n : Nat)
deriving DecidableEq, Repr

/-- What the block asks of the world outside: requests to the allocator and the Port Engine
(20_memory.md R69, R75) and client callbacks (47_control.md R304). -/
inductive Out where
  | alloc (e size : Nat)
  | allocProgram (e S N cbs : Nat)
  | peStart (e : Nat) (channel : BitVec 6)
  | peStop (e : Nat)
  | localNodeId (e : Nat)
  | cycleTime (e : Nat)
  /-- `info` is none where the message has no information of its own: 60_exceptions.md R312 gives one for
  `TimeStampAdjust` only, and what stands in the argument of the others is open (DESIGN CHOICE, log 24) -/
  | engMsg (e : Nat) (m : Msg) (info : Option Nat)
  | urxPacket (e : Nat) (hdr : Word) (pa len : Nat) (ts : Word)
  | utxFill (e k addr cap : Nat)
  | consumer (e : Nat) (id : Word) (m : Msg) (frame : Option Nat)
  | framePull (e : Nat)
  | frameRelease (e f : Nat)
  | pes (e : Nat) (m : Msg) (buf : Option Nat)
  | psiDecoder (e : Nat) (packet : List Byte)
  | psiRaw (e : Nat) (packet : List Byte)
  | hdvTable (e : Nat) (packet : List Byte)
deriving DecidableEq, Repr

/-- One packet sent on the bus (20_memory.md R73). -/
structure WirePacket where
  e : Nat
  hdr : Word
  payload : List Byte
deriving DecidableEq, Repr

/-- Engine instance state (10_state.md R26, R27) with its Port Engine agent's (20_memory.md R71). -/
structure Eng where
  /-- CSR KIND -/
  kind : Kind
  /-- CSR SEGMENTS, `S` -/
  segments : Half
  /-- CSR CYCLES_PER_SEG, `N` -/
  cyclesPerSeg : Half
  /-- CSR MIN_PAYLOAD -/
  minPayload : Half
  /-- CSR CHANNEL -/
  channel : BitVec 6
  /-- CSR CYCLE_BUF_SIZE, `cbs` -/
  cycleBufSize : Word
  /-- TRANSPORT bit 0 -/
  running : Bool
  /-- TRANSPORT bit 1 -/
  setupDone : Bool
  /-- TRANSPORT bit 3 -/
  fatal : Bool
  /-- TRANSPORT bit 4 -/
  firstCallback : Bool
  /-- `pe.stop()` calls whose FINALIZE has not been consumed; TRANSPORT bit 2 is `> 0` -/
  finalizeOwed : Nat
  /-- CSR CUR_SEG -/
  curSeg : Half
  /-- WATCHDOG bit 0 -/
  wdRegistered : Bool
  /-- WATCHDOG bit 1 -/
  wdArmed : Bool
  /-- CSR EXPECTED_TS -/
  expectedTs : Word
  /-- CSR STEAL_COUNT -/
  stealCount : Half
  /-- CSR RECOVERY_THRESHOLD -/
  recoveryThreshold : Half
  /-- CSR LOCAL_SID -/
  localSid : BitVec 6
  /-- CSR BUF_BASE -/
  bufBase : Word
  /-- CSR DEMUX_ATTACH -/
  demuxAttach : Bool
  /-- CSR URX_CALLBACK bit 0 -/
  urxCallback : Bool
  /-- `jump[s]`; the empty list before SETUP: unset (log 16) -/
  jump : List Jump
  /-- `slotHdr[k]`; an unlisted entry holds no value -/
  slotHdr : Sparse Word
  /-- `tsSlot[s]`; an unlisted entry is unspecified (log 7) -/
  tsSlot : Sparse Word
  startCT : Word
  stopHold : Bool
  /-- the event queue, head first -/
  events : List Event
  lastFmt : Option (BitVec 6)
  peRunning : Bool
  peSeg : Nat
  /-- FINALIZE events the Port Engine still has to enqueue (20_memory.md R71, R74) -/
  peStops : Nat
deriving DecidableEq, Repr

/-- A DV receive frame record (10_state.md R30). -/
structure RxFrame where
  state : FrameState
  dispatching : Bool
  currentOffset : Nat
  /-- `frameLen` as it stood when the frame was started: a changed DVMODE "applies from the next frame
  start" (47_control.md R303; log 25) -/
  frameLen : Nat
  refCount : Nat
  frameSYTTime : Half
  frameReceivedTimeStamp : Word
  /-- the bytes written since reset; an unlisted offset holds any value (log 6) -/
  data : Mem
deriving DecidableEq, Repr

/-- DV receive instance state (10_state.md R29, R30). -/
structure Dvr where
  dvMode : Byte
  frameSel : Half
  frames : List RxFrame
  /-- indices of Free frames, head first -/
  freeQueue : List Nat
  currentFrame : Option Nat
  /-- registered consumer ids in registration order -/
  consumers : List Word
deriving DecidableEq, Repr

/-- A DV transmit frame record (10_state.md R33). -/
structure TxFrame where
  inUse : Bool
  curOffset : Nat
  dclProgramRefCount : Nat
  frameSYTTime : Half
  frameTransmitStartCycleTime : Word
deriving DecidableEq, Repr

/-- DV transmit instance state (10_state.md R32, R33). -/
structure Dvt where
  dvMode : Byte
  /-- `B` -/
  blocksPerCycle : BitVec 3
  txFrameBase : Word
  curFrame : Option Nat
  dbc : Byte
  txCycleCount : Word
  txClock : Word
  frameSel : Half
  frames : List TxFrame
  /-- `slotRefs[k]`, each a strictly rising list of frame indices; unlisted is the empty set -/
  slotRefs : Sparse (List Nat)
deriving DecidableEq, Repr

/-- A PID register: bit 15 valid, bits [12:0] PID (10_state.md R34). -/
structure PidReg where
  valid : Bool
  pid : Pid
deriving DecidableEq, Repr

/-- State per stream type (10_state.md R35). -/
structure Stream where
  foundFirst : Bool
  /-- the last continuity counter; none is the spec's -1 -/
  streamCont : Option (BitVec 4)
  pesPacketPos : Nat
  curBuf : Option Nat
  truncated : Bool
deriving DecidableEq, Repr

/-- A PES buffer (10_state.md R36). -/
structure PesBuf where
  stype : StreamType
  /-- the bytes written since reset; an unlisted offset holds any value (log 6) -/
  data : Mem
  pesBufLen : Nat
  startTSPacketTimeStamp : Word
  state : PesState
  pesTruncated : Bool
deriving DecidableEq, Repr

/-- TS demux instance state (10_state.md R34 to R36). -/
structure Ts where
  /-- CSR MODE: bit 0 autoPSI, 1 partialDemux, 2 rawPSIRegistered, 3 hdvRegistered -/
  mode : BitVec 4
  videoPid : PidReg
  audioPid : PidReg
  pmtPid : PidReg
  psiTimeout : Word
  pktSinceCb : Word
  video : Stream
  audio : Stream
  /-- the PES buffers by id; ids are never reused, so `nextPesId` is the length (log 13) -/
  bufs : List PesBuf
  /-- `pesFree[video]`, head first -/
  pesFreeV : List Nat
  /-- `pesFree[audio]`, head first -/
  pesFreeA : List Nat
deriving DecidableEq, Repr

/-- The instances of one index are bound to each other (10_state.md R24). -/
structure Inst where
  eng : Eng
  dvr : Dvr
  dvt : Dvt
  ts : Ts
deriving DecidableEq, Repr

/-- The machine. -/
structure State where
  /-- the implementation parameters; constant (00_scope.md R8; log 1) -/
  par : Params
  /-- the last word written to CMD; the host reads 0 (10_state.md R21; log 21) -/
  cmd : Word
  arg0 : Word
  arg1 : Word
  arg2 : Word
  arg3 : Word
  res0 : Word
  res1 : Word
  res2 : Word
  res3 : Word
  /-- STATUS[7:0] -/
  status : Byte
  faults : Word
  /-- the halted state of 60_exceptions.md R314 -/
  halted : Bool
  /-- the fault outcome (X, info) of the raise that halted the block -/
  faultInfo : Option BlockFault
  inCallback : Nat
  /-- the instances; there are `par.eInst` of them -/
  inst : List Inst
  /-- BUF: the bytes written since power-on; an unlisted address holds any value (log 5) -/
  buf : Mem
  /-- the allocator's: the regions it has handed out since reset, as (base, size); none is freed within a
  run (20_memory.md R69; log 10) -/
  regions : List (Nat × Nat)
  /-- what went out on the bus, oldest first (20_memory.md R73) -/
  wire : List WirePacket
  /-- the model's own: requests and callbacks made so far, oldest first (log 14) -/
  out : List Out
  /-- the model's own: resets so far (log 6) -/
  epoch : Nat
  /-- the model's own: the schedule's next moves (log 3) -/
  agenda : List Action
  /-- the model's own: the environment's next answers (log 2) -/
  tape : List Draw
  /-- the model's own: free values taken so far (log 2) -/
  drawn : Nat
deriving DecidableEq, Repr

/-- The model's own stops: there are none, so no step ends in one. Each fault the spec names is a raise,
after which the block is halted in a next state (60_exceptions.md R314), an access outside BUF among them
(20_memory.md R62). -/
inductive Fault : Type
deriving DecidableEq, Repr

/-- Refusals. No arm of `exec` answers with one. -/
inductive Refusal where
  /-- Raised by an arm of `exec` whose instruction has no meaning yet. Safe. -/
  | notModelled (mnemonic : String)
deriving DecidableEq, Repr

/-- Reset values of 10_state.md R26 and R27. -/
def Eng.reset : Eng where
  kind := .dvrx
  segments := 0
  cyclesPerSeg := 0
  minPayload := 0
  channel := 0
  cycleBufSize := 0
  running := false
  setupDone := false
  fatal := false
  firstCallback := false
  finalizeOwed := 0
  curSeg := 0
  wdRegistered := false
  wdArmed := false
  expectedTs := 0
  stealCount := 0
  recoveryThreshold := 3
  localSid := 0
  bufBase := 0
  demuxAttach := false
  urxCallback := false
  jump := []
  slotHdr := []
  tsSlot := []
  startCT := 0
  stopHold := false
  events := []
  lastFmt := none
  peRunning := false
  peSeg := 0
  peStops := 0

/-- Reset values of one DV receive frame (10_state.md R30). -/
def RxFrame.reset : RxFrame where
  state := .free
  dispatching := false
  currentOffset := 0
  frameLen := 0
  refCount := 0
  frameSYTTime := 0
  frameReceivedTimeStamp := 0
  data := []

/-- Reset values of 10_state.md R29 and R30. -/
def Dvr.reset (p : Params) : Dvr where
  dvMode := 0
  frameSel := 0
  frames := List.replicate p.fRx RxFrame.reset
  freeQueue := List.range p.fRx
  currentFrame := none
  consumers := []

/-- Reset values of one transmit frame (10_state.md R33). -/
def TxFrame.reset : TxFrame where
  inUse := false
  curOffset := 0
  dclProgramRefCount := 0
  frameSYTTime := 0
  frameTransmitStartCycleTime := 0

/-- Reset values of 10_state.md R32 and R33. -/
def Dvt.reset (p : Params) : Dvt where
  dvMode := 0
  blocksPerCycle := 1
  txFrameBase := 0
  curFrame := none
  dbc := 0
  txCycleCount := 0
  txClock := 0
  frameSel := 0
  frames := List.replicate p.fTx TxFrame.reset
  slotRefs := []

/-- Reset values of 10_state.md R35. -/
def Stream.reset : Stream where
  foundFirst := false
  streamCont := none
  pesPacketPos := 0
  curBuf := none
  truncated := false

/-- A Free PES buffer as reset leaves it (10_state.md R36). -/
def PesBuf.reset (t : StreamType) : PesBuf where
  stype := t
  data := []
  pesBufLen := 0
  startTSPacketTimeStamp := 0
  state := .free
  pesTruncated := false

/-- Reset values of 10_state.md R34 to R36: `PES_POOL_INIT` Free buffers per type, the video ids
first. -/
def Ts.reset (p : Params) : Ts where
  mode := 0
  videoPid := ⟨false, 0⟩
  audioPid := ⟨false, 0⟩
  pmtPid := ⟨false, 0⟩
  psiTimeout := p.psiTimeout
  pktSinceCb := 0
  video := Stream.reset
  audio := Stream.reset
  bufs := List.replicate p.pesPoolInit (PesBuf.reset .video) ++
    List.replicate p.pesPoolInit (PesBuf.reset .audio)
  pesFreeV := List.range p.pesPoolInit
  pesFreeA := (List.range p.pesPoolInit).map (· + p.pesPoolInit)

/-- One instance of each stateful unit after reset (10_state.md R24). -/
def Inst.reset (p : Params) : Inst where
  eng := Eng.reset
  dvr := Dvr.reset p
  dvt := Dvt.reset p
  ts := Ts.reset p

/-- The block at power-on with parameters `p` (70_reset_and_hazards.md R341, R342): `E_INST` instances of
each index, BUF holds any value, the schedule and the environment's answers are open (logs 2, 3, 5). -/
def State.powerOn (p : Params) : State where
  par := p
  cmd := 0
  arg0 := 0
  arg1 := 0
  arg2 := 0
  arg3 := 0
  res0 := 0
  res1 := 0
  res2 := 0
  res3 := 0
  status := 0
  faults := 0
  halted := false
  faultInfo := none
  inCallback := 0
  inst := List.replicate p.eInst (Inst.reset p)
  buf := []
  regions := []
  wire := []
  out := []
  epoch := 0
  agenda := []
  tape := []
  drawn := 0

/-- The machine right after reset, for the parameter values of log 1. -/
def State.reset : State := State.powerOn Config.params

end Sys2Proof.Machine
end

