-- ==== Sys2Proof/Machine/Flags.lean ====
section
/-! DEFINITION. The condition codes of the block: status codes, message codes, the FAULTS bits and the
bits of the status views TRANSPORT and WATCHDOG (spec/10_state.md R23, R26, spec/60_exceptions.md
R311, R312, R314). -/

namespace Sys2Proof.Machine

/-- The status codes (60_exceptions.md R311). -/
inductive Status where
  | success | error | noMemory | exclusiveAccess | deviceError | noSpace | badArgument
  | illegalCommand
deriving DecidableEq, Repr

/-- The value written to STATUS[7:0] (R311). -/
def Status.code : Status → Byte
  | .success => 0x00
  | .error => 0x01
  | .noMemory => 0x02
  | .exclusiveAccess => 0x03
  | .deviceError => 0x04
  | .noSpace => 0x05
  | .badArgument => 0x06
  | .illegalCommand => 0x07

/-- The message codes passed to client callbacks (60_exceptions.md R312). -/
def Msg.code : Msg → Byte
  | .overrun => 0x01
  | .autoRestartFailed => 0x02
  | .timeStampAdjust => 0x03
  | .noData => 0x04
  | .forcedStop => 0x05
  | .frameReceived => 0x10
  | .frameCorrupted => 0x11
  | .wrongMode => 0x12
  | .frameDropped => 0x13
  | .pesReceived => 0x20
  | .packetError => 0x21
  | .discontinuity => 0x22
  | .pesLargerThanAllocatedBuffer => 0x23
  | .flushedPesBuffer => 0x24
  | .rescanningForPsi => 0x25

/-- The bit of FAULTS each fault sets (60_exceptions.md R314). -/
def BlockFault.bit : BlockFault → Nat
  | .shortPayload _ => 0
  | .ctRange _ => 1
  | .segOrder _ _ => 2
  | .cycleOversize _ _ => 3
  | .finalizeTimeout _ => 4
  | .reentrant _ => 5
  | .badAddress _ _ => 6

/-- FAULTS with the fault's sticky bit set (60_exceptions.md R314 point 1). -/
def BlockFault.flag (f : BlockFault) (faults : Word) : Word := faults ||| (1#32 <<< f.bit)

/-- A command's completion writes its status, last (10_state.md R23, 60_exceptions.md R311). -/
def State.setStatus (s : State) (st : Status) : State := { s with status := st.code }

/-- The CSR code of a kind (10_state.md R26). -/
def Kind.code : Kind → BitVec 2
  | .dvrx => 0
  | .dvtx => 1
  | .urx => 2
  | .utx => 3

/-- The kind with this CSR code; all four codes are legal (10_state.md R26). -/
def Kind.ofCode (c : BitVec 2) : Kind :=
  if c = 0 then .dvrx else if c = 1 then .dvtx else if c = 2 then .urx else .utx

/-- DVRX and URX receive; DVTX and UTX transmit (42_buffer_engine.md R150). -/
def Kind.isReceive : Kind → Bool
  | .dvrx | .urx => true
  | .dvtx | .utx => false

/-- CSR TRANSPORT: bit 0 running, 1 setupDone, 2 finalizePending, 3 fatal, 4 firstCallback
(10_state.md R26, 42_buffer_engine.md R150). -/
def Eng.transport (g : Eng) : Word :=
  (BitVec.ofBool g.firstCallback ++ BitVec.ofBool g.fatal ++
    BitVec.ofBool (decide (0 < g.finalizeOwed)) ++ BitVec.ofBool g.setupDone ++
    BitVec.ofBool g.running).setWidth 32

/-- CSR WATCHDOG: bit 0 registered, bit 1 armed (10_state.md R26). -/
def Eng.watchdog (g : Eng) : Word :=
  (BitVec.ofBool g.wdArmed ++ BitVec.ofBool g.wdRegistered).setWidth 32

/-- The state field of the DVR CSR FRAME_INFO (10_state.md R29). -/
def FrameState.code : FrameState → BitVec 2
  | .free => 0
  | .filling => 1
  | .dispatched => 2

/-- `V_STATE` / `A_STATE`: truncated[8], cont[7:4], contSet[1], foundFirst[0] (47_control.md R301). The bits
between the fields read as 0 (DESIGN CHOICE, log 28). -/
def Stream.stateWord (st : Stream) : Word :=
  (BitVec.ofBool st.truncated ++ st.streamCont.getD 0 ++ 0#2 ++
    BitVec.ofBool st.streamCont.isSome ++ BitVec.ofBool st.foundFirst).setWidth 32

/-- A PID register: bit 15 valid, bits [12:0] PID (10_state.md R34). Bits [14:13] read as 0 (DESIGN CHOICE,
log 28). -/
def PidReg.word (r : PidReg) : Word := (BitVec.ofBool r.valid ++ 0#2 ++ r.pid).setWidth 32

/-- The PID register a written word stands for; bits [31:16] are ignored (10_state.md R25, R34), and so are
bits [14:13] (DESIGN CHOICE, log 28). -/
def PidReg.ofWord (w : Word) : PidReg := ⟨w.getLsbD 15, w.extractLsb' 0 13⟩

/-- `CUR_FRAME`: bit 15 valid, bits [14:0] index, and 0 when there is none (47_control.md R301). -/
def frameIndexWord (f : Option Nat) : Word :=
  match f with
  | some f => (1#1 ++ BitVec.ofNat 15 f).setWidth 32
  | none => 0

/-- Bits of the TS CSR MODE (10_state.md R34). -/
def Ts.autoPsi (t : Ts) : Bool := t.mode.getLsbD 0
@[inherit_doc Ts.autoPsi] def Ts.partialDemux (t : Ts) : Bool := t.mode.getLsbD 1
@[inherit_doc Ts.autoPsi] def Ts.rawPsiRegistered (t : Ts) : Bool := t.mode.getLsbD 2
@[inherit_doc Ts.autoPsi] def Ts.hdvRegistered (t : Ts) : Bool := t.mode.getLsbD 3

end Sys2Proof.Machine
end

