-- ==== Sys2Proof/Machine/Operands.lean ====
section
/-! DEFINITION. The operand forms: fields of isochronous headers, CIP headers, cycle times and
transport packets, and the byte order that assembles them (spec/00_scope.md R10, R11,
spec/30_encoding.md R93 to R103). -/

namespace Sys2Proof.Machine

/-! ### Bytes and big-endian fields (00_scope.md R11, 20_memory.md R64) -/

/-- `p[k]`. -/
def byteAt (p : List Byte) (k : Nat) : Byte := p.getD k 0

/-- `be16(p, k)`. -/
def be16 (p : List Byte) (k : Nat) : Half := byteAt p k ++ byteAt p (k + 1)

/-- `be24(p, k)`. -/
def be24 (p : List Byte) (k : Nat) : BitVec 24 :=
  byteAt p k ++ byteAt p (k + 1) ++ byteAt p (k + 2)

/-- `be32(p, k)`. -/
def be32 (p : List Byte) (k : Nat) : Word :=
  byteAt p k ++ byteAt p (k + 1) ++ byteAt p (k + 2) ++ byteAt p (k + 3)

/-- The four bytes of a value the block writes to BUF, most significant first (20_memory.md R64). -/
def be32Bytes (w : Word) : List Byte :=
  [w.extractLsb' 24 8, w.extractLsb' 16 8, w.extractLsb' 8 8, w.extractLsb' 0 8]

/-! ### The isochronous header (30_encoding.md R93) -/

/-- `data_length`, bits [31:16]. -/
def dataLength (h : Word) : Nat := (h.extractLsb' 16 16).toNat

/-- `tag`, bits [15:14]. -/
def isoTag (h : Word) : BitVec 2 := h.extractLsb' 14 2

/-- `isCIP(h)`: the tag is 0b01 (40_cip_codec.md R121). -/
def isCipHeader (h : Word) : Bool := isoTag h == 0b01#2

/-- A transmitted header: data_length, tag 0b01, channel, tcode 0xA, sy 0 (44_dv_transmit.md R245). -/
def isoHeader (len : Nat) (channel : BitVec 6) : Word :=
  BitVec.ofNat 16 len ++ 0b01#2 ++ channel ++ 0xA#4 ++ 0x0#4

/-- `carriesPayload(h)` (42_buffer_engine.md R176). -/
def carriesPayload (h : Word) : Bool :=
  if isCipHeader h then decide (8 < dataLength h) else decide (0 < dataLength h)

/-! ### The CIP header (30_encoding.md R94 to R96, 40_cip_codec.md R123) -/

/-- The fields of a CIP header (40_cip_codec.md R123). -/
structure CipHeader where
  sid : BitVec 6
  dbs : Byte
  fn : BitVec 2
  qpc : BitVec 3
  sph : Bool
  dbc : Byte
  eoh : Bool
  fmt : BitVec 6
  fdfIs24 : Bool
  /-- 24 bits where `fdfIs24`, else byte 5 zero-extended -/
  fdf : BitVec 24
  syt : Half
deriving DecidableEq, Repr

/-- The fields read from the first 8 payload bytes (R123). -/
def cipHeader (p : List Byte) : CipHeader where
  sid := (byteAt p 0).extractLsb' 0 6
  dbs := byteAt p 1
  fn := (byteAt p 2).extractLsb' 6 2
  qpc := (byteAt p 2).extractLsb' 3 3
  sph := (byteAt p 2).getLsbD 2
  dbc := byteAt p 3
  eoh := (byteAt p 4).getLsbD 7
  fmt := (byteAt p 4).extractLsb' 0 6
  fdfIs24 := (byteAt p 4).getLsbD 5
  fdf := if (byteAt p 4).getLsbD 5 then be24 p 5 else (byteAt p 5).setWidth 24
  syt := be16 p 6

/-- `sourcePacketSize = dbs*4*2^fn` (30_encoding.md R96). -/
def CipHeader.sourcePacketSize (h : CipHeader) : Nat := h.dbs.toNat * 4 * 2 ^ h.fn.toNat

/-- The parsed record (40_cip_codec.md R123). -/
structure CipRecord where
  header : CipHeader
  sourcePacketSize : Nat
  numSourcePackets : Nat
  /-- the true count exceeded `MAX_SOURCE_PACKETS`: the record's status is `NoSpace` -/
  clamped : Bool
deriving DecidableEq, Repr

/-- `packetOffset[i] = 8 + i*sourcePacketSize` (R123). -/
def CipRecord.packetOffset (r : CipRecord) (i : Nat) : Nat := 8 + i * r.sourcePacketSize

/-- `parseCIP(p, len)`: none is `DeviceError`, when the source packet size is 0 (R122, R123). -/
def parseCip (maxPackets : Nat) (p : List Byte) (len : Nat) : Option CipRecord :=
  let h := cipHeader p
  let sps := h.sourcePacketSize
  if sps = 0 then none
  else
    let n := (len - 8) / sps
    some ⟨h, sps, min n maxPackets, decide (maxPackets < n)⟩

/-- `fmt = 0x20` marks MPEG-2 TS (30_encoding.md R103). -/
def fmtMpeg2Ts : BitVec 6 := 0x20#6

/-- The CIP header BUILD_CIP makes of its operands, as its two quadlets, or none where it answers
BadArgument (40_cip_codec.md R124). -/
def buildCip (a0 a1 a2 : Word) : Option (Word × Word) :=
  if a0.extractLsb' 30 2 ≠ 0 ∨ a2.extractLsb' 16 16 ≠ 0 then none
  else if a1.getLsbD 29 then some (a0, a1)
  else if a1.extractLsb' 8 16 ≠ 0 then none
  else some (a0, a1.extractLsb' 24 8 ++ a1.extractLsb' 0 8 ++ a2.extractLsb' 0 16)

/-- Quadlet 0 of a transmitted DV packet (44_dv_transmit.md R245). -/
def dvQuadlet0 (sid : BitVec 6) (row : DvFormat) (dbc : Byte) : Word :=
  0b00#2 ++ sid ++ row.dbs ++ row.fn ++ 0b000#3 ++ 0#1 ++ 0b00#2 ++ dbc

/-- Quadlet 1 of a transmitted DV packet: eoh 1, form 0, fmt 0x00 (44_dv_transmit.md R245). -/
def dvQuadlet1 (row : DvFormat) (syt : Half) : Word :=
  1#1 ++ 0#1 ++ 0x00#6 ++ row.mode ++ syt

/-- `isFrameStart(p)` (43_dv_receive.md R204). -/
def isFrameStart (p : List Byte) : Bool := (be16 p 8 &&& 0xE0FC#16) == 0x0004#16

/-! ### Cycle times (41_cycle_time.md R140 to R146) -/

/-- `sec = t[31:25]`. -/
def ctSec (t : Word) : Nat := (t.extractLsb' 25 7).toNat

/-- `cyc = t[24:12]`. -/
def ctCyc (t : Word) : Nat := (t.extractLsb' 12 13).toNat

/-- `off = t[11:0]`. -/
def ctOff (t : Word) : Nat := (t.extractLsb' 0 12).toNat

/-- A cycle time from its fields, each cut to its width. -/
def ctMake (sec cyc off : Nat) : Word :=
  BitVec.ofNat 7 sec ++ BitVec.ofNat 13 cyc ++ BitVec.ofNat 12 off

/-- `t` is legal: `off < 3072` and `cyc < 8000` (R140). -/
abbrev ctLegal (t : Word) : Prop := ctOff t < 3072 ∧ ctCyc t < 8000

/-- `val(t) = (sec*8000 + cyc)*3072 + off` (R140). -/
def ctVal (t : Word) : Nat := (ctSec t * 8000 + ctCyc t) * 3072 + ctOff t

/-- The sum of two legal cycle times, with both carries (R142). -/
def ctSum (a b : Word) : Word :=
  let o := ctOff a + ctOff b
  let c0 := if 3072 ≤ o then 1 else 0
  let o := if 3072 ≤ o then o - 3072 else o
  let c := ctCyc a + ctCyc b + c0
  let c1 := if 8000 ≤ c then 1 else 0
  let c := if 8000 ≤ c then c - 8000 else c
  ctMake ((ctSec a + ctSec b + c1) % 128) c o

/-- `idx(t) = (sec mod 8)*8000 + cyc` (R143). -/
def ctIdx (t : Word) : Nat := ctSec t % 8 * 8000 + ctCyc t

/-- `(idx(actual) - idx(expected)) mod 64000`, in 0..63999 (R144). -/
def ctLost (actual expected : Word) : Nat := (ctIdx actual + 64000 - ctIdx expected) % 64000

/-- `k` cycles as a cycle time: `k = sec*8000 + cyc`, `sec` taken mod 128 (R146). -/
def ctCycles (k : Nat) : Word := ctMake (k / 8000 % 128) (k % 8000) 0

/-! ### Transport packets (30_encoding.md R100, R101, 45_ts_demux.md R272) -/

/-- The header fields of a 188-byte transport packet (45_ts_demux.md R272). -/
structure TsHeader where
  tei : Bool
  pusi : Bool
  pid : Pid
  afc : BitVec 2
  cc : BitVec 4
  /-- `adaptationFieldLength`: `1 + t[4]` if `afc[1] = 1`, else 0 -/
  afl : Nat
deriving DecidableEq, Repr

/-- The fields of the packet `t` (R272). -/
def tsHeader (t : List Byte) : TsHeader where
  tei := (byteAt t 1).getLsbD 7
  pusi := (byteAt t 1).getLsbD 6
  pid := (byteAt t 1).extractLsb' 0 5 ++ byteAt t 2
  afc := (byteAt t 3).extractLsb' 4 2
  cc := (byteAt t 3).extractLsb' 0 4
  afl := if (byteAt t 3).getLsbD 5 then 1 + (byteAt t 4).toNat else 0

/-- `afc[0]`: the packet carries payload (R272). -/
def TsHeader.hasPayload (h : TsHeader) : Bool := h.afc.getLsbD 0

/-- `afc[1]`: the packet carries an adaptation field (R272). -/
def TsHeader.hasAdaptation (h : TsHeader) : Bool := h.afc.getLsbD 1

/-- The payload: `t[4+afl .. 187]` when `afc[0] = 1`, else empty (R272, R275). -/
def tsPayload (h : TsHeader) (t : List Byte) : List Byte :=
  if h.hasPayload then t.drop (4 + h.afl) else []

/-- The continuity counter a packet must carry after `last` (45_ts_demux.md R278). -/
def expectedCc (h : TsHeader) (last : BitVec 4) : BitVec 4 :=
  if h.hasPayload then last + 1 else last

/-! ### Sizes (42_buffer_engine.md R152) -/

/-- Doubles `p` until it reaches `m`, at most `fuel` times. -/
def doubleUntil (m : Nat) : (fuel p : Nat) → Nat
  | 0, p => p
  | fuel + 1, p => if m ≤ p then p else doubleUntil m fuel (2 * p)

/-- `nextPow2(m)`: the least power of two that is at least `m`, for `m ≥ 1` (R152). -/
def nextPow2 (m : Nat) : Nat := doubleUntil m m 1

end Sys2Proof.Machine
end

