-- ==== Sys2Proof/Machine/Ops.lean ====
section
/-! DEFINITION. The shared operations: a step's computation, memory, registers, instance records,
draws, raising a fault and the reset that alone leaves the halted state, requests to the Port Engine
(spec/00_scope.md R12, spec/20_memory.md R62, R69, R71, R75, spec/60_exceptions.md R314, R318,
spec/70_reset_and_hazards.md R341). -/

namespace Sys2Proof.Machine

/-- Why a step ends before its pseudocode does. -/
inductive Cut where
  /-- a raise (60_exceptions.md R314) -/
  | fault
  /-- reset is asserted while a client runs, and the callback is abandoned (70_reset_and_hazards.md R341
  point 3) -/
  | reset
deriving DecidableEq, Repr

/-- A piece of a step's pseudocode. It ends with a value and the state it leaves (`ok`), or it cuts the
whole step short in the state it leaves (`error`; 60_exceptions.md R314, R315). -/
abbrev M := EStateM Cut State

/-- The state a computation leaves, whether it ended or was cut short. -/
def finalState {α : Type} : EStateM.Result Cut State α → State
  | .ok _ s => s
  | .error _ s => s

/-! ### Sparse values -/

/-- The value at key `k`, if one is listed. -/
def sparseGet {α : Type} (m : Sparse α) (k : Nat) : Option α := m.lookup k

/-- `vs` at the keys `a, a+1, ..`. -/
def runFrom {α : Type} : Nat → List α → Sparse α
  | _, [] => []
  | a, v :: vs => (a, v) :: runFrom (a + 1) vs

/-- `m` with the run `vs` stored from key `a` on. -/
def sparseSetRun {α : Type} (m : Sparse α) (a : Nat) (vs : List α) : Sparse α :=
  m.filter (fun c => decide (c.1 < a)) ++ runFrom a vs ++
    m.filter (fun c => decide (a + vs.length ≤ c.1))

/-- `m` with `v` at key `k`. -/
def sparseSet {α : Type} (m : Sparse α) (k : Nat) (v : α) : Sparse α := sparseSetRun m k [v]

/-- `m` without key `k`. -/
def sparseErase {α : Type} (m : Sparse α) (k : Nat) : Sparse α :=
  m.filter (fun c => decide (c.1 ≠ k))

/-- The canonical form: keys strictly rising. An unlisted key holds no stored value, so no listed
entry equals what it would read as (log 5). -/
abbrev Sparse.wf {α : Type} (m : Sparse α) : Prop := m.Pairwise (fun c d => c.1 < d.1)

/-- BUF is in canonical form and holds addresses `0 .. BUF_BYTES-1` only (20_memory.md R61). -/
abbrev Memory.wf (bufBytes : Nat) (m : Mem) : Prop :=
  Sparse.wf m ∧ ∀ c ∈ m, c.1 < bufBytes

/-! ### Instance records -/

/-- The number of instances, `E_INST` (00_scope.md R8, 10_state.md R24). -/
def State.eInst (s : State) : Nat := s.inst.length

/-- The instances of index `e`; beyond `E_INST` the reset record stands in (no rule reads it). -/
def State.instAt (s : State) (e : Nat) : Inst := s.inst.getD e (Inst.reset s.par)

def State.eng (s : State) (e : Nat) : Eng := (s.instAt e).eng
def State.dvr (s : State) (e : Nat) : Dvr := (s.instAt e).dvr
def State.dvt (s : State) (e : Nat) : Dvt := (s.instAt e).dvt
def State.ts (s : State) (e : Nat) : Ts := (s.instAt e).ts

/-- Instance `e` replaced. -/
def State.setInst (s : State) (e : Nat) (x : Inst) : State := { s with inst := s.inst.set e x }

def State.modEng (s : State) (e : Nat) (f : Eng → Eng) : State :=
  s.setInst e { s.instAt e with eng := f (s.eng e) }
def State.modDvr (s : State) (e : Nat) (f : Dvr → Dvr) : State :=
  s.setInst e { s.instAt e with dvr := f (s.dvr e) }
def State.modDvt (s : State) (e : Nat) (f : Dvt → Dvt) : State :=
  s.setInst e { s.instAt e with dvt := f (s.dvt e) }
def State.modTs (s : State) (e : Nat) (f : Ts → Ts) : State :=
  s.setInst e { s.instAt e with ts := f (s.ts e) }

/-- The state as it stands. -/
def getState : M State := fun s => .ok s s
def getEng (e : Nat) : M Eng := fun s => .ok (s.eng e) s
def getDvr (e : Nat) : M Dvr := fun s => .ok (s.dvr e) s
def getDvt (e : Nat) : M Dvt := fun s => .ok (s.dvt e) s
def getTs (e : Nat) : M Ts := fun s => .ok (s.ts e) s
def getPar : M Params := fun s => .ok s.par s
/-- A change of state that cannot raise. -/
def update (f : State → State) : M Unit := fun s => .ok () (f s)
def modEng (e : Nat) (f : Eng → Eng) : M Unit := update (·.modEng e f)
def modDvr (e : Nat) (f : Dvr → Dvr) : M Unit := update (·.modDvr e f)
def modDvt (e : Nat) (f : Dvt → Dvt) : M Unit := update (·.modDvt e f)
def modTs (e : Nat) (f : Ts → Ts) : M Unit := update (·.modTs e f)

/-! ### Command registers -/

def State.setRes0 (s : State) (v : Word) : State := { s with res0 := v }
def State.setRes1 (s : State) (v : Word) : State := { s with res1 := v }
def State.setRes2 (s : State) (v : Word) : State := { s with res2 := v }
def State.setRes3 (s : State) (v : Word) : State := { s with res3 := v }

/-- `RES[0] <- v` (00_scope.md R12). -/
def writeRes0 (v : Word) : M Unit := update (·.setRes0 v)
/-- `RES[1] <- v`. -/
def writeRes1 (v : Word) : M Unit := update (·.setRes1 v)
/-- `RES[2] <- v`. -/
def writeRes2 (v : Word) : M Unit := update (·.setRes2 v)
/-- `RES[3] <- v`. -/
def writeRes3 (v : Word) : M Unit := update (·.setRes3 v)

/-- A word written to CMD (10_state.md R21; log 21). -/
def State.setCmd (s : State) (w : Word) : State := { s with cmd := w }

/-- What the host reads of a register: CMD is write-only and reads 0, STATUS[31:8] reads 0
(10_state.md R21). -/
def State.hostRead (s : State) : HostReg → Word
  | .cmd => 0
  | .arg0 => s.arg0
  | .arg1 => s.arg1
  | .arg2 => s.arg2
  | .arg3 => s.arg3
  | .res0 => s.res0
  | .res1 => s.res1
  | .res2 => s.res2
  | .res3 => s.res3
  | .status => s.status.setWidth 32
  | .faults => s.faults

/-- A host write to a register other than CMD: ARG0 to ARG3 take the value, and a write to RES,
STATUS or FAULTS is ignored (10_state.md R21). A write to CMD issues a command and is no case of
this operation. -/
def State.hostWrite (s : State) (r : HostReg) (v : Word) : State :=
  match r with
  | .arg0 => { s with arg0 := v }
  | .arg1 => { s with arg1 := v }
  | .arg2 => { s with arg2 := v }
  | .arg3 => { s with arg3 := v }
  | _ => s

/-! ### Faults and reset -/

/-- Taking a fault: its sticky bit is set, its outcome is recorded and the block is halted; all else
stays as the step left it. In a block already halted, where BUF accesses still work and may raise, the
first outcome stays the recorded one: "only the first raise of a run is observable as an outcome"
(60_exceptions.md R314; log 8). -/
def State.takeFault (s : State) (f : BlockFault) : State :=
  { s with
    faults := f.flag s.faults, halted := true
    faultInfo := if s.halted then s.faultInfo else some f }

/-- `raise FAULT_X(info)` (60_exceptions.md R314). -/
def raise {α : Type} (f : BlockFault) : M α := fun s => .error .fault (s.takeFault f)

/-- The reset step, the only one that leaves the halted state (70_reset_and_hazards.md R341): every
register, CSR and internal item takes its reset value and a callback in progress is abandoned; BUF,
`wire` and the parameters stay. The observation `out`, the schedule and the coming answers stay
(log 22), and no allocated region is live any more (log 10). -/
def State.resetBlock (s : State) : State :=
  { State.powerOn s.par with
    buf := s.buf, wire := s.wire, out := s.out, epoch := s.epoch + 1
    agenda := s.agenda, tape := s.tape, drawn := s.drawn }

/-- Where reset is asserted here, inside a step, the step goes no further (R341 point 3). -/
def checkReset (asserted : Bool) : M Unit := fun s => if asserted then .error .reset s else .ok () s

/-- The state after a whole step: one that a reset cut short ends with that reset (R341). -/
def stepEnd {α : Type} : EStateM.Result Cut State α → State
  | .ok _ s => s
  | .error .fault s => s
  | .error .reset s => s.resetBlock

/-! ### BUF (20_memory.md R62) -/

/-- The byte of BUF at address `a`: the last one written there, else whatever power-on left
(70_reset_and_hazards.md R341 point 6; log 5). -/
def State.readByte (s : State) (a : Nat) : Byte :=
  match sparseGet s.buf a with
  | some b => b
  | none => Config.powerOnByte a

/-- `BUF[a .. a+n-1]`. -/
def State.readBytes (s : State) (a n : Nat) : List Byte :=
  (List.range n).map (fun i => s.readByte (a + i))

/-- `bytes` stored from address `a` on. -/
def State.writeBytes (s : State) (a : Nat) (bytes : List Byte) : State :=
  { s with buf := sparseSetRun s.buf a bytes }

/-- `MemRead(addr, n)`: the whole range is checked, without wrap-around, before any byte is read
(R62). -/
def memRead (a n : Nat) : M (List Byte) := fun s =>
  if a + n ≤ s.par.bufBytes then .ok (s.readBytes a n) s else raise (.badAddress a n) s

/-- `MemWrite(addr, n, bytes)`: the whole range is checked before any byte is written (R62). -/
def memWrite (a : Nat) (bytes : List Byte) : M Unit := fun s =>
  if a + bytes.length ≤ s.par.bufBytes then .ok () (s.writeBytes a bytes)
  else raise (.badAddress a bytes.length) s

/-- A memory-port write of one byte by the host or a client. An address outside BUF raises
FAULT_BAD_ADDRESS, as every access does (20_memory.md R61, R67, R81; 92_eei_decisions.md D5; log 9). -/
def portWrite (a : Nat) (b : Byte) : M Unit := memWrite a [b]

/-- A memory-port read of one byte; inside BUF it has no side effect (R67), and outside it raises. -/
def portRead (a : Nat) : M Unit := do
  let _ ← memRead a 1
  pure ()

/-! ### Draws (00_scope.md R13; log 2) -/

/-- One answer has been taken and `rest` is left of the tape. -/
def State.takeDraw (s : State) (rest : List Draw) : State :=
  { s with tape := rest, drawn := s.drawn + 1 }

/-- One draw: the environment's next answer, from the tape, and beyond it a free value. -/
def draw : M Draw := fun s =>
  match s.tape with
  | d :: t => .ok d (s.takeDraw t)
  | [] => .ok (Config.draw s.drawn) (s.takeDraw [])

/-- The draw's payload of `n` bytes; a byte it does not list is a free value (log 11). -/
def drawPayload (d : Draw) (serial n : Nat) : List Byte :=
  (List.range n).map fun j =>
    match d.bytes[j]? with
    | some b => b
    | none => Config.drawByte serial j

/-- The answer says `ok` / `Success` (log 11). -/
def drawAgrees (d : Draw) : Bool := d.status == 0

/-- A request or callback leaves the block (log 14). -/
def State.emit (s : State) (o : Out) : State := { s with out := s.out ++ [o] }

/-- A request to the allocator or the Port Engine, and its answer. -/
def request (o : Out) : M Draw := do
  update (·.emit o)
  draw

/-! ### Requests (20_memory.md R69, R71, R75) -/

/-- The TX_FRAME_BASE range of an instance that transmits DV frames, as (base, size): its `F_TX` frames of
`frameLen` bytes (10_state.md R33, 44_dv_transmit.md R241; log 10). -/
def Inst.txRange (p : Params) (x : Inst) : Option (Nat × Nat) :=
  match x.eng.kind, p.dvRow x.dvt.dvMode with
  | .dvtx, some row => some (x.dvt.txFrameBase.toNat, p.fTx * row.frameSize)
  | _, _ => none

/-- No byte lies in both ranges, given as (base, size). -/
def rangesDisjoint (a b : Nat × Nat) : Bool :=
  a.2 == 0 || b.2 == 0 || decide (a.1 + a.2 ≤ b.1) || decide (b.1 + b.2 ≤ a.1)

/-- The allocator may answer this region: it lies in BUF, "disjoint from every other live region and from
every `TX_FRAME_BASE` range" (20_memory.md R69; log 10). -/
def State.allocatable (s : State) (r : Nat × Nat) : Bool :=
  decide (r.1 + r.2 ≤ s.par.bufBytes) && s.regions.all (rangesDisjoint r) &&
    (s.inst.filterMap (Inst.txRange s.par)).all (rangesDisjoint r)

/-- A region is live from here on (R69). -/
def State.addRegion (s : State) (r : Nat × Nat) : State := { s with regions := s.regions ++ [r] }

/-- `alloc(size)`: `fail`, or the base of a region as R69 describes it; an answer that is none is taken as
`fail` (log 10). -/
def alloc (e size : Nat) : M (Option Word) := do
  let d ← request (.alloc e size)
  let s ← getState
  if drawAgrees d ∧ s.allocatable (d.word.toNat, size) then do
    update (·.addRegion (d.word.toNat, size))
    pure (some d.word)
  else pure none

/-- `pe.allocProgram(S, N, cbs)`: `ok` or `fail`. -/
def peAllocProgram (e S N cbs : Nat) : M Bool := do
  let d ← request (.allocProgram e S N cbs)
  pure (drawAgrees d)

/-- `pe.start(channel)`: `fail`, or `ok(ct)`, and then the Port Engine runs from segment 0 (R71). -/
def peStart (e : Nat) : M (Option Word) := do
  let g ← getEng e
  let d ← request (.peStart e g.channel)
  if drawAgrees d then
    modEng e (fun g => { g with peRunning := true, peSeg := 0 })
    pure (some d.word)
  else pure none

/-- `pe.stop()`, with the block's count of the FINALIZE it owes: the Port Engine stops and will
enqueue one FINALIZE (R71; 42_buffer_engine.md R158, R171). -/
def peStop (e : Nat) : M Unit := do
  update (·.emit (.peStop e))
  modEng e (fun g =>
    { g with peRunning := false, peStops := g.peStops + 1, finalizeOwed := g.finalizeOwed + 1 })

/-- `pe.localNodeId()`: a draw in 0..63. -/
def peLocalNodeId (e : Nat) : M (BitVec 6) := do
  let d ← request (.localNodeId e)
  pure (d.word.setWidth 6)

/-- `pe.cycleTime()`: a draw. -/
def peCycleTime (e : Nat) : M Word := do
  let d ← request (.cycleTime e)
  pure d.word

/-- `pe.modifyJump(s, target)`: at once, and it cannot fail (R75). -/
def Eng.modifyJump (g : Eng) (s : Nat) (t : Jump) : Eng := { g with jump := g.jump.set s t }

/-! ### Cycle-time arithmetic inside operations (41_cycle_time.md R141, R142, R146) -/

/-- `chk(t)` (R141). -/
def chk (t : Word) : M Unit := if ctLegal t then pure () else raise (.ctRange t)

/-- `addCycles(t, k)` (R146). -/
def addCycles (t : Word) (k : Nat) : M Word := do
  chk t
  pure (ctSum t (ctCycles k))

/-! ### What a client sees of unit-owned storage (20_memory.md R63) -/

/-- `frameData(e, f)` as a client observes it that holds a reference to the frame (`holds`) or none: the
`frameLen` bytes of the data array while the frame is Dispatched and the client holds a reference, else
any value, of any length (20_memory.md R63, 70_reset_and_hazards.md R351, 93_implementation_defined.md
I28). An index that names no frame of the store is not held either (log 6). -/
def State.frameData (s : State) (e f : Nat) (holds : Bool) : List Byte :=
  match (s.dvr e).frames[f]? with
  | some r =>
    if holds ∧ r.state = .dispatched then
      (List.range r.frameLen).map fun j => (sparseGet r.data j).getD (Config.frameByte s.epoch e f j)
    else Config.unheldData s.drawn e f
  | none => Config.unheldData s.drawn e f

/-- `pesData(e, id)`: the first `pesBufLen` bytes while the buffer is Delivered; else any value, of any
length, for an id that names no buffer, too (R63, R351; log 6). -/
def State.pesData (s : State) (e id : Nat) : List Byte :=
  match (s.ts e).bufs[id]? with
  | some b =>
    if b.state = .delivered then
      (List.range b.pesBufLen).map fun j => (sparseGet b.data j).getD (Config.pesByte s.epoch e id j)
    else Config.unheldData s.drawn e id
  | none => Config.unheldData s.drawn e id

end Sys2Proof.Machine
end

