-- ==== Sys2Proof/Machine/Command.lean ====
section
/-! DEFINITION. How a command and an event run: the decode order around a command's own pseudocode, and
the event step (spec/60_exceptions.md R319, R320, spec/30_encoding.md R90, spec/10_state.md R23). -/

namespace Sys2Proof.Machine

/-- The instance index a command names: imm[7:0], or imm[11:8] for CTL (30_encoding.md R88);
CIP and CT commands name none. -/
def namedInstance : Instr → Option Nat
  | .isCip | .parseCip | .buildCip | .ctAdd | .ctDelta | .ctIndex => none
  | .engSetup e | .engStart e | .engStop e | .engSetWatchdog e => some e
  | .evSegment e _ | .evOverrun e | .evFinalize e | .evForceStop e | .evWatchdog e
  | .evPollTimeout e => some e
  | .dvrCycle e | .dvrRelease e | .dvrRegister e | .dvtCycle e => some e
  | .tsPacket e | .tsFlush e | .tsReleasePes e | .urxCycle e | .utxCycle e => some e
  | .csrRead _ i _ | .csrWrite _ i _ => some i

/-- The commands allowed inside a callback (60_exceptions.md R319). -/
def nestable : Instr → Bool
  | .isCip | .parseCip | .buildCip | .ctAdd | .ctDelta | .ctIndex => true
  | .csrRead .. | .dvrRelease _ | .tsReleasePes _ | .engSetWatchdog _ => true
  | _ => false

/-- The instance a command names exists, or it names none (30_encoding.md R90). -/
def State.hasInstance (s : State) (i : Instr) : Bool :=
  match namedInstance i with
  | some e => decide (e < s.eInst)
  | none => true

/-- Checks 3 and 4 of the decode order, then the command's own pseudocode, then its status
(60_exceptions.md R320, R311). A body that answers no status is a command that holds: its status is
written when the hold ends (42_buffer_engine.md R158; log 17). -/
def runCommand (i : Instr) (body : M (Option Status)) : M Unit := fun s =>
  if s.hasInstance i = false then .ok () (s.setStatus .badArgument)
  else if 0 < s.inCallback ∧ nestable i = false then raise (.reentrant (encodeWord i)) s
  else
    match body s with
    | .ok (some st) t => .ok () (t.setStatus st)
    | .ok none t => .ok () t
    | .error r t => .error r t

/-- A command as the host's step runs it: a halted block ignores it (60_exceptions.md R320 check 1);
a raise inside it leaves the halted state (R314), and a reset that falls inside it the reset block
(70_reset_and_hazards.md R341). -/
def asCommand (i : Instr) (body : M (Option Status)) (s : State) :
    Host.Outcome State Fault Refusal :=
  .next (if s.halted then s else stepEnd (runCommand i body s))

/-- An event step: no checks but that a halted block consumes no event (R320). An event reaches the
engine of its own instance only (R317); a word that names no instance changes nothing (log 18). -/
def asEvent (e : Nat) (body : M Unit) (s : State) : Host.Outcome State Fault Refusal :=
  .next (if s.halted then s else if e < s.eInst then stepEnd (body s) else s)

/-- A command body that always ends with this status. -/
def answer (st : Status) : M (Option Status) := pure (some st)

end Sys2Proof.Machine
end

