-- ==== Sys2Proof/Machine/Cip.lean ====
section
/-! DEFINITION. Unit CIP: IS_CIP, PARSE_CIP, BUILD_CIP (spec/40_cip_codec.md R121 to R126). -/

namespace Sys2Proof.Machine

/-- The pseudocode of IS_CIP (R121). -/
def isCipBody : M (Option Status) := do
  let s ← getState
  writeRes0 (if isCipHeader s.arg0 then 1 else 0)
  answer .success

/-- The pointers PARSE_CIP writes, one per source packet, each big-endian (R122). -/
def packetPointers (pa : Nat) (r : CipRecord) : List Byte :=
  (List.range r.numSourcePackets).flatMap fun i => be32Bytes (BitVec.ofNat 32 (pa + r.packetOffset i))

/-- The pseudocode of PARSE_CIP (R122). -/
def parseCipBody : M (Option Status) := do
  let s ← getState
  let pa := s.arg0.toNat
  let len := s.arg1.toNat
  let out := s.arg2.toNat
  if len < 8 then raise (.shortPayload len)
  else do
    let p ← memRead pa len
    match parseCip s.par.maxSourcePackets p len with
    | none => answer .deviceError
    | some r => do
      memWrite out (packetPointers pa r)
      writeRes0 (BitVec.ofNat 32 r.numSourcePackets)
      writeRes1 (BitVec.ofNat 32 r.sourcePacketSize)
      writeRes2 (be32 p 0)
      writeRes3 (be32 p 4)
      answer (if r.clamped then .noSpace else .success)

/-- The pseudocode of BUILD_CIP (R124). -/
def buildCipBody : M (Option Status) := do
  let s ← getState
  match buildCip s.arg0 s.arg1 s.arg2 with
  | none => answer .badArgument
  | some (q0, q1) => do
    memWrite s.arg3.toNat (be32Bytes q0 ++ be32Bytes q1)
    writeRes0 q0
    writeRes1 q1
    answer .success

/-- IS_CIP (R121). -/
def execIsCip (s : State) : Host.Outcome State Fault Refusal := asCommand .isCip isCipBody s

/-- PARSE_CIP (R122). -/
def execParseCip (s : State) : Host.Outcome State Fault Refusal :=
  asCommand .parseCip parseCipBody s

/-- BUILD_CIP (R124). -/
def execBuildCip (s : State) : Host.Outcome State Fault Refusal :=
  asCommand .buildCip buildCipBody s

end Sys2Proof.Machine
end

