-- ==== Sys2Proof/Machine/Records.lean ====
section
/-! DEFINITION. What the rules do to the unit-owned records: DV receive frames and their free queue,
DV transmit frames and slot references, elementary streams and PES buffers (spec/43_dv_receive.md,
spec/44_dv_transmit.md, spec/45_ts_demux.md). Each operation is one change of a record, so that the
queue laws (R31, R212, R293) hold between any two of them. -/

namespace Sys2Proof.Machine

/-! ### DV receive (43_dv_receive.md) -/

/-- Frame record `f`; an index outside the store reads the reset record (no rule reads one). -/
def Dvr.frame (d : Dvr) (f : Nat) : RxFrame := d.frames.getD f RxFrame.reset

/-- Frame record `f` changed. -/
def Dvr.modFrame (d : Dvr) (f : Nat) (g : RxFrame → RxFrame) : Dvr :=
  { d with frames := d.frames.set f (g (d.frame f)) }

/-- `state <- Free; freeQueue.pushTail(f)` with no reference left (R209, R210, R211). -/
def Dvr.freeFrame (d : Dvr) (f : Nat) : Dvr :=
  { d.modFrame f (fun r => { r with state := .free, refCount := 0 }) with
    freeQueue := d.freeQueue ++ [f] }

/-- The record changes of `abandon(f)` (R209). -/
def Dvr.abandonFrame (d : Dvr) (f : Nat) : Dvr := { d.freeFrame f with currentFrame := none }

/-- The record changes of `startFrame(syt, ts)` for the frame popped from the queue (R206); `len` is the
frame length of the mode in force, which holds for this frame from here on (47_control.md R303). -/
def Dvr.beginFrame (d : Dvr) (f : Nat) (rest : List Nat) (len : Nat) (syt : Half) (ts : Word) : Dvr :=
  { d.modFrame f (fun r =>
      { r with
        state := .filling, currentOffset := 0, frameLen := len, refCount := 0, frameSYTTime := syt
        frameReceivedTimeStamp := ts }) with
    freeQueue := rest, currentFrame := some f }

/-- `copyBlock`'s copy into frame `f` (R208). -/
def Dvr.fillFrame (d : Dvr) (f : Nat) (bytes : List Byte) : Dvr :=
  d.modFrame f (fun r =>
    { r with
      data := sparseSetRun r.data r.currentOffset bytes
      currentOffset := r.currentOffset + bytes.length })

/-- The opening of `dispatch(f)`: the frame is complete, and is dispatched with one reference for each
consumer (R208, R210). -/
def Dvr.dispatchFrame (d : Dvr) (f : Nat) : Dvr :=
  { d.modFrame f (fun r =>
      { r with state := .dispatched, refCount := d.consumers.length, dispatching := true }) with
    currentFrame := none }

/-- A reference given back, if there is one (R210, R211). -/
def Dvr.dropReference (d : Dvr) (f : Nat) : Dvr :=
  d.modFrame f (fun r => { r with refCount := r.refCount - 1 })

/-- The close of `dispatch(f)`: with no reference left the frame goes Free (R210). -/
def Dvr.endDispatch (d : Dvr) (f : Nat) : Dvr :=
  let d1 := d.modFrame f (fun r => { r with dispatching := false })
  if (d1.frame f).state = .dispatched ∧ (d1.frame f).refCount = 0 then d1.freeFrame f else d1

/-- The record changes of an accepted DVR_RELEASE (R211). -/
def Dvr.release (d : Dvr) (f : Nat) : Dvr :=
  let d1 := d.dropReference f
  if (d1.frame f).refCount = 0 ∧ (d1.frame f).dispatching = false then d1.freeFrame f else d1

/-! ### DV transmit (44_dv_transmit.md) -/

/-- Transmit frame record `f`. -/
def Dvt.frame (d : Dvt) (f : Nat) : TxFrame := d.frames.getD f TxFrame.reset

/-- Transmit frame record `f` changed. -/
def Dvt.modFrame (d : Dvt) (f : Nat) (g : TxFrame → TxFrame) : Dvt :=
  { d with frames := d.frames.set f (g (d.frame f)) }

/-- `slotRefs[k]` (10_state.md R33). -/
def Dvt.refs (d : Dvt) (k : Nat) : List Nat := (sparseGet d.slotRefs k).getD []

/-- `f` added to a strictly rising list, once. -/
def insertIndex (f : Nat) : List Nat → List Nat
  | [] => [f]
  | g :: gs => if f < g then f :: g :: gs else if f = g then g :: gs else g :: insertIndex f gs

/-- `if f ∉ slotRefs[k]: slotRefs[k] ∪= {f}; dclProgramRefCount += 1` (R243). -/
def Dvt.addRef (d : Dvt) (k f : Nat) : Dvt :=
  if f ∈ d.refs k then d
  else
    { d.modFrame f (fun r => { r with dclProgramRefCount := r.dclProgramRefCount + 1 }) with
      slotRefs := sparseSet d.slotRefs k (insertIndex f (d.refs k)) }

/-- `slotRefs[k] <- {}` (R242). -/
def Dvt.clearRefs (d : Dvt) (k : Nat) : Dvt := { d with slotRefs := sparseErase d.slotRefs k }

/-- The record changes of an accepted pull (R248). -/
def Dvt.beginFrame (d : Dvt) (f : Nat) (syt : Half) : Dvt :=
  { d.modFrame f (fun r =>
      { r with
        inUse := true, curOffset := 0, dclProgramRefCount := 0
        frameTransmitStartCycleTime := d.txClock, frameSYTTime := syt }) with
    curFrame := some f }

/-- One block of frame `f` has been copied into buffer `k`; a frame copied to its end is fully
consumed by the producer (R243). -/
def Dvt.blockCopied (d : Dvt) (k f blk frameLen : Nat) : Dvt :=
  let d1 := (d.modFrame f (fun r => { r with curOffset := r.curOffset + blk })).addRef k f
  if (d1.frame f).curOffset = frameLen then { d1 with curFrame := none } else d1

/-! ### TS demux (45_ts_demux.md) -/

/-- `st(T)`. -/
def Ts.stream (t : Ts) : StreamType → Stream
  | .video => t.video
  | .audio => t.audio

/-- `st(T)` replaced. -/
def Ts.setStream (t : Ts) (y : StreamType) (x : Stream) : Ts :=
  match y with
  | .video => { t with video := x }
  | .audio => { t with audio := x }

/-- `st(T)` changed. -/
def Ts.modStream (t : Ts) (y : StreamType) (g : Stream → Stream) : Ts :=
  t.setStream y (g (t.stream y))

/-- `pesFree[T]`. -/
def Ts.pesFree (t : Ts) : StreamType → List Nat
  | .video => t.pesFreeV
  | .audio => t.pesFreeA

/-- `pesFree[T]` replaced. -/
def Ts.setPesFree (t : Ts) (y : StreamType) (q : List Nat) : Ts :=
  match y with
  | .video => { t with pesFreeV := q }
  | .audio => { t with pesFreeA := q }

/-- `nextPesId`: ids are handed out in order and never reused (R282; log 13). -/
def Ts.nextPesId (t : Ts) : Nat := t.bufs.length

/-- PES buffer `id`. -/
def Ts.buf (t : Ts) (id : Nat) : PesBuf := t.bufs.getD id (PesBuf.reset .video)

/-- PES buffer `id` changed. -/
def Ts.modBuf (t : Ts) (id : Nat) (g : PesBuf → PesBuf) : Ts :=
  { t with bufs := t.bufs.set id (g (t.buf id)) }

/-- `pesBufLen(curBuf) <- 0` where there is a current buffer (R279, R290). -/
def Ts.emptyCurrent (t : Ts) (y : StreamType) : Ts :=
  match (t.stream y).curBuf with
  | some b => t.modBuf b (fun r => { r with pesBufLen := 0 })
  | none => t

/-- `resetStream(T)` (R290). -/
def Ts.resetStream (t : Ts) (y : StreamType) : Ts :=
  (t.emptyCurrent y).modStream y (fun x =>
    { x with foundFirst := false, streamCont := none, truncated := false, pesPacketPos := 0 })

/-- The record changes of `discontinuity(T)` (R279). -/
def Ts.dropPartial (t : Ts) (y : StreamType) : Ts :=
  (t.emptyCurrent y).modStream y (fun x =>
    { x with foundFirst := false, truncated := false, pesPacketPos := 0 })

/-- `allocBuf(T)`: the head of the free queue, else a fresh buffer; it becomes the stream's current
buffer (R280, R282). -/
def Ts.allocCurrent (t : Ts) (y : StreamType) : Ts :=
  match t.pesFree y with
  | b :: q =>
    ((t.setPesFree y q).modBuf b (fun r =>
      { r with state := .filling, pesBufLen := 0, pesTruncated := false })).modStream y
        (fun x => { x with curBuf := some b })
  | [] =>
    ({ t with bufs := t.bufs ++ [{ PesBuf.reset y with state := .filling }] }).modStream y
      (fun x => { x with curBuf := some t.nextPesId })

/-- The last two lines of `startPES(T, ts)` (R280). -/
def Ts.beginPes (t : Ts) (y : StreamType) (ts : Word) : Ts :=
  match (t.stream y).curBuf with
  | some b =>
    (t.modBuf b (fun r => { r with pesBufLen := 0, startTSPacketTimeStamp := ts })).modStream y
      (fun x => { x with foundFirst := true, truncated := false, pesPacketPos := 0 })
  | none => t

/-- The record changes of `deliver(T, msg)` for the current buffer `b` (R283). -/
def Ts.deliverBuf (t : Ts) (y : StreamType) (b : Nat) : Ts :=
  (t.modBuf b (fun r =>
    { r with state := .delivered, pesTruncated := (t.stream y).truncated })).modStream y
      (fun x => { x with curBuf := none, pesPacketPos := 0 })

/-- `bytes` appended to buffer `b` (R281). -/
def Ts.appendBuf (t : Ts) (b : Nat) (bytes : List Byte) : Ts :=
  t.modBuf b (fun r =>
    { r with
      data := sparseSetRun r.data r.pesBufLen bytes
      pesBufLen := r.pesBufLen + bytes.length })

/-- The last line of `accumulate(T, bytes)` (R281). -/
def Ts.notePosition (t : Ts) (y : StreamType) : Ts :=
  t.modStream y (fun x =>
    { x with pesPacketPos := match x.curBuf with
        | some b => (t.buf b).pesBufLen
        | none => 0 })

/-- `cap(T)`, the capacity of a PES buffer (10_state.md R36, 45_ts_demux.md R288). -/
def Ts.cap (p : Params) (t : Ts) (y : StreamType) : Nat :=
  if t.partialDemux then p.partialCap
  else
    match y with
    | .video => p.pesCapV
    | .audio => p.pesCapA

/-- The record changes of an accepted TS_RELEASE_PES (R289). -/
def Ts.releaseBuf (t : Ts) (id : Nat) : Ts :=
  let y := (t.buf id).stype
  (t.modBuf id (fun r => { r with state := .free, pesBufLen := 0, pesTruncated := false })).setPesFree
    y (t.pesFree y ++ [id])

end Sys2Proof.Machine
end

