-- ==== Sys2Proof/Machine/Control.lean ====
section
/-! DEFINITION. Unit CTL: the control and status registers, CSR_READ and CSR_WRITE (spec/10_state.md
R25, R26, R29, R32, R34, spec/47_control.md R301 to R303). -/

namespace Sys2Proof.Machine

/-- Every CSR of the block under its own name (10_state.md R26, R29, R32, R34). -/
inductive Csr where
  | engKind | engSegments | engCyclesPerSeg | engMinPayload | engChannel | engCycleBufSize
  | engTransport | engCurSeg | engWatchdog | engExpectedTs | engStealCount
  | engRecoveryThreshold | engLocalSid | engBufBase | engDemuxAttach | engUrxCallback
  | dvrDvMode | dvrNumConsumers | dvrCurFrame | dvrFreeCount | dvrFrameSel | dvrFrameInfo
  | dvrFrameOffset | dvrFrameSyt | dvrFrameRxTs
  | dvtDvMode | dvtBlocksPerCycle | dvtTxFrameBase | dvtCurFrame | dvtDbc | dvtTxCycleCount
  | dvtTxClock | dvtFrameSel | dvtFrameInfo | dvtFrameOffset | dvtFrameSyt | dvtFrameTxStart
  | tsMode | tsVideoPid | tsAudioPid | tsPmtPid | tsPsiTimeout | tsPktSinceCb | tsVState
  | tsVPos | tsAState | tsAPos | tsPoolV | tsPoolA
deriving DecidableEq, Repr

/-- The CSRs of unit 3, by index (R26). -/
def engCsrs : List Csr :=
  [.engKind, .engSegments, .engCyclesPerSeg, .engMinPayload, .engChannel, .engCycleBufSize,
   .engTransport, .engCurSeg, .engWatchdog, .engExpectedTs, .engStealCount,
   .engRecoveryThreshold, .engLocalSid, .engBufBase, .engDemuxAttach, .engUrxCallback]

/-- The CSRs of unit 4, by index (R29). -/
def dvrCsrs : List Csr :=
  [.dvrDvMode, .dvrNumConsumers, .dvrCurFrame, .dvrFreeCount, .dvrFrameSel, .dvrFrameInfo,
   .dvrFrameOffset, .dvrFrameSyt, .dvrFrameRxTs]

/-- The CSRs of unit 5, by index (R32). -/
def dvtCsrs : List Csr :=
  [.dvtDvMode, .dvtBlocksPerCycle, .dvtTxFrameBase, .dvtCurFrame, .dvtDbc, .dvtTxCycleCount,
   .dvtTxClock, .dvtFrameSel, .dvtFrameInfo, .dvtFrameOffset, .dvtFrameSyt, .dvtFrameTxStart]

/-- The CSRs of unit 6, by index (R34). -/
def tsCsrs : List Csr :=
  [.tsMode, .tsVideoPid, .tsAudioPid, .tsPmtPid, .tsPsiTimeout, .tsPktSinceCb, .tsVState,
   .tsVPos, .tsAState, .tsAPos, .tsPoolV, .tsPoolA]

/-- The CSR at a (unit, index), if it is defined (R25). -/
def csrAt (unit idx : Nat) : Option Csr :=
  if unit = 3 then engCsrs[idx]?
  else if unit = 4 then dvrCsrs[idx]?
  else if unit = 5 then dvtCsrs[idx]?
  else if unit = 6 then tsCsrs[idx]?
  else none

/-- The CSR access types (R25). -/
inductive Access where
  /-- writable at any time -/
  | rw
  /-- writable only while the engine instance is not set up -/
  | rws
  /-- writable only while the engine instance is Stopped -/
  | rwt
  /-- read-only -/
  | ro
deriving DecidableEq, Repr

/-- Access of each CSR (R26, R29, R32, R34; 47_control.md R303). -/
def Csr.access : Csr → Access
  | .engKind | .engSegments | .engCyclesPerSeg | .engMinPayload => .rws
  | .engChannel | .engDemuxAttach => .rwt
  | .engRecoveryThreshold | .engUrxCallback => .rw
  | .dvrDvMode | .dvtDvMode | .dvtBlocksPerCycle | .dvtTxFrameBase => .rwt
  | .dvrFrameSel | .dvtFrameSel => .rw
  | .tsMode | .tsVideoPid | .tsAudioPid | .tsPmtPid | .tsPsiTimeout => .rw
  | _ => .ro

/-- The value of a CSR, zero-extended; the view fields read the record FRAME_SEL selects
(47_control.md R301). -/
def Csr.value (x : Inst) : Csr → Word
  | .engKind => x.eng.kind.code.setWidth 32
  | .engSegments => x.eng.segments.setWidth 32
  | .engCyclesPerSeg => x.eng.cyclesPerSeg.setWidth 32
  | .engMinPayload => x.eng.minPayload.setWidth 32
  | .engChannel => x.eng.channel.setWidth 32
  | .engCycleBufSize => x.eng.cycleBufSize
  | .engTransport => x.eng.transport
  | .engCurSeg => x.eng.curSeg.setWidth 32
  | .engWatchdog => x.eng.watchdog
  | .engExpectedTs => x.eng.expectedTs
  | .engStealCount => x.eng.stealCount.setWidth 32
  | .engRecoveryThreshold => x.eng.recoveryThreshold.setWidth 32
  | .engLocalSid => x.eng.localSid.setWidth 32
  | .engBufBase => x.eng.bufBase
  | .engDemuxAttach => (BitVec.ofBool x.eng.demuxAttach).setWidth 32
  | .engUrxCallback => (BitVec.ofBool x.eng.urxCallback).setWidth 32
  | .dvrDvMode => x.dvr.dvMode.setWidth 32
  | .dvrNumConsumers => (BitVec.ofNat 8 x.dvr.consumers.length).setWidth 32
  | .dvrCurFrame => frameIndexWord x.dvr.currentFrame
  | .dvrFreeCount => (BitVec.ofNat 16 x.dvr.freeQueue.length).setWidth 32
  | .dvrFrameSel => x.dvr.frameSel.setWidth 32
  | .dvrFrameInfo =>
    let r := x.dvr.frame x.dvr.frameSel.toNat
    (BitVec.ofNat 8 r.refCount ++ 0#6 ++ r.state.code).setWidth 32
  | .dvrFrameOffset => BitVec.ofNat 32 (x.dvr.frame x.dvr.frameSel.toNat).currentOffset
  | .dvrFrameSyt => (x.dvr.frame x.dvr.frameSel.toNat).frameSYTTime.setWidth 32
  | .dvrFrameRxTs => (x.dvr.frame x.dvr.frameSel.toNat).frameReceivedTimeStamp
  | .dvtDvMode => x.dvt.dvMode.setWidth 32
  | .dvtBlocksPerCycle => x.dvt.blocksPerCycle.setWidth 32
  | .dvtTxFrameBase => x.dvt.txFrameBase
  | .dvtCurFrame => frameIndexWord x.dvt.curFrame
  | .dvtDbc => x.dvt.dbc.setWidth 32
  | .dvtTxCycleCount => x.dvt.txCycleCount
  | .dvtTxClock => x.dvt.txClock
  | .dvtFrameSel => x.dvt.frameSel.setWidth 32
  | .dvtFrameInfo =>
    let r := x.dvt.frame x.dvt.frameSel.toNat
    BitVec.ofNat 16 r.dclProgramRefCount ++ 0#15 ++ BitVec.ofBool r.inUse
  | .dvtFrameOffset => BitVec.ofNat 32 (x.dvt.frame x.dvt.frameSel.toNat).curOffset
  | .dvtFrameSyt => (x.dvt.frame x.dvt.frameSel.toNat).frameSYTTime.setWidth 32
  | .dvtFrameTxStart => (x.dvt.frame x.dvt.frameSel.toNat).frameTransmitStartCycleTime
  | .tsMode => x.ts.mode.setWidth 32
  | .tsVideoPid => x.ts.videoPid.word
  | .tsAudioPid => x.ts.audioPid.word
  | .tsPmtPid => x.ts.pmtPid.word
  | .tsPsiTimeout => x.ts.psiTimeout
  | .tsPktSinceCb => x.ts.pktSinceCb
  | .tsVState => x.ts.video.stateWord
  | .tsVPos => BitVec.ofNat 32 x.ts.video.pesPacketPos
  | .tsAState => x.ts.audio.stateWord
  | .tsAPos => BitVec.ofNat 32 x.ts.audio.pesPacketPos
  | .tsPoolV => BitVec.ofNat 32 x.ts.pesFreeV.length
  | .tsPoolA => BitVec.ofNat 32 x.ts.pesFreeA.length

/-- The bits of a writable field; the bits above are ignored on a write (10_state.md R25, I15). A PID
register has bits 15 and [12:0] (R34); that a write ignores its bits [14:13], which are not above the field
and of which no rule speaks, is the model's choice (DESIGN CHOICE, log 28). -/
def Csr.mask : Csr → Word
  | .engKind => 0x3
  | .engSegments | .engCyclesPerSeg | .engMinPayload | .engRecoveryThreshold => 0xFFFF
  | .engChannel => 0x3F
  | .engDemuxAttach | .engUrxCallback => 0x1
  | .dvrDvMode | .dvtDvMode => 0xFF
  | .dvrFrameSel | .dvtFrameSel => 0xFFFF
  | .dvtBlocksPerCycle => 0x7
  | .tsMode => 0xF
  | .tsVideoPid | .tsAudioPid | .tsPmtPid => 0x9FFF
  | _ => 0xFFFFFFFF

/-- The legal write values, after masking (47_control.md R303). -/
def Csr.legal (p : Params) (x : Inst) (w : Word) : Csr → Bool
  | .engSegments => decide (2 ≤ w.toNat)
  | .engCyclesPerSeg | .engMinPayload => decide (1 ≤ w.toNat)
  | .dvrDvMode | .dvtDvMode => (p.dvRow (w.setWidth 8)).isSome
  | .dvrFrameSel => decide (w.toNat < x.dvr.frames.length)
  | .dvtFrameSel => decide (w.toNat < x.dvt.frames.length)
  | .dvtBlocksPerCycle => w == 1 || w == 2 || w == 4
  | .tsPsiTimeout => decide (1 ≤ w.toNat)
  | _ => true

/-- The field store of CSR_WRITE with its side effects: a changed PID resets its stream, a change of
`partialDemux` resets both, and writing the value a CSR holds has no side effect (47_control.md R302,
R303; 45_ts_demux.md R290). -/
def Csr.store (x : Inst) (w : Word) : Csr → Inst
  | .engKind => { x with eng := { x.eng with kind := Kind.ofCode (w.setWidth 2) } }
  | .engSegments => { x with eng := { x.eng with segments := w.setWidth 16 } }
  | .engCyclesPerSeg => { x with eng := { x.eng with cyclesPerSeg := w.setWidth 16 } }
  | .engMinPayload => { x with eng := { x.eng with minPayload := w.setWidth 16 } }
  | .engChannel => { x with eng := { x.eng with channel := w.setWidth 6 } }
  | .engRecoveryThreshold => { x with eng := { x.eng with recoveryThreshold := w.setWidth 16 } }
  | .engDemuxAttach => { x with eng := { x.eng with demuxAttach := w.getLsbD 0 } }
  | .engUrxCallback => { x with eng := { x.eng with urxCallback := w.getLsbD 0 } }
  | .dvrDvMode => { x with dvr := { x.dvr with dvMode := w.setWidth 8 } }
  | .dvrFrameSel => { x with dvr := { x.dvr with frameSel := w.setWidth 16 } }
  | .dvtDvMode => { x with dvt := { x.dvt with dvMode := w.setWidth 8 } }
  | .dvtBlocksPerCycle => { x with dvt := { x.dvt with blocksPerCycle := w.setWidth 3 } }
  | .dvtTxFrameBase => { x with dvt := { x.dvt with txFrameBase := w } }
  | .dvtFrameSel => { x with dvt := { x.dvt with frameSel := w.setWidth 16 } }
  | .tsMode =>
    let t := { x.ts with mode := w.setWidth 4 }
    { x with ts :=
        if x.ts.partialDemux = t.partialDemux then t
        else (t.resetStream .video).resetStream .audio }
  | .tsVideoPid =>
    let t := { x.ts with videoPid := PidReg.ofWord w }
    { x with ts := if x.ts.videoPid = t.videoPid then t else t.resetStream .video }
  | .tsAudioPid =>
    let t := { x.ts with audioPid := PidReg.ofWord w }
    { x with ts := if x.ts.audioPid = t.audioPid then t else t.resetStream .audio }
  | .tsPmtPid => { x with ts := { x.ts with pmtPid := PidReg.ofWord w } }
  | .tsPsiTimeout => { x with ts := { x.ts with psiTimeout := w } }
  | _ => x

/-- The condition of the field's access type on engine `i` of the same index (10_state.md R25,
47_control.md R302). After an ENG_SETUP that failed with `fatal = 1` the engine is not set up, so an RWS field
is written, against a clause of 70_reset_and_hazards.md R345 (DEDUCED, log 27). -/
def Csr.writable (g : Eng) (c : Csr) : Bool :=
  match c.access with
  | .rw => true
  | .rws => !g.setupDone
  | .rwt => !g.running
  | .ro => false

/-- The pseudocode of CSR_READ (47_control.md R301). -/
def csrReadBody (unit i idx : Nat) : M (Option Status) := do
  let s ← getState
  match csrAt unit idx with
  | none => answer .badArgument
  | some c => do
    writeRes0 (c.value (s.instAt i))
    answer .success

/-- The pseudocode of CSR_WRITE (47_control.md R302). -/
def csrWriteBody (unit i idx : Nat) : M (Option Status) := do
  let s ← getState
  match csrAt unit idx with
  | none => answer .badArgument
  | some c =>
    let w := s.arg0 &&& c.mask
    let x := s.instAt i
    if c.writable x.eng = false then answer .badArgument
    else if c.legal s.par x w = false then answer .badArgument
    else do
      update (·.setInst i (c.store x w))
      answer .success

/-- CSR_READ (R301). -/
def execCsrRead (unit i idx : Nat) (s : State) : Host.Outcome State Fault Refusal :=
  asCommand (.csrRead unit i idx) (csrReadBody unit i idx) s

/-- CSR_WRITE (R302). -/
def execCsrWrite (unit i idx : Nat) (s : State) : Host.Outcome State Fault Refusal :=
  asCommand (.csrWrite unit i idx) (csrWriteBody unit i idx) s

end Sys2Proof.Machine
end

