-- ==== Sys2Proof/Machine/CycleTime.lean ====
section
/-! DEFINITION. Unit CT: CT_ADD, CT_DELTA, CT_INDEX (spec/41_cycle_time.md R140 to R146). -/

namespace Sys2Proof.Machine

/-- The pseudocode of CT_ADD (R142). -/
def ctAddBody : M (Option Status) := do
  let s ← getState
  chk s.arg0
  chk s.arg1
  writeRes0 (ctSum s.arg0 s.arg1)
  answer .success

/-- The pseudocode of CT_DELTA: `ARG0` actual, `ARG1` expected (R144). -/
def ctDeltaBody : M (Option Status) := do
  let s ← getState
  chk s.arg0
  chk s.arg1
  writeRes0 (BitVec.ofNat 32 (ctLost s.arg0 s.arg1))
  answer .success

/-- The pseudocode of CT_INDEX (R143). -/
def ctIndexBody : M (Option Status) := do
  let s ← getState
  chk s.arg0
  writeRes0 (BitVec.ofNat 32 (ctIdx s.arg0))
  answer .success

/-- CT_ADD (R142). -/
def execCtAdd (s : State) : Host.Outcome State Fault Refusal := asCommand .ctAdd ctAddBody s

/-- CT_DELTA (R144). -/
def execCtDelta (s : State) : Host.Outcome State Fault Refusal := asCommand .ctDelta ctDeltaBody s

/-- CT_INDEX (R143). -/
def execCtIndex (s : State) : Host.Outcome State Fault Refusal := asCommand .ctIndex ctIndexBody s

end Sys2Proof.Machine
end

