-- ==== Sys2Proof/Machine/Release.lean ====
section
/-! DEFINITION. The commands that clients issue from inside their callbacks: DVR_RELEASE,
TS_RELEASE_PES and ENG_SET_WATCHDOG (spec/43_dv_receive.md R211, spec/45_ts_demux.md R289,
spec/42_buffer_engine.md R174). -/

namespace Sys2Proof.Machine

/-- The pseudocode of DVR_RELEASE (R211). -/
def dvrReleaseBody (e : Nat) : M (Option Status) := do
  let s ← getState
  let f := s.arg0.toNat
  let d := s.dvr e
  if d.frames.length ≤ f then answer .badArgument
  else if (d.frame f).state ≠ .dispatched ∨ (d.frame f).refCount = 0 then answer .badArgument
  else do
    modDvr e (·.release f)
    answer .success

/-- The pseudocode of TS_RELEASE_PES (R289). -/
def tsReleasePesBody (e : Nat) : M (Option Status) := do
  let s ← getState
  let id := s.arg0.toNat
  let t := s.ts e
  if t.nextPesId ≤ id then answer .badArgument
  else if (t.buf id).state ≠ .delivered then answer .badArgument
  else do
    modTs e (·.releaseBuf id)
    answer .success

/-- WATCHDOG after an accepted ENG_SET_WATCHDOG (R174). -/
def Eng.setWatchdog (g : Eng) (register : Bool) : Eng :=
  if register then
    { g with wdRegistered := true, wdArmed := g.wdArmed || (g.running && g.kind.isReceive) }
  else { g with wdRegistered := false, wdArmed := false }

/-- The pseudocode of ENG_SET_WATCHDOG (R174). -/
def engSetWatchdogBody (e : Nat) : M (Option Status) := do
  let s ← getState
  if 1 < s.arg0.toNat then answer .badArgument
  else do
    modEng e (·.setWatchdog (s.arg0 == 1))
    answer .success

/-- DVR_RELEASE (R211). -/
def execDvrRelease (e : Nat) (s : State) : Host.Outcome State Fault Refusal :=
  asCommand (.dvrRelease e) (dvrReleaseBody e) s

/-- TS_RELEASE_PES (R289). -/
def execTsReleasePes (e : Nat) (s : State) : Host.Outcome State Fault Refusal :=
  asCommand (.tsReleasePes e) (tsReleasePesBody e) s

/-- ENG_SET_WATCHDOG (R174). -/
def execEngSetWatchdog (e : Nat) (s : State) : Host.Outcome State Fault Refusal :=
  asCommand (.engSetWatchdog e) (engSetWatchdogBody e) s

end Sys2Proof.Machine
end

