-- ==== Sys2Proof/Machine/Callback.lean ====
section
/-! DEFINITION. Client callbacks, the block's analogue of trap entry and return, and the nested
commands a client issues inside one (spec/60_exceptions.md R318, R319, spec/47_control.md R304). -/

namespace Sys2Proof.Machine

/-- The pseudocode of a nested command. Only the commands of R319 get here: `runCommand` raises
FAULT_REENTRANT for any other before its pseudocode. -/
def nestedBody : Instr → M (Option Status)
  | .isCip => isCipBody
  | .parseCip => parseCipBody
  | .buildCip => buildCipBody
  | .ctAdd => ctAddBody
  | .ctDelta => ctDeltaBody
  | .ctIndex => ctIndexBody
  | .csrRead u i x => csrReadBody u i x
  | .dvrRelease e => dvrReleaseBody e
  | .tsReleasePes e => tsReleasePesBody e
  | .engSetWatchdog e => engSetWatchdogBody e
  | _ => answer .illegalCommand

/-- A write to CMD by a client inside a callback (R319, R320). -/
def nestedCommand (w : Word) : M Unit := do
  update (·.setCmd w)
  match decodeCommand w with
  | .ok i => runCommand i (nestedBody i)
  | .error _ => update (·.setStatus .illegalCommand)

/-- One thing a client does inside a callback (R318). -/
def clientAct : HostAct → M Unit
  | .write .cmd w => nestedCommand w
  | .write r v => update (·.hostWrite r v)
  | .poke a b => portWrite a b
  | .peek a => portRead a
  | .read _ => pure ()

/-- What a client does inside a callback, in order; a raise ends it, and the step with it (R315). -/
def clientActs : List HostAct → M Unit
  | [] => pure ()
  | a :: as => do
    clientAct a
    clientActs as

/-- Entry of a callback: the call goes out and the nesting count rises; nothing architectural is
saved (R318 point 1). -/
def State.enterCallback (s : State) (o : Out) : State :=
  { s.emit o with inCallback := s.inCallback + 1 }

/-- Return from a callback (R318 point 3). -/
def State.leaveCallback (s : State) : State := { s with inCallback := s.inCallback - 1 }

/-- `notify(cb, args)` and `ask(cb, args)`: the step waits while the client runs, then goes on with
the client's answer (R318). A reset that falls while the client runs abandons the callback, which never
returns into the block (70_reset_and_hazards.md R341 point 3). -/
def callback (o : Out) : M Draw := do
  update (·.enterCallback o)
  let d ← draw
  clientActs d.acts
  checkReset d.reset
  update State.leaveCallback
  pure d

/-- A callback whose answer is not used. -/
def notify (o : Out) : M Unit := do
  let _ ← callback o
  pure ()

/-- `notify(engMsg, message, info)` (47_control.md R304); `info` is none for a message to which
60_exceptions.md R312 gives no information (log 24). -/
def engMsg (e : Nat) (m : Msg) (info : Option Nat) : M Unit := notify (.engMsg e m info)

/-- The unit and instance whose client a callback goes to (R321), and so the context passed back with
it (00_scope.md R15; log 19); requests to the Port Engine and the allocator carry none. -/
def Out.refcon : Out → Option Word
  | .engMsg e _ _ => some (Config.refcon 3 e)
  | .urxPacket e _ _ _ _ | .utxFill e _ _ _ => some (Config.refcon 7 e)
  | .consumer e _ _ _ => some (Config.refcon 4 e)
  | .framePull e | .frameRelease e _ => some (Config.refcon 5 e)
  | .pes e _ _ | .psiDecoder e _ | .psiRaw e _ | .hdvTable e _ => some (Config.refcon 6 e)
  | .alloc _ _ | .allocProgram _ _ _ _ | .peStart _ _ | .peStop _ | .localNodeId _
  | .cycleTime _ => none

end Sys2Proof.Machine
end

