-- ==== Sys2Proof/Machine/Dvr.lean ====
section
/-! DEFINITION. Unit DVR: the DV frame reassembler and block validator, DVR_CYCLE and DVR_REGISTER
(spec/43_dv_receive.md R201 to R216). -/

namespace Sys2Proof.Machine

/-- The consumers `ids` notified in order, with no frame; their statuses are ignored (R214). -/
def notifyConsumers (e : Nat) (m : Msg) : List Word → M Unit
  | [] => pure ()
  | c :: cs => do
    notify (.consumer e c m none)
    notifyConsumers e m cs

/-- `notifyAll(m, none)` (R214). -/
def notifyAll (e : Nat) (m : Msg) : M Unit := do
  let d ← getDvr e
  notifyConsumers e m d.consumers

/-- `abandon(f)`: the frame goes back to the queue before the consumers are notified (R209). -/
def abandon (e f : Nat) : M Unit := do
  modDvr e (·.abandonFrame f)
  notifyAll e .frameCorrupted

/-- `abandon(f)` if a frame `f` is in progress (R203, R172, R159). -/
def abandonCurrent (e : Nat) : M Unit := do
  let d ← getDvr e
  match d.currentFrame with
  | some f => abandon e f
  | none => pure ()

/-- `startFrame(syt, ts)` (R206), with the frame length of the format in force (47_control.md R303). -/
def startFrame (e : Nat) (row : DvFormat) (syt : Half) (ts : Word) : M Bool := do
  let d ← getDvr e
  match d.freeQueue with
  | [] => do
    notifyAll e .frameDropped
    pure false
  | f :: rest => do
    modDvr e (·.beginFrame f rest row.frameSize syt ts)
    pure true

/-- The consumer loop of `dispatch(f)`: a non-success answer gives the reference back (R210). -/
def offerFrame (e f : Nat) : List Word → M Unit
  | [] => pure ()
  | c :: cs => do
    let d ← callback (.consumer e c .frameReceived (some f))
    let v ← getDvr e
    if drawAgrees d = false ∧ 0 < (v.frame f).refCount then modDvr e (·.dropReference f) else pure ()
    offerFrame e f cs

/-- `currentFrame <- none; dispatch(f)` (R208, R210). -/
def dispatch (e f : Nat) : M Unit := do
  modDvr e (·.dispatchFrame f)
  let d ← getDvr e
  offerFrame e f d.consumers
  modDvr e (·.endDispatch f)

/-- `copyBlock(p, o)` for the frame in progress `f` (R208). The frame keeps the length it was started with
(47_control.md R303). R303 says that no frame is ever filled under two modes; a host that issues DVR_CYCLE
to a Stopped engine and changes DVMODE while a frame is in progress gets there, and the spec gives a block
that steps past the frame's end no meaning. The model stores it and counts on, and such a frame never
completes (DESIGN CHOICE, log 25). -/
def copyBlock (e f : Nat) (row : DvFormat) (p : List Byte) (o : Nat) : M Unit := do
  modDvr e (·.fillFrame f ((p.drop o).take row.blk))
  let d ← getDvr e
  if (d.frame f).currentOffset = (d.frame f).frameLen then dispatch e f else pure ()

/-- `blocksValid(p, len, r)` (R207). -/
def blocksValid (row : DvFormat) (len : Nat) (h : CipHeader) : Bool :=
  decide (h.dbs = row.dbs ∧ 0 < row.blk ∧ (len - 8) % row.blk = 0)

/-- The block loop of DVR_CYCLE from block `b` on, `n` blocks (R203). -/
def cycleBlocks (e : Nat) (row : DvFormat) (p : List Byte) (syt : Half) (ts : Word) :
    (n b : Nat) → M Unit
  | 0, _ => pure ()
  | n + 1, b => do
    let d ← getDvr e
    match d.currentFrame with
    | some f => do
      copyBlock e f row p (8 + b * row.blk)
      cycleBlocks e row p syt ts n (b + 1)
    | none => do
      let ok ← startFrame e row syt ts
      if ok then do
        let d ← getDvr e
        match d.currentFrame with
        | some f => do
          copyBlock e f row p (8 + b * row.blk)
          cycleBlocks e row p syt ts n (b + 1)
        | none => pure ()
      else pure ()

/-- The validation and the block loop, for a cycle that may have a frame in progress (R203, R207). -/
def cycleData (e : Nat) (row : DvFormat) (p : List Byte) (len : Nat) (ts : Word) : M Unit := do
  let d ← getDvr e
  match d.currentFrame with
  | none => pure ()
  | some f =>
    if blocksValid row len (cipHeader p) then
      cycleBlocks e row p (cipHeader p).syt ts ((len - 8) / row.blk) 0
    else abandon e f

/-- DVR_CYCLE semantics for the cycle `(hdr, pa, ts)` (R203). -/
def dvrCycle (e : Nat) (hdr : Word) (pa : Nat) (ts : Word) : M Status := do
  let s ← getState
  match s.par.dvRow (s.dvr e).dvMode with
  | none => pure .badArgument
  | some row =>
    let len := dataLength hdr
    if isCipHeader hdr = false ∨ len ≤ 8 then pure .success
    else do
      let p ← memRead pa len
      if 10 ≤ len ∧ isFrameStart p then do
        abandonCurrent e
        if (cipHeader p).fdf ≠ row.mode.setWidth 24 then do
          notifyAll e .wrongMode
          pure .success
        else do
          let ok ← startFrame e row (cipHeader p).syt ts
          if ok then do
            cycleData e row p len ts
            pure .success
          else pure .success
      else do
        cycleData e row p len ts
        pure .success

/-- The pseudocode of DVR_CYCLE (R203). -/
def dvrCycleBody (e : Nat) : M (Option Status) := do
  let s ← getState
  let st ← dvrCycle e s.arg0 s.arg1.toNat s.arg2
  answer st

/-- The pseudocode of DVR_REGISTER (R213). -/
def dvrRegisterBody (e : Nat) : M (Option Status) := do
  let s ← getState
  let d := s.dvr e
  if s.arg0 ∈ d.consumers then answer .badArgument
  else if d.consumers.length = 255 then answer .noSpace
  else do
    modDvr e (fun d => { d with consumers := d.consumers ++ [s.arg0] })
    writeRes0 (BitVec.ofNat 32 (d.consumers.length + 1))
    answer .success

/-- DVR_CYCLE (R203). -/
def execDvrCycle (e : Nat) (s : State) : Host.Outcome State Fault Refusal :=
  asCommand (.dvrCycle e) (dvrCycleBody e) s

/-- DVR_REGISTER (R213). -/
def execDvrRegister (e : Nat) (s : State) : Host.Outcome State Fault Refusal :=
  asCommand (.dvrRegister e) (dvrRegisterBody e) s

end Sys2Proof.Machine
end

