-- ==== Sys2Proof/Machine/Dvt.lean ====
section
/-! DEFINITION. Unit DVT: the DV transmit producer, DVT_CYCLE (spec/44_dv_transmit.md R241 to R251). -/

namespace Sys2Proof.Machine

/-- BUF address of cycle buffer `k` (20_memory.md R68). -/
def Eng.slotAddr (g : Eng) (k : Nat) : Nat := g.bufBase.toNat + k * g.cycleBufSize.toNat

/-- The index of the overrun buffer, `S*N` (20_memory.md R68). -/
def Eng.slots (g : Eng) : Nat := g.segments.toNat * g.cyclesPerSeg.toNat

/-- `slotHdr[k] <- h` (10_state.md R27). -/
def Eng.setSlotHdr (g : Eng) (k : Nat) (h : Word) : Eng :=
  { g with slotHdr := sparseSet g.slotHdr k h }

/-- `releaseFrame(f)` (R244). -/
def releaseFrame (e f : Nat) : M Unit := do
  modDvt e (·.modFrame f (fun r => { r with inUse := false }))
  notify (.frameRelease e f)

/-- The loop of `releaseSlotRefs`, over the frames in increasing index order (R242). -/
def dropRefs (e : Nat) : List Nat → M Unit
  | [] => pure ()
  | f :: fs => do
    modDvt e (·.modFrame f (fun r => { r with dclProgramRefCount := r.dclProgramRefCount - 1 }))
    let d ← getDvt e
    if (d.frame f).dclProgramRefCount = 0 ∧ d.curFrame ≠ some f then releaseFrame e f else pure ()
    dropRefs e fs

/-- `releaseSlotRefs(k)` (R242). -/
def releaseSlotRefs (e k : Nat) : M Unit := do
  let d ← getDvt e
  dropRefs e (d.refs k)
  modDvt e (·.clearRefs k)

/-- `pullFrame()` (R248). -/
def pullFrame (e : Nat) (row : DvFormat) : M Bool := do
  let a ← callback (.framePull e)
  let p ← getPar
  let d ← getDvt e
  let f := a.word.toNat
  if drawAgrees a = false ∨ d.frames.length ≤ f ∨ (d.frame f).inUse then pure false
  else do
    modDvt e (·.beginFrame f (p.sytOf d.txClock row.startingSYTOffset))
    pure true

/-- The copy of the next block of frame `f` into buffer `k` behind `nb` others (R243). -/
def copyOut (e k : Nat) (row : DvFormat) (nb f : Nat) : M Unit := do
  let g ← getEng e
  let d ← getDvt e
  let bytes ← memRead (d.txFrameBase.toNat + f * row.frameSize + (d.frame f).curOffset) row.blk
  memWrite (g.slotAddr k + 8 + nb * row.blk) bytes
  modDvt e (·.blockCopied k f row.blk row.frameSize)

/-- The `while nb < B` loop of DVT_CYCLE: `n` blocks are still wanted, `nb` are copied; answers the
number of blocks and the packet's `syt` (R243, R246). -/
def fillSlot (e k : Nat) (row : DvFormat) : (n nb : Nat) → Half → M (Nat × Half)
  | 0, nb, syt => pure (nb, syt)
  | n + 1, nb, syt => do
    let d ← getDvt e
    match d.curFrame with
    | some f => do
      copyOut e k row nb f
      fillSlot e k row n (nb + 1) syt
    | none => do
      let ok ← pullFrame e row
      if ok then do
        let d ← getDvt e
        match d.curFrame with
        | some f => do
          copyOut e k row nb f
          fillSlot e k row n (nb + 1) (if nb = 0 then (d.frame f).frameSYTTime else syt)
        | none => pure (nb, syt)
      else pure (nb, syt)

/-- `writeHeader(k, nb, syt)` (R245). -/
def writeHeader (e k : Nat) (row : DvFormat) (nb : Nat) (syt : Half) : M Unit := do
  let g ← getEng e
  let d ← getDvt e
  memWrite (g.slotAddr k)
    (be32Bytes (dvQuadlet0 g.localSid row d.dbc) ++ be32Bytes (dvQuadlet1 row syt))
  modEng e (·.setSlotHdr k (isoHeader (8 + nb * row.blk) g.channel))

/-- `writeCipOnly(k)` (R245). -/
def writeCipOnly (e k : Nat) (row : DvFormat) : M Unit := writeHeader e k row 0 0xFFFF

/-- DVT_CYCLE semantics on cycle buffer `k`: the status, and the packet's `data_length` when a packet
was produced (R243). -/
def dvtCycle (e k : Nat) : M (Status × Nat) := do
  let s ← getState
  let g := s.eng e
  if g.setupDone = false ∨ g.kind ≠ .dvtx ∨ g.slots ≤ k then pure (.badArgument, 0)
  else
    match s.par.dvRow (s.dvt e).dvMode with
    | none => pure (.badArgument, 0)
    | some row => do
      releaseSlotRefs e k
      let d ← getDvt e
      let g ← getEng e
      let data := s.par.dataCycle d.txCycleCount.toNat
      let steal := !data && decide (0 < g.stealCount.toNat)
      let (nb, syt) ←
        if data || steal then fillSlot e k row d.blocksPerCycle.toNat 0 0xFFFF
        else pure (0, 0xFFFF#16)
      if steal ∧ 0 < nb then modEng e (fun g => { g with stealCount := g.stealCount - 1 })
      else pure ()
      writeHeader e k row nb syt
      modDvt e (fun d =>
        { d with dbc := d.dbc + BitVec.ofNat 8 nb, txCycleCount := d.txCycleCount + 1 })
      let d ← getDvt e
      let t ← addCycles d.txClock 1
      modDvt e (fun d => { d with txClock := t })
      pure (.success, 8 + nb * row.blk)

/-- Runs the drain of buffer `k`, then of the next ones, `n` in all. R157 says "for every k ≤ S*N" and names
no order; the model goes by increasing `k`, and the release callbacks follow that order (DESIGN CHOICE,
log 26). -/
def drainFrom (e : Nat) : (n k : Nat) → M Unit
  | 0, _ => pure ()
  | n + 1, k => do
    releaseSlotRefs e k
    drainFrom e n (k + 1)

/-- A producer command: its `data_length` goes to RES0 when it produced a packet (R243; R182). -/
def producerBody (produce : Nat → M (Status × Nat)) : M (Option Status) := do
  let s ← getState
  let (st, len) ← produce s.arg0.toNat
  if st = .success then do
    writeRes0 (BitVec.ofNat 32 len)
    answer st
  else answer st

/-- DVT_CYCLE (R243). -/
def execDvtCycle (e : Nat) (s : State) : Host.Outcome State Fault Refusal :=
  asCommand (.dvtCycle e) (producerBody (dvtCycle e)) s

end Sys2Proof.Machine
end

