-- ==== Sys2Proof/Machine/Ts.lean ====
section
/-! DEFINITION. Unit TS: the PID filter and PES reassembler, TS_PACKET and TS_FLUSH
(spec/45_ts_demux.md R271 to R293). -/

namespace Sys2Proof.Machine

/-- `notifyPES(msg, x)`: the packet counter restarts, then the PES callback is made; its status is
ignored (R283). -/
def notifyPes (e : Nat) (m : Msg) (b : Option Nat) : M Unit := do
  modTs e (fun t => { t with pktSinceCb := 0 })
  notify (.pes e m b)

/-- `deliver(T, msg)` (R283). -/
def deliver (e : Nat) (y : StreamType) (m : Msg) : M Unit := do
  let t ← getTs e
  match (t.stream y).curBuf with
  | some b => do
    modTs e (·.deliverBuf y b)
    notifyPes e m (some b)
  | none => pure ()

/-- The stream has a current buffer with bytes in it. -/
def Ts.hasPartial (t : Ts) (y : StreamType) : Bool :=
  match (t.stream y).curBuf with
  | some b => decide (0 < (t.buf b).pesBufLen)
  | none => false

/-- `packetError(T)` (R277). -/
def packetError (e : Nat) (y : StreamType) : M Unit := do
  let t ← getTs e
  if t.hasPartial y then deliver e y .packetError else notifyPes e .packetError none
  modTs e (·.modStream y (fun x =>
    { x with foundFirst := false, streamCont := none, truncated := false }))

/-- `discontinuity(T)` (R279). -/
def discontinuity (e : Nat) (y : StreamType) : M Unit := do
  modTs e (·.dropPartial y)
  notifyPes e .discontinuity none

/-- `startPES(T, ts)` (R280). -/
def startPes (e : Nat) (y : StreamType) (ts : Word) : M Unit := do
  let t ← getTs e
  if t.hasPartial y then deliver e y .pesReceived else pure ()
  let t ← getTs e
  if (t.stream y).curBuf.isNone then modTs e (·.allocCurrent y) else pure ()
  modTs e (·.beginPes y ts)

/-- `accumulate(T, bytes)` (R281). It runs only after `startPES`, so there is a current buffer; without
one nothing is accumulated (log 23). -/
def accumulate (e : Nat) (y : StreamType) (bytes : List Byte) : M Unit := do
  let p ← getPar
  let t ← getTs e
  match (t.stream y).curBuf with
  | none => pure ()
  | some b =>
    let have_ := (t.buf b).pesBufLen
    if have_ + bytes.length ≤ t.cap p y then
      modTs e (fun t => (t.appendBuf b bytes).notePosition y)
    else if t.partialDemux then
      modTs e (fun u =>
        (((u.appendBuf b (bytes.take (t.cap p y - have_))).modStream y
          (fun x => { x with truncated := true })).notePosition y))
    else do
      deliver e y .pesLargerThanAllocatedBuffer
      modTs e (fun u => (u.modStream y (fun x => { x with foundFirst := false })).notePosition y)

/-- `streamPacket(T, t, ts)` (R274). -/
def streamPacket (e : Nat) (y : StreamType) (t : List Byte) (ts : Word) : M Unit := do
  let h := tsHeader t
  if h.tei then packetError e y
  else if h.afc = 0b00#2 then pure ()
  else if h.hasAdaptation ∧ 184 < h.afl then packetError e y
  else do
    let u ← getTs e
    match (u.stream y).streamCont with
    | some last => if h.cc ≠ expectedCc h last then discontinuity e y else pure ()
    | none => pure ()
    modTs e (·.modStream y (fun x => { x with streamCont := some h.cc }))
    if h.pusi then startPes e y ts else pure ()
    let u ← getTs e
    if (u.stream y).foundFirst then
      if 0 < (tsPayload h t).length then accumulate e y (tsPayload h t) else pure ()
    else pure ()

/-- The classes of R273. -/
inductive PidClass where
  | video | audio | psi | hdv | other
deriving DecidableEq, Repr

/-- `classify(pid)`, in its order of precedence (R273). -/
def Ts.classify (p : Params) (t : Ts) (pid : Pid) : PidClass :=
  if t.videoPid.valid ∧ pid = t.videoPid.pid then .video
  else if t.audioPid.valid ∧ pid = t.audioPid.pid then .audio
  else if pid = 0 ∨ (t.pmtPid.valid ∧ pid = t.pmtPid.pid) then .psi
  else if pid ∈ p.hdvPids then .hdv
  else .other

/-- One field of a PSI answer written to VIDEO_PID; a different value resets the stream (R285). -/
def Ts.applyVideoPid (t : Ts) : Option Pid → Ts
  | none => t
  | some v =>
    let u := { t with videoPid := ⟨true, v⟩ }
    if t.videoPid = u.videoPid then u else u.resetStream .video

/-- Likewise for AUDIO_PID (R285). -/
def Ts.applyAudioPid (t : Ts) : Option Pid → Ts
  | none => t
  | some v =>
    let u := { t with audioPid := ⟨true, v⟩ }
    if t.audioPid = u.audioPid then u else u.resetStream .audio

/-- Likewise for PMT_PID, which tracks no stream (R285). -/
def Ts.applyPmtPid (t : Ts) : Option Pid → Ts
  | none => t
  | some v => { t with pmtPid := ⟨true, v⟩ }

/-- `psiPacket(t)` (R286). -/
def psiPacket (e : Nat) (packet : List Byte) : M Unit := do
  let t ← getTs e
  if t.autoPsi then do
    let d ← callback (.psiDecoder e packet)
    modTs e (fun t =>
      ((t.applyVideoPid d.videoPid).applyAudioPid d.audioPid).applyPmtPid d.pmtPid)
  else pure ()
  let t ← getTs e
  if t.rawPsiRegistered then notify (.psiRaw e packet) else pure ()

/-- The record changes of a PSI rescan (R284). -/
def Ts.forgetPids (t : Ts) : Ts :=
  (({ t with
      videoPid := { t.videoPid with valid := false }
      audioPid := { t.audioPid with valid := false }
      pmtPid := { t.pmtPid with valid := false } }).resetStream .video).resetStream .audio

/-- `psiWatchdog()` (R284). -/
def psiWatchdog (e : Nat) : M Unit := do
  let t ← getTs e
  if t.autoPsi ∧ t.psiTimeout < t.pktSinceCb then do
    modTs e Ts.forgetPids
    notifyPes e .rescanningForPsi none
  else pure ()

/-- `PKT_SINCE_CB + 1`, which saturates at 2^32 - 1 (R271; 90_conflicts.md C13). -/
def countPacket (n : Word) : Word := if n = 0xFFFFFFFF then n else n + 1

/-- TS_PACKET semantics for the packet at `addr` (R271). -/
def tsPacket (e addr : Nat) (ts : Word) : M Status := do
  let t ← memRead addr 188
  if byteAt t 0 ≠ 0x47 then pure .badArgument
  else do
    modTs e (fun u => { u with pktSinceCb := countPacket u.pktSinceCb })
    let p ← getPar
    let u ← getTs e
    match u.classify p (tsHeader t).pid with
    | .video => streamPacket e .video t ts
    | .audio => streamPacket e .audio t ts
    | .psi => psiPacket e t
    | .hdv => if u.hdvRegistered then notify (.hdvTable e t) else pure ()
    | .other => pure ()
    psiWatchdog e
    pure .success

/-- TS_FLUSH for one stream (R287). -/
def flushStream (e : Nat) (y : StreamType) : M Unit := do
  let t ← getTs e
  if t.hasPartial y then deliver e y .flushedPesBuffer else pure ()
  modTs e (·.modStream y (fun x =>
    { x with foundFirst := false, streamCont := none, truncated := false, pesPacketPos := 0 }))

/-- TS_FLUSH semantics (R287). -/
def tsFlush (e : Nat) : M Unit := do
  flushStream e .video
  flushStream e .audio

/-- The pseudocode of TS_PACKET (R271). -/
def tsPacketBody (e : Nat) : M (Option Status) := do
  let s ← getState
  let st ← tsPacket e s.arg0.toNat s.arg1
  answer st

/-- The pseudocode of TS_FLUSH (R287). -/
def tsFlushBody (e : Nat) : M (Option Status) := do
  tsFlush e
  answer .success

/-- TS_PACKET (R271). -/
def execTsPacket (e : Nat) (s : State) : Host.Outcome State Fault Refusal :=
  asCommand (.tsPacket e) (tsPacketBody e) s

/-- TS_FLUSH (R287). -/
def execTsFlush (e : Nat) (s : State) : Host.Outcome State Fault Refusal :=
  asCommand (.tsFlush e) (tsFlushBody e) s

end Sys2Proof.Machine
end

