-- ==== Sys2Proof/Machine/Uni.lean ====
section
/-! DEFINITION. Unit UNI: the universal receiver and transmitter, URX_CYCLE and UTX_CYCLE
(spec/42_buffer_engine.md R180 to R182). -/

namespace Sys2Proof.Machine

/-- The source-packet loop of URX_CYCLE from packet `i` on, `n` packets: a bad sync byte is ignored
and the next packet is taken (R180; 30_encoding.md R99). -/
def feedPackets (e pa : Nat) : (n i : Nat) → M Unit
  | 0, _ => pure ()
  | n + 1, i => do
    let sp := pa + 8 + 192 * i
    let h ← memRead sp 4
    let _ ← tsPacket e (sp + 4) (be32 h 0)
    feedPackets e pa n (i + 1)

/-- URX_CYCLE semantics for the cycle `(hdr, pa, ts)` (R180). -/
def urxCycle (e : Nat) (hdr : Word) (pa : Nat) (ts : Word) : M Status := do
  let len := dataLength hdr
  let g ← getEng e
  if g.urxCallback then notify (.urxPacket e hdr pa len ts) else pure ()
  if isCipHeader hdr = false ∨ len ≤ 8 then pure .success
  else do
    let p ← memRead pa len
    let par ← getPar
    match parseCip par.maxSourcePackets p len with
    | none => pure .success
    | some r => do
      let g ← getEng e
      if g.lastFmt.isSome ∧ g.lastFmt ≠ some r.header.fmt ∧ g.demuxAttach then tsFlush e
      else pure ()
      modEng e (fun g => { g with lastFmt := some r.header.fmt })
      if r.header.fmt = fmtMpeg2Ts ∧ g.demuxAttach ∧ r.sourcePacketSize = 192 then
        feedPackets e pa r.numSourcePackets 0
      else pure ()
      pure .success

/-- UTX_CYCLE semantics on cycle buffer `k` (R182). -/
def utxCycle (e k : Nat) : M (Status × Nat) := do
  let g ← getEng e
  if g.setupDone = false ∨ g.kind ≠ .utx ∨ g.slots < k then pure (.badArgument, 0)
  else do
    let a ← callback (.utxFill e k (g.slotAddr k) g.cycleBufSize.toNat)
    if g.cycleBufSize.toNat < dataLength a.word then
      raise (.cycleOversize k (some (dataLength a.word)))
    else do
      modEng e (·.setSlotHdr k a.word)
      pure (.success, dataLength a.word)

/-- The pseudocode of URX_CYCLE (R180). -/
def urxCycleBody (e : Nat) : M (Option Status) := do
  let s ← getState
  let st ← urxCycle e s.arg0 s.arg1.toNat s.arg2
  answer st

/-- URX_CYCLE (R180). -/
def execUrxCycle (e : Nat) (s : State) : Host.Outcome State Fault Refusal :=
  asCommand (.urxCycle e) (urxCycleBody e) s

/-- UTX_CYCLE (R182). -/
def execUtxCycle (e : Nat) (s : State) : Host.Outcome State Fault Refusal :=
  asCommand (.utxCycle e) (producerBody (utxCycle e)) s

end Sys2Proof.Machine
end

