-- ==== Sys2Proof/Machine/Eng.lean ====
section
/-! DEFINITION. Unit ENG: the segmented cyclic-buffer engine, ENG_SETUP, ENG_START, ENG_STOP and the
six events (spec/42_buffer_engine.md R150 to R177). -/

namespace Sys2Proof.Machine

/-! ### The ring (R153, R156, R168) -/

/-- The initial ring of `n` segments: each end points to the next segment's start, the last to the
overrun descriptor (R153). -/
def ringTargets (n : Nat) : List Jump :=
  (List.range n).map fun s => if s + 1 = n then .overrun else .start (s + 1)

/-- `rearm()`: every entry of `jump` is set back to the initial ring (R156). -/
def Eng.rearm (g : Eng) : Eng := { g with jump := ringTargets g.segments.toNat }

/-- `rearm(); CUR_SEG <- 0; firstCallback <- 1; STEAL_COUNT <- 0` (R155, R172). -/
def Eng.armRing (g : Eng) : Eng :=
  { g.rearm with curSeg := 0, firstCallback := true, stealCount := 0 }

/-- `repoint(c)` (R168). -/
def Eng.repoint (g : Eng) (c : Nat) : Eng :=
  (g.modifyJump c .overrun).modifyJump ((c + g.segments.toNat - 1) % g.segments.toNat) (.start c)

/-- `repoint(c); CUR_SEG <- (c + 1) mod S` (R163). -/
def Eng.advance (g : Eng) (c : Nat) : Eng :=
  { g.repoint c with curSeg := BitVec.ofNat 16 ((c + 1) % g.segments.toNat) }

/-! ### Setup (R151) -/

/-- The last assignments of an ENG_SETUP that succeeds (R151). -/
def Eng.finishSetup (g : Eng) (cbs : Nat) (base : Word) : Eng :=
  { g with
    jump := ringTargets g.segments.toNat, cycleBufSize := BitVec.ofNat 32 cbs, bufBase := base
    curSeg := 0, setupDone := true }

/-- The bytes of a cycle-buffer region, `(S*N + 1) * cbs` (R151; 20_memory.md R68). -/
def Eng.regionSize (g : Eng) (cbs : Nat) : Nat := (g.slots + 1) * cbs

/-- The pseudocode of ENG_SETUP (R151). -/
def engSetupBody (e : Nat) : M (Option Status) := do
  let g ← getEng e
  if g.setupDone ∨ g.fatal then answer .error
  else if g.segments.toNat < 2 ∨ g.cyclesPerSeg.toNat < 1 ∨ g.minPayload.toNat < 1 then
    answer .badArgument
  else
    let cbs := nextPow2 g.minPayload.toNat
    let size := g.regionSize cbs
    if 2 ^ 32 - 1 < size then do
      modEng e (fun g => { g with fatal := true })
      answer .noMemory
    else do
      let a ← alloc e size
      match a with
      | none => do
        modEng e (fun g => { g with fatal := true })
        answer .noMemory
      | some base => do
        let ok ← peAllocProgram e g.segments.toNat g.cyclesPerSeg.toNat cbs
        if ok then do
          modEng e (·.finishSetup cbs base)
          writeRes0 (BitVec.ofNat 32 cbs)
          writeRes1 base
          answer .success
        else do
          modEng e (fun g => { g with fatal := true })
          answer .error

/-! ### Start and stop (R154, R155, R157, R158) -/

/-- The kind-specific start checks (R154). -/
def startChecks (p : Params) (x : Inst) : Bool :=
  match x.eng.kind with
  | .dvrx => (p.dvRow x.dvr.dvMode).isSome
  | .dvtx =>
    match p.dvRow x.dvt.dvMode with
    | none => false
    | some row =>
      let b := x.dvt.blocksPerCycle.toNat
      decide (0 < row.blk ∧ row.frameSize % row.blk = 0 ∧ b * row.blk ≤ row.frameSize ∧
        8 + b * row.blk ≤ x.eng.cycleBufSize.toNat ∧
        x.dvt.txFrameBase.toNat + p.fTx * row.frameSize ≤ p.bufBytes)
  | .urx => true
  | .utx => decide (8 ≤ x.eng.cycleBufSize.toNat)

/-- Runs a producer on buffer `k`, then on the next ones, `n` in all; statuses and lengths are
discarded (R157, R161). -/
def produceFrom (produce : Nat → M (Status × Nat)) : (n k : Nat) → M Unit
  | 0, _ => pure ()
  | n + 1, k => do
    let _ ← produce k
    produceFrom produce n (k + 1)

/-- `prefill()` (R157). -/
def prefill (e : Nat) : M Unit := do
  let g ← getEng e
  match g.kind with
  | .dvtx => do
    let t ← peCycleTime e
    modDvt e (fun d => { d with txClock := t })
    produceFrom (dvtCycle e) g.slots 0
    let s ← getState
    match s.par.dvRow (s.dvt e).dvMode with
    | some row => writeCipOnly e g.slots row
    | none => pure ()
  | .utx => do
    produceFrom (utxCycle e) g.slots 0
    modEng e (·.setSlotHdr g.slots 0)
  | .dvrx | .urx => pure ()

/-- `drainSlots()` (R157). -/
def drainSlots (e : Nat) : M Unit := do
  let g ← getEng e
  match g.kind with
  | .dvtx => drainFrom e (g.slots + 1) 0
  | .utx | .dvrx | .urx => pure ()

/-- `startCT <- ct; EXPECTED_TS <- addCycles(ct, N)` (R155, R172). -/
def startClock (e : Nat) (ct : Word) : M Unit := do
  modEng e (fun g => { g with startCT := ct })
  let g ← getEng e
  let t ← addCycles ct g.cyclesPerSeg.toNat
  modEng e (fun g => { g with expectedTs := t })

/-- The last assignments of an ENG_START that succeeds: a receive engine with a registered watchdog
arms it (R155). -/
def Eng.enterRun (g : Eng) : Eng :=
  { g with running := true, wdArmed := g.wdArmed || (g.kind.isReceive && g.wdRegistered) }

/-- The pseudocode of ENG_START (R155). -/
def engStartBody (e : Nat) : M (Option Status) := do
  let s ← getState
  let g := s.eng e
  if g.setupDone = false ∨ g.fatal then answer .error
  else if g.running then answer .exclusiveAccess
  else if startChecks s.par (s.instAt e) = false then answer .badArgument
  else do
    modEng e Eng.armRing
    let sid ← peLocalNodeId e
    modEng e (fun g => { g with localSid := sid })
    prefill e
    let r ← peStart e
    match r with
    | none => do
      drainSlots e
      answer .error
    | some ct => do
      startClock e ct
      modEng e Eng.enterRun
      answer .success

/-- The pseudocode of ENG_STOP. It answers no status: it holds until the FINALIZE it waits for is
consumed (R158, R159; log 17). -/
def engStopBody (e : Nat) : M (Option Status) := do
  let g ← getEng e
  if g.running = false then answer .exclusiveAccess
  else do
    modEng e (fun g => { g with wdArmed := false })
    peStop e
    modEng e (fun g => { g with running := false, stopHold := true })
    pure none

/-! ### Finalize (R159, R160) -/

/-- `teardown()` (R159). -/
def teardown (e : Nat) : M Unit := do
  let g ← getEng e
  match g.kind with
  | .dvtx => do
    drainSlots e
    let d ← getDvt e
    match d.curFrame with
    | some f => do
      releaseFrame e f
      modDvt e (fun d => { d with curFrame := none })
    | none => pure ()
  | .dvrx => abandonCurrent e
  | .urx | .utx => pure ()

/-- EV_FINALIZE: the last FINALIZE owed ends a held ENG_STOP, whose status is written then (R159,
R158). -/
def evFinalizeBody (e : Nat) : M Unit := do
  let g ← getEng e
  if g.finalizeOwed = 0 then pure ()
  else do
    modEng e (fun g => { g with finalizeOwed := g.finalizeOwed - 1 })
    if g.finalizeOwed = 1 ∧ g.stopHold then do
      teardown e
      modEng e (fun g => { g with stopHold := false })
      update (·.setStatus .success)
    else pure ()

/-- EV_POLL_TIMEOUT (R160). -/
def evPollTimeoutBody (e : Nat) : M Unit := do
  let g ← getEng e
  if g.stopHold then raise (.finalizeTimeout e) else pure ()

/-! ### Segments (R161 to R170) -/

/-- `checkSlot(k)`, and the header it has checked (R166). -/
def checkSlot (e k : Nat) : M Word := do
  let g ← getEng e
  match sparseGet g.slotHdr k with
  | none => raise (.cycleOversize k none)
  | some h =>
    if g.cycleBufSize.toNat < dataLength h then raise (.cycleOversize k (some (dataLength h)))
    else pure h

/-- `tsSlot[s]`; one the Port Engine has not written is a draw (10_state.md R27, I25; log 7). -/
def readTsSlot (e s : Nat) : M Word := do
  let g ← getEng e
  match sparseGet g.tsSlot s with
  | some t => pure t
  | none => do
    let d ← draw
    pure d.word

/-- The per-cycle function of a receive kind on buffer `k` of segment `c`; its status is discarded
(R161). -/
def consumeCycle (e c k : Nat) (hdr : Word) : M Unit := do
  let g ← getEng e
  let ts ← readTsSlot e c
  match g.kind with
  | .dvrx => do
    let _ ← dvrCycle e hdr (g.slotAddr k) ts
    pure ()
  | .urx => do
    let _ ← urxCycle e hdr (g.slotAddr k) ts
    pure ()
  | .dvtx | .utx => pure ()

/-- The per-cycle function of a transmit kind on buffer `k`; its status and length are discarded
(R161). -/
def produceCycle (e k : Nat) : M Unit := do
  let g ← getEng e
  match g.kind with
  | .dvtx => do
    let _ ← dvtCycle e k
    pure ()
  | .utx => do
    let _ ← utxCycle e k
    pure ()
  | .dvrx | .urx => pure ()

/-- The cycle loop of EV_SEGMENT over `n` buffers of segment `c` from buffer `k` on, in cycle order;
answers `anyData` (R163). -/
def segmentCycles (e c : Nat) : (n k : Nat) → Bool → M Bool
  | 0, _, any => pure any
  | n + 1, k, any => do
    let g ← getEng e
    if g.kind.isReceive then do
      let h ← checkSlot e k
      consumeCycle e c k h
      segmentCycles e c n (k + 1) (any || carriesPayload h)
    else do
      produceCycle e k
      segmentCycles e c n (k + 1) any

/-- `exp` with the seconds of `act`, case (a) of R167. -/
def withSeconds (act exp : Word) : Word := act.extractLsb' 25 7 ++ exp.extractLsb' 0 25

/-- `STEAL_COUNT <- min(STEAL_COUNT + lost, 65535)` (R167). -/
def Eng.steal (g : Eng) (lost : Nat) : Eng :=
  { g with stealCount := BitVec.ofNat 16 (min (g.stealCount.toNat + lost) 65535) }

/-- `csr(DVT,e).TX_CLOCK <- addCycles(TX_CLOCK, lost)` (R167). -/
def advanceTxClock (e lost : Nat) : M Unit := do
  let d ← getDvt e
  let t ← addCycles d.txClock lost
  modDvt e (fun d => { d with txClock := t })

/-- The cases of `validateTimestamp`: answers the corrected `exp` (R167). -/
def correctTimestamp (e : Nat) (act exp : Word) : M Word := do
  let g ← getEng e
  if g.firstCallback ∧ ctCyc act = ctCyc exp ∧ ctSec act ≠ ctSec exp then
    pure (withSeconds act exp)
  else do
    chk act
    chk exp
    let lost := ctLost act exp
    if lost = 0 then pure exp
    else if lost ≤ g.recoveryThreshold.toNat then do
      if g.kind = .dvtx then do
        modEng e (·.steal lost)
        advanceTxClock e lost
      else pure ()
      pure act
    else do
      if g.kind = .dvtx then advanceTxClock e lost else pure ()
      engMsg e .timeStampAdjust (some lost)
      pure act

/-- `validateTimestamp(c)` (R167). -/
def validateTimestamp (e c : Nat) : M Unit := do
  let act ← readTsSlot e c
  chk act
  let g ← getEng e
  let exp ← correctTimestamp e act g.expectedTs
  let t ← addCycles exp g.cyclesPerSeg.toNat
  modEng e (fun g => { g with expectedTs := t })

/-- `rearmWatchdog()`: the deadline starts again, and no state changes (R176). -/
def rearmWatchdog : M Unit := pure ()

/-- EV_SEGMENT(s) (R163). -/
def evSegmentBody (e seg : Nat) : M Unit := do
  let g ← getEng e
  let c := g.curSeg.toNat
  if g.running = false then pure ()
  else if seg ≠ c then raise (.segOrder seg c)
  else do
    let any ← segmentCycles e c g.cyclesPerSeg.toNat (c * g.cyclesPerSeg.toNat) false
    modEng e (·.advance c)
    if g.kind.isReceive then pure () else validateTimestamp e c
    modEng e (fun g => { g with firstCallback := false })
    let g ← getEng e
    if g.kind.isReceive ∧ g.wdRegistered ∧ any then rearmWatchdog else pure ()

/-! ### Overrun, forced stop, watchdog (R171 to R175) -/

/-- The abandoned frame of a DVRX restart, or the refill of a transmit one (R172). -/
def rebuild (e : Nat) : M Unit := do
  let g ← getEng e
  match g.kind with
  | .dvrx => abandonCurrent e
  | .dvtx | .utx => do
    drainSlots e
    prefill e
  | .urx => pure ()

/-- `restart()` (R172). -/
def restart (e : Nat) : M Unit := do
  modEng e Eng.armRing
  rebuild e
  let r ← peStart e
  match r with
  | none => do
    modEng e (fun g => { g with running := false, fatal := true, wdArmed := false })
    engMsg e .autoRestartFailed none
  | some ct => startClock e ct

/-- EV_OVERRUN (R171). -/
def evOverrunBody (e : Nat) : M Unit := do
  let g ← getEng e
  if g.running = false then pure ()
  else do
    peStop e
    engMsg e .overrun none
    restart e

/-- EV_FORCE_STOP (R173). -/
def evForceStopBody (e : Nat) : M Unit := do
  let g ← getEng e
  if g.running = false then pure ()
  else do
    engMsg e .forcedStop none
    restart e

/-- EV_WATCHDOG (R175). -/
def evWatchdogBody (e : Nat) : M Unit := do
  let g ← getEng e
  if g.running = false ∨ g.wdArmed = false then pure ()
  else do
    engMsg e .noData none
    modEng e (fun g => { g with wdArmed := g.wdArmed || g.wdRegistered })

/-! ### The instructions -/

/-- ENG_SETUP (R151). -/
def execEngSetup (e : Nat) (s : State) : Host.Outcome State Fault Refusal :=
  asCommand (.engSetup e) (engSetupBody e) s

/-- ENG_START (R155). -/
def execEngStart (e : Nat) (s : State) : Host.Outcome State Fault Refusal :=
  asCommand (.engStart e) (engStartBody e) s

/-- ENG_STOP (R158). -/
def execEngStop (e : Nat) (s : State) : Host.Outcome State Fault Refusal :=
  asCommand (.engStop e) (engStopBody e) s

/-- EV_SEGMENT (R163). -/
def execEvSegment (e seg : Nat) (s : State) : Host.Outcome State Fault Refusal :=
  asEvent e (evSegmentBody e seg) s

/-- EV_OVERRUN (R171). -/
def execEvOverrun (e : Nat) (s : State) : Host.Outcome State Fault Refusal :=
  asEvent e (evOverrunBody e) s

/-- EV_FINALIZE (R159). -/
def execEvFinalize (e : Nat) (s : State) : Host.Outcome State Fault Refusal :=
  asEvent e (evFinalizeBody e) s

/-- EV_FORCE_STOP (R173). -/
def execEvForceStop (e : Nat) (s : State) : Host.Outcome State Fault Refusal :=
  asEvent e (evForceStopBody e) s

/-- EV_WATCHDOG (R175). -/
def execEvWatchdog (e : Nat) (s : State) : Host.Outcome State Fault Refusal :=
  asEvent e (evWatchdogBody e) s

/-- EV_POLL_TIMEOUT (R160). -/
def execEvPollTimeout (e : Nat) (s : State) : Host.Outcome State Fault Refusal :=
  asEvent e (evPollTimeoutBody e) s

end Sys2Proof.Machine
end

