-- ==== Sys2Proof/Machine/Dispatch.lean ====
section
/-! DEFINITION. The meaning of each instruction (spec/30_encoding.md R87). -/

namespace Sys2Proof.Machine

def exec (i : Instr) (s : State) : Host.Outcome State Fault Refusal :=
  match i with
  | .isCip => Sys2Proof.Machine.execIsCip s
  | .parseCip => Sys2Proof.Machine.execParseCip s
  | .buildCip => Sys2Proof.Machine.execBuildCip s
  | .ctAdd => Sys2Proof.Machine.execCtAdd s
  | .ctDelta => Sys2Proof.Machine.execCtDelta s
  | .ctIndex => Sys2Proof.Machine.execCtIndex s
  | .engSetup e => Sys2Proof.Machine.execEngSetup e s
  | .engStart e => Sys2Proof.Machine.execEngStart e s
  | .engStop e => Sys2Proof.Machine.execEngStop e s
  | .engSetWatchdog e => Sys2Proof.Machine.execEngSetWatchdog e s
  | .evSegment e seg => Sys2Proof.Machine.execEvSegment e seg s
  | .evOverrun e => Sys2Proof.Machine.execEvOverrun e s
  | .evFinalize e => Sys2Proof.Machine.execEvFinalize e s
  | .evForceStop e => Sys2Proof.Machine.execEvForceStop e s
  | .evWatchdog e => Sys2Proof.Machine.execEvWatchdog e s
  | .evPollTimeout e => Sys2Proof.Machine.execEvPollTimeout e s
  | .dvrCycle e => Sys2Proof.Machine.execDvrCycle e s
  | .dvrRelease e => Sys2Proof.Machine.execDvrRelease e s
  | .dvrRegister e => Sys2Proof.Machine.execDvrRegister e s
  | .dvtCycle e => Sys2Proof.Machine.execDvtCycle e s
  | .tsPacket e => Sys2Proof.Machine.execTsPacket e s
  | .tsFlush e => Sys2Proof.Machine.execTsFlush e s
  | .tsReleasePes e => Sys2Proof.Machine.execTsReleasePes e s
  | .urxCycle e => Sys2Proof.Machine.execUrxCycle e s
  | .utxCycle e => Sys2Proof.Machine.execUtxCycle e s
  | .csrRead unit inst idx => Sys2Proof.Machine.execCsrRead unit inst idx s
  | .csrWrite unit inst idx => Sys2Proof.Machine.execCsrWrite unit inst idx s

end Sys2Proof.Machine
end

