-- ==== Sys2Proof/Machine/Sequencer.lean ====
section
/-! DEFINITION. What one move of the schedule does: a host step, a consumed event, a Port Engine or
environment step, a reset (spec/10_state.md R28, spec/20_memory.md R70 to R78,
spec/60_exceptions.md R316, R317, R320, spec/70_reset_and_hazards.md R341). -/

namespace Sys2Proof.Machine

/-! ### The command port (10_state.md R21, R28) -/

/-- A STOP is in progress, so the host's command port is taken (42_buffer_engine.md R158;
70_reset_and_hazards.md R349). -/
def State.holding (s : State) : Bool := s.inst.any (·.eng.stopHold)

/-- A host write to CMD: a halted block ignores it, and while a STOP holds there is no such step (log
4); an illegal word changes STATUS only (60_exceptions.md R320, 30_encoding.md R90). -/
def issue (w : Word) (s : State) : Host.Outcome State Fault Refusal :=
  if s.halted ∨ s.holding then .next s
  else
    match decodeCommand w with
    | .ok i => exec i (s.setCmd w)
    | .error _ => .next ((s.setCmd w).setStatus .illegalCommand)

/-- One host step: a register access, or a byte of BUF through the memory port (10_state.md R21,
20_memory.md R67, R81). In a halted block register reads and BUF accesses still work and a CMD write is
ignored (60_exceptions.md R314), which says nothing of ARG writes: they take effect there, too (DESIGN
CHOICE, log 8). -/
def hostStep : HostAct → State → Host.Outcome State Fault Refusal
  | .write .cmd w, s => issue w s
  | .write r v, s => .next (s.hostWrite r v)
  | .read _, s => .next s
  | .poke a b, s => .next (finalState (portWrite a b s))
  | .peek a, s => .next (finalState (portRead a s))

/-! ### The event port (60_exceptions.md R316, R317) -/

/-- An event joins the queue's tail. -/
def Eng.pushEvent (g : Eng) (v : Event) : Eng := { g with events := g.events ++ [v] }

/-- The event word an event is, with the argument it carries (30_encoding.md R86, R87). -/
def Event.toInstr (e : Nat) : Event → Instr
  | .segment s => .evSegment e s
  | .overrun => .evOverrun e
  | .finalize => .evFinalize e
  | .forceStop => .evForceStop e
  | .watchdog => .evWatchdog e
  | .pollTimeout => .evPollTimeout e

/-- The sequencer consumes the head of instance `e`'s queue; a halted block consumes none
(60_exceptions.md R314, R317, R320). -/
def consumeEvent (e : Nat) (s : State) : Host.Outcome State Fault Refusal :=
  if s.halted then .next s
  else
    match (s.eng e).events with
    | [] => .next s
    | v :: rest => exec (v.toInstr e) (s.modEng e (fun g => { g with events := rest }))

/-! ### The Port Engine and the timers (20_memory.md R71 to R74) -/

/-- One packet appended to the observation of the bus (R73). -/
def State.appendWire (s : State) (p : WirePacket) : State := { s with wire := s.wire ++ [p] }

/-- Cycle `k` of a receive engine: a header and `cbs` bytes of payload arrive (R72; log 11). -/
def peReceive (e k : Nat) : M Unit := do
  let s ← getState
  let d ← draw
  modEng e (·.setSlotHdr k d.word)
  let g ← getEng e
  memWrite (g.slotAddr k) (drawPayload d s.drawn g.cycleBufSize.toNat)

/-- Cycle `k` of a transmit engine: its packet goes out (R73). A header never written holds no value,
and reading it faults (10_state.md R27; 42_buffer_engine.md R166). -/
def peSend (e k : Nat) : M Unit := do
  let g ← getEng e
  match sparseGet g.slotHdr k with
  | none => raise (.cycleOversize k none)
  | some h => do
    let p ← memRead (g.slotAddr k) (dataLength h)
    update (·.appendWire ⟨e, h, p⟩)

/-- One cycle of the Port Engine (R72, R73). -/
def peCycle (e k : Nat) : M Unit := do
  let g ← getEng e
  if g.kind.isReceive then peReceive e k else peSend e k

/-- `n` cycles of the Port Engine from buffer `k` on (R72, R73). -/
def peCycles (e : Nat) : (n k : Nat) → M Unit
  | 0, _ => pure ()
  | n + 1, k => do
    peCycle e k
    peCycles e n (k + 1)

/-- `tsSlot[s] <- t` (R72). -/
def Eng.setTsSlot (g : Eng) (s : Nat) (t : Word) : Eng :=
  { g with tsSlot := sparseSet g.tsSlot s t }

/-- The Port Engine segment step (R72, R73). -/
def peSegment (e : Nat) : M Unit := do
  let g ← getEng e
  peCycles e g.cyclesPerSeg.toNat (g.peSeg * g.cyclesPerSeg.toNat)
  let d ← draw
  modEng e (fun g => (g.setTsSlot g.peSeg d.word).pushEvent (.segment g.peSeg))
  let g ← getEng e
  match g.jump[g.peSeg]? with
  | some (.start j) => modEng e (fun g => { g with peSeg := j })
  | some .overrun => do
    peCycle e g.slots
    modEng e (fun g => { g.pushEvent .overrun with peRunning := false })
  | none => pure ()

/-- The Port Engine confirms one stop (R71, R74). -/
def Eng.confirmStop (g : Eng) : Eng := { g.pushEvent .finalize with peStops := g.peStops - 1 }

/-- A bus reset stops the Port Engine (R74). -/
def Eng.busReset (g : Eng) : Eng := { g.pushEvent .forceStop with peRunning := false }

/-! ### The schedule (10_state.md R28, 20_memory.md R78) -/

/-- One move of the schedule. A move that is not enabled changes nothing (log 4). -/
def perform : Action → State → Host.Outcome State Fault Refusal
  | .reset, s => .next s.resetBlock
  | .host a, s => hostStep a s
  | .consume e, s => consumeEvent e s
  | .peSegment e, s =>
    .next (if (s.eng e).peRunning then finalState (peSegment e s) else s)
  | .peFinalize e, s => .next (if 0 < (s.eng e).peStops then s.modEng e Eng.confirmStop else s)
  | .peForceStop e, s => .next (if (s.eng e).peRunning then s.modEng e Eng.busReset else s)
  | .watchdog e, s => .next (if (s.eng e).wdArmed then s.modEng e (·.pushEvent .watchdog) else s)
  | .pollTimeout e, s =>
    .next (if (s.eng e).stopHold then s.modEng e (·.pushEvent .pollTimeout) else s)

/-- The schedule's next move and the state in which it happens: the agenda's head, and beyond it a free
value (log 3). -/
def State.nextAction (s : State) : Action × State :=
  match s.agenda with
  | a :: as => (a, { s with agenda := as })
  | [] => (Config.action s.drawn, { s with drawn := s.drawn + 1 })

/-- The event an event word stands for, if the instruction is one. -/
def Instr.asEventOf : Instr → Option (Nat × Event)
  | .evSegment e s => some (e, .segment s)
  | .evOverrun e => some (e, .overrun)
  | .evFinalize e => some (e, .finalize)
  | .evForceStop e => some (e, .forceStop)
  | .evWatchdog e => some (e, .watchdog)
  | .evPollTimeout e => some (e, .pollTimeout)
  | _ => none

/-- The event stands at the head of instance `e`'s queue, and the schedule consumes it next. -/
def State.offerEvent (s : State) (e : Nat) (v : Event) : State :=
  { s.modEng e (fun g => { g with events := v :: g.events }) with
    agenda := .consume e :: s.agenda }

/-- The schedule's next move is a host write of `w` to CMD. -/
def State.offerCommand (s : State) (w : Word) : State :=
  { s with agenda := .host (.write .cmd w) :: s.agenda }

/-- The words of one instruction put where the next step takes its instruction: an event at the head of
its instance's queue, a command on the host's command port (log 3). -/
def State.offerWords (s : State) : List Word → State
  | [] => s
  | w :: ws =>
    match (decodeWords (w :: ws)).toOption.bind Instr.asEventOf with
    | some (e, v) => s.offerEvent e v
    | none => s.offerCommand w

end Sys2Proof.Machine
end

