-- ==== Sys2Proof/Machine/Step.lean ====
section
/-! DEFINITION. The step of the machine: one move of the schedule, whose order the spec leaves open
(spec/10_state.md R28, spec/20_memory.md R78). -/

namespace Sys2Proof.Machine

/-- One step: the schedule's next move, performed. -/
def step (s : State) : Host.Outcome State Fault Refusal := perform s.nextAction.1 s.nextAction.2

/-- The instruction whose bits are `w` put where the next step takes its instruction (log 3). -/
def State.withFetchWord (s : State) (nbits w : Nat) : State := s.offerWords (tableWords nbits w)

end Sys2Proof.Machine
end

