-- ==== Sys2Proof/Safety.lean ====
section
/-! DEFINITION. What counts as a safe run, in the terms the statements use: the states that take host
commands, runs in which no client acts, and the invariants of the machine (spec/10_state.md R31,
spec/42_buffer_engine.md R150, R169, spec/43_dv_receive.md R212, spec/45_ts_demux.md R293). -/

namespace Sys2Proof.Machine

/-- The block takes a host command outside any callback: it is not halted (60_exceptions.md R314) and no
client runs (R318). -/
abbrev State.idle (s : State) : Prop := s.halted = false ∧ s.inCallback = 0

/-- A step that goes on: it answers a next state and the block is not halted there. -/
def State.goesOn (s : State) : Prop := ∃ t, step s = .next t ∧ t.halted = false

/-- Between `s` and `t` the environment's answers came from the tape of `s`, and no client did anything
inside a callback (60_exceptions.md R318 point 2) and no reset fell there. -/
def State.quietTo (s t : State) : Prop :=
  (∀ d ∈ s.tape, d.quiet) ∧ t.drawn ≤ s.drawn + s.tape.length

/-! ### Calls and their answers -/

/-- The tape answers `n` callbacks with `ds`, whose clients do nothing, and then goes on with `rest`. -/
abbrev State.answers (s : State) (ds rest : List Draw) (n : Nat) : Prop :=
  s.tape = ds ++ rest ∧ ds.length = n ∧ ∀ d ∈ ds, d.quiet

/-- The callbacks `outs` have been made, one answer each, and `rest` is left of the tape. -/
def State.told (s : State) (outs : List Out) (rest : List Draw) : State :=
  { s with out := s.out ++ outs, tape := rest, drawn := s.drawn + outs.length }

/-- What the pseudocode of the command `i` does on the operands `a0`, `a1` and `a2` where another command's
or event's calls it: the command's effect but for ARG0 to ARG2, RES0 and STATUS (42_buffer_engine.md R157,
R161, R180). It says so for clients that write none of these. -/
def State.within (s : State) (i : Instr) (a0 a1 a2 : Word) : State :=
  match exec i { s with arg0 := a0, arg1 := a1, arg2 := a2 } with
  | .next t =>
    { t with
      arg0 := s.arg0, arg1 := s.arg1, arg2 := s.arg2, res0 := s.res0, status := s.status }
  | _ => s

/-- What a client does by one act inside its callback: a word written to CMD runs the command that it
stands for, or is refused as illegal (60_exceptions.md R319, R320); another register takes what the host may
write to it, and the memory port reads or writes one byte of BUF (10_state.md R21; 20_memory.md R67; outside
BUF: log 9). -/
def State.clientDoes (s : State) : HostAct → State
  | .write .cmd w =>
    match decodeCommand w with
    | .ok i =>
      match exec i { s with cmd := w } with
      | .next t => t
      | _ => s
    | .error _ => { s with cmd := w, status := 0x07 }
  | .write r v => s.hostWrite r v
  | .read _ => s
  | .poke a b => if a < s.par.bufBytes then s.writeBytes a [b] else s.takeFault (.badAddress a 1)
  | .peek a => if a < s.par.bufBytes then s else s.takeFault (.badAddress a 1)

/-- What a client has done by its acts in order; a raise ends them (60_exceptions.md R315). -/
def State.clientRan (s : State) (acts : List HostAct) : State :=
  acts.foldl (fun t a => if t.halted then t else t.clientDoes a) s

/-- The callback `o` has been entered, its client has done what the answer `d` says, and has not returned
yet; `rest` is left of the tape (60_exceptions.md R318). -/
def State.called (s : State) (o : Out) (d : Draw) (rest : List Draw) : State :=
  ({ s with
      out := s.out ++ [o], tape := rest, drawn := s.drawn + 1
      inCallback := s.inCallback + 1 } : State).clientRan d.acts

/-! ### Frames received and sent -/

/-- A DV receive instance in which the frame in progress, if there is one, has been abandoned
(43_dv_receive.md R209). -/
def Dvr.cleared (d : Dvr) : Dvr :=
  match d.currentFrame with
  | some f =>
    { d.modFrame f (fun r => { r with state := .free, refCount := 0 }) with
      freeQueue := d.freeQueue ++ [f], currentFrame := none }
  | none => d

/-- The frame `f`, popped from the free queue with `q` left in it, is in progress and empty
(43_dv_receive.md R206; 47_control.md R303). -/
def Dvr.started (d : Dvr) (f : Nat) (q : List Nat) (len : Nat) (syt : Half) (ts : Word) : Dvr :=
  { d.modFrame f (fun r =>
      { r with
        state := .filling, currentOffset := 0, frameLen := len, refCount := 0, frameSYTTime := syt
        frameReceivedTimeStamp := ts }) with
    freeQueue := q, currentFrame := some f }

/-- Every consumer is told `m`, in registration order and with no frame (43_dv_receive.md R214). -/
def Dvr.notices (d : Dvr) (e : Nat) (m : Msg) : List Out := d.consumers.map (.consumer e · m none)

/-- What is told when a frame in progress, if there is one, is abandoned (43_dv_receive.md R209). -/
def Dvr.abandonNotices (d : Dvr) (e : Nat) : List Out :=
  if d.currentFrame.isSome then d.notices e .frameCorrupted else []

/-- The body of the loop of 44_dv_transmit.md R242 for the frame `f`; beside the records it lists the
frames released so far, whose client is told (R244). -/
def Dvt.dropRef (a : Dvt × List Nat) (f : Nat) : Dvt × List Nat :=
  let d := a.1.modFrame f (fun r => { r with dclProgramRefCount := r.dclProgramRefCount - 1 })
  if (d.frame f).dclProgramRefCount = 0 ∧ d.curFrame ≠ some f then
    (d.modFrame f (fun r => { r with inUse := false }), a.2 ++ [f])
  else (d, a.2)

/-- `releaseSlotRefs(k)`: the records, and the frames released (44_dv_transmit.md R242). -/
def Dvt.releaseSlot (a : Dvt × List Nat) (k : Nat) : Dvt × List Nat :=
  let b := (a.1.refs k).foldl Dvt.dropRef a
  ({ b.1 with slotRefs := sparseErase b.1.slotRefs k }, b.2)

/-- The buffers below `n` drained (42_buffer_engine.md R157), in increasing order (log 26). -/
def Dvt.drained (d : Dvt) (n : Nat) : Dvt × List Nat := (List.range n).foldl Dvt.releaseSlot (d, [])

/-- `S*N`. -/
def Eng.cycles (g : Eng) : Nat := g.segments.toNat * g.cyclesPerSeg.toNat

/-- `n` cycle buffers of a transmit engine, from buffer `k` on, produced in order (42_buffer_engine.md R157,
R161). -/
def State.produced (s : State) (e k n : Nat) : State :=
  (List.range n).foldl (fun t j =>
    t.within (if (s.eng e).kind = .dvtx then .dvtCycle e else .utxCycle e) (BitVec.ofNat 32 (k + j))
      t.arg1 t.arg2) s

/-- Every cycle buffer of a transmit engine's ring produced once, in order (42_buffer_engine.md R157). -/
def State.refilled (s : State) (e : Nat) : State := s.produced e 0 (s.eng e).cycles

/-- `n` cycle buffers of a receive engine, from buffer `k` on, consumed in order: cycle `k + j` has the
header `hdr (k + j)`, its payload in its cycle buffer and the segment's time stamp `ts`
(42_buffer_engine.md R161). -/
def State.consumed (s : State) (e k n : Nat) (hdr : Nat → Word) (ts : Word) : State :=
  (List.range n).foldl (fun t j =>
    t.within (if (s.eng e).kind = .dvrx then .dvrCycle e else .urxCycle e) (hdr (k + j))
      (BitVec.ofNat 32 ((s.eng e).slotAddr (k + j))) ts) s

/-- The packet of the overrun buffer that ends a prefill: for DVTX a CIP header with no data, for UTX an
empty header (42_buffer_engine.md R157; 44_dv_transmit.md R245). -/
def State.withOverrunPacket (s : State) (e : Nat) (row : DvFormat) : State :=
  let g := s.eng e
  let k := g.cycles
  if g.kind = .dvtx then
    (s.writeBytes (g.bufBase.toNat + k * g.cycleBufSize.toNat)
      [g.localSid.setWidth 8, row.dbs, row.fn ++ 0#6, (s.dvt e).dbc, 0x80, row.mode, 0xFF,
        0xFF]).modEng e (fun g => { g with
      slotHdr := sparseSet g.slotHdr k (0x0008#16 ++ 0b01#2 ++ g.channel ++ 0xA#4 ++ 0x0#4) })
  else s.modEng e (fun g => { g with slotHdr := sparseSet g.slotHdr k 0 })

/-! ### The packet of a TS_PACKET (45_ts_demux.md R271 to R273) -/

/-- The PID of the packet at ARG0. -/
def State.packetPid (s : State) : Pid :=
  (s.readByte (s.arg0.toNat + 1)).extractLsb' 0 5 ++ s.readByte (s.arg0.toNat + 2)

/-- The packet at ARG0 lies in BUF, has its sync byte and belongs to the stream `y`. -/
abbrev State.packetOn (s : State) (e : Nat) (y : StreamType) : Prop :=
  s.arg0.toNat + 188 ≤ s.par.bufBytes ∧ s.readByte s.arg0.toNat = 0x47 ∧
  (y = .video → (s.ts e).videoPid.valid = true ∧ s.packetPid = (s.ts e).videoPid.pid) ∧
  (y = .audio →
    ¬ ((s.ts e).videoPid.valid = true ∧ s.packetPid = (s.ts e).videoPid.pid) ∧
      (s.ts e).audioPid.valid = true ∧ s.packetPid = (s.ts e).audioPid.pid)

/-! ### Elementary streams (45_ts_demux.md R279, R284, R285, R290) -/

/-- The stream `y` starts afresh; a current buffer is kept and emptied (R290). -/
def Ts.restarted (t : Ts) (y : StreamType) : Ts :=
  (match (t.stream y).curBuf with
    | some b => t.modBuf b (fun r => { r with pesBufLen := 0 })
    | none => t).modStream y (fun x =>
      { x with foundFirst := false, streamCont := none, truncated := false, pesPacketPos := 0 })

/-- Every PID is forgotten, and the count of packets starts again (R284). -/
def Ts.rescanned (t : Ts) : Ts :=
  ((({ t with
      pktSinceCb := 0, videoPid := ⟨false, t.videoPid.pid⟩, audioPid := ⟨false, t.audioPid.pid⟩
      pmtPid := ⟨false, t.pmtPid.pid⟩ } : Ts).restarted .video).restarted .audio)

/-- The PES PIDs that the PSI decoder has found are taken over, and a stream whose PID changes starts
afresh (R285). -/
def Ts.answered (t : Ts) (c : Draw) : Ts :=
  let video := match c.videoPid with
    | some v => if t.videoPid = ⟨true, v⟩ then t else ({ t with videoPid := ⟨true, v⟩ } : Ts).restarted .video
    | none => t
  let audio := match c.audioPid with
    | some v =>
      if video.audioPid = ⟨true, v⟩ then video
      else ({ video with audioPid := ⟨true, v⟩ } : Ts).restarted .audio
    | none => video
  match c.pmtPid with
  | some v => { audio with pmtPid := ⟨true, v⟩ }
  | none => audio

/-! ### Invariants -/

/-- Every entry of `jump` of a set-up engine: `s = (CUR_SEG + S - 1) mod S` is `Overrun`, every other `s`
is `Start((s+1) mod S)` (42_buffer_engine.md R169), in a ring of at least two segments (10_state.md
R26) in which CUR_SEG is a segment. -/
def Eng.ringLaw (g : Eng) : Prop :=
  g.setupDone = true →
    2 ≤ g.segments.toNat ∧ g.curSeg.toNat < g.segments.toNat ∧
    g.jump = (List.range g.segments.toNat).map (fun s =>
      if s = (g.curSeg.toNat + g.segments.toNat - 1) % g.segments.toNat then .overrun
      else .start ((s + 1) % g.segments.toNat))

/-- A running engine is set up and not fatal (42_buffer_engine.md R155, R172), and every `pe.stop()`
whose FINALIZE has not been consumed has its one FINALIZE still to be enqueued or in the queue
(20_memory.md R71, R74; 42_buffer_engine.md R159). -/
def Eng.transportLaw (g : Eng) : Prop :=
  (g.running = true → g.setupDone = true ∧ g.fatal = false) ∧
  g.finalizeOwed = g.peStops + g.events.count .finalize

/-- The free-queue law of a DV receive instance (10_state.md R31, 43_dv_receive.md R212). -/
def Dvr.law (d : Dvr) : Prop :=
  d.freeQueue.Nodup ∧
  (∀ f, f ∈ d.freeQueue ↔ f < d.frames.length ∧ (d.frame f).state = .free) ∧
  (∀ f, d.currentFrame = some f → f < d.frames.length ∧ (d.frame f).state = .filling) ∧
  (∀ f, f < d.frames.length → (d.frame f).state = .filling → d.currentFrame = some f) ∧
  (∀ f, f < d.frames.length → (d.frame f).state ≠ .dispatched → (d.frame f).refCount = 0)

/-- The buffer-conservation law of a TS instance (45_ts_demux.md R293): the free queue of a type holds
exactly its Free buffers, once each, and the current buffer of a type is its one Filling buffer. -/
def Ts.law (t : Ts) : Prop :=
  ∀ y, (t.pesFree y).Nodup ∧
    (∀ b, b ∈ t.pesFree y ↔ b < t.nextPesId ∧ (t.buf b).state = .free ∧ (t.buf b).stype = y) ∧
    (∀ b, (t.stream y).curBuf = some b ↔
      b < t.nextPesId ∧ (t.buf b).state = .filling ∧ (t.buf b).stype = y)

/-- Every instance of every index obeys a law. -/
def State.every (P : Inst → Prop) (s : State) : Prop := ∀ x ∈ s.inst, P x

/-- The parameters obey the constraints of 00_scope.md R8; there are `E_INST` instances, each with `F_RX`
records of DV receive frames and `F_TX` of transmit frames (10_state.md R24, R30, R33); BUF is in canonical
form inside `0 .. BUF_BYTES-1` (20_memory.md R61), STATUS holds one of the codes 0x00 to 0x07
(60_exceptions.md R311) and bits [31:7] of FAULTS are 0 (R314). -/
def State.registerLaw (s : State) : Prop :=
  s.par.wf = true ∧ s.inst.length = s.par.eInst ∧
    s.every (fun x => x.dvr.frames.length = s.par.fRx ∧ x.dvt.frames.length = s.par.fTx) ∧
    Memory.wf s.par.bufBytes s.buf ∧ s.status.toNat ≤ 7 ∧ s.faults.toNat < 128

end Sys2Proof.Machine
end

