-- ==== Sys2Proof/Certificates/Slice0/Obligations.lean ====
section
/-! DEFINITION. The statements for the provers. Each docstring names the rule of spec/ it formalises.
Where a statement says what becomes of the model's own fields, that is the model's choice: `tape` and
`drawn` (log 2), `agenda` (log 3), `faultInfo` (log 8), `regions` (log 10), `out` (log 14), `cmd`
(log 21), the order of a drain (log 26). -/

open Sys2Proof Sys2Proof.Machine

/-! ### Encoding and the decode order -/

/-- Words written out from the opcode map and the formats of `imm` decode to the instruction they stand
for, one or more for each unit (30_encoding.md R86 to R88). -/
def Obligations.WrittenWordsDecode : Prop :=
  decode 0x01010000#32 0 = .ok .isCip ∧
  decode 0x01030000#32 0 = .ok .buildCip ∧
  decode 0x02020000#32 0 = .ok .ctDelta ∧
  decode 0x03020001#32 0 = .ok (.engStart 1) ∧
  decode 0x03100002#32 7 = .ok (.evSegment 2 7) ∧
  decode 0x03150000#32 0 = .ok (.evPollTimeout 0) ∧
  decode 0x04020003#32 0 = .ok (.dvrRelease 3) ∧
  decode 0x05010000#32 0 = .ok (.dvtCycle 0) ∧
  decode 0x06030004#32 0 = .ok (.tsReleasePes 4) ∧
  decode 0x07020005#32 0 = .ok (.utxCycle 5) ∧
  decode 0x0F01300B#32 0 = .ok (.csrRead 3 0 0x0B) ∧
  decode 0x0F026101#32 0 = .ok (.csrWrite 6 1 1)

/-- Decode and encode agree on every well-formed instruction (30_encoding.md R86 to R88). -/
def Obligations.DecodeOfEncode : Prop :=
  ∀ i : Instr, i.wellFormed = true → decodeWords (encode i) = .ok i

/-- A word stands for at most one instruction, which is well formed and is encoded by that word alone
(30_encoding.md R86 to R88). -/
def Obligations.WordHasOneMeaning : Prop :=
  ∀ (w : Word) (a : Half) (i : Instr), decode w a = .ok i →
    i.wellFormed = true ∧ encodeWord i = w ∧
    (∀ j : Instr, j.wellFormed = true → encodeWord j = w → j.carried = i.carried → j = i)

/-- 30_encoding.md R90: a word that is no command's, written to CMD, changes STATUS only (CMD itself is
write-only and keeps the word, log 21); an event encoding there is no command's; an index beyond E_INST
gives BadArgument and no other effect; the reserved units hold no command. -/
def Obligations.IllegalCommandWords : Prop :=
  (∀ (s s' : State) (w : Word),
    s.nextAction = (.host (.write .cmd w), s') → s'.halted = false → s'.holding = false →
    (∀ i : Instr, i.wellFormed = true → i.isEvent = false → encodeWord i ≠ w) →
    step s = .next { s' with cmd := w, status := 0x07 }) ∧
  (∀ (i : Instr) (e : Nat) (s : State),
    namedInstance i = some e → i.isEvent = false → s.inst.length ≤ e → s.halted = false →
    exec i s = .next { s with status := 0x06 }) ∧
  (∀ i : Instr, unitField (encodeWord i) ∉
    [0x00#8, 0x08, 0x09, 0x0A, 0x0B, 0x0C, 0x0D, 0x0E] ∧ unitField (encodeWord i) < 0x10)

/-- 60_exceptions.md R320: the order of the checks on a word written to CMD. -/
def Obligations.DecodeOrder : Prop :=
  ∀ (s s' : State) (w : Word),
    s.nextAction = (.host (.write .cmd w), s') → s'.holding = false →
    (s'.halted = true → step s = .next s') ∧
    (s'.halted = false →
      (∀ r, decodeCommand w = .error r → step s = .next { s' with cmd := w, status := 0x07 }) ∧
      (∀ i, decodeCommand w = .ok i →
        (s'.hasInstance i = false → step s = .next { s' with cmd := w, status := 0x06 }) ∧
        (s'.hasInstance i = true → 0 < s'.inCallback → nestable i = false →
          step s = .next { s' with
            cmd := w, halted := true, faults := s'.faults ||| 0x20
            faultInfo := some (.reentrant w) })))

/-- 60_exceptions.md R319: inside a callback every command but the ten listed raises FAULT_REENTRANT; a
listed one makes no callback. And R318: a callback is entered, its client does what it does, each command
that it writes being the command that runs (`State.called`), and the step goes on with its answer; a raise
inside the callback ends the step there (R315), and so does a reset (70_reset_and_hazards.md R341). -/
def Obligations.NestedCommands : Prop :=
  (∀ (i : Instr) (s : State),
    i.isEvent = false → s.halted = false → 0 < s.inCallback → s.hasInstance i = true →
    let allowed := i = .isCip ∨ i = .parseCip ∨ i = .buildCip ∨ i = .ctAdd ∨ i = .ctDelta ∨
      i = .ctIndex ∨ (∃ u e x, i = .csrRead u e x) ∨ (∃ e, i = .dvrRelease e) ∨
      (∃ e, i = .tsReleasePes e) ∨ (∃ e, i = .engSetWatchdog e)
    (allowed →
      ∃ t, exec i s = .next t ∧ t.inCallback = s.inCallback ∧ t.out = s.out ∧ t.drawn = s.drawn) ∧
    (¬ allowed →
      exec i s = .next { s with
        halted := true, faults := s.faults ||| 0x20
        faultInfo := some (.reentrant (encodeWord i)) })) ∧
  (∀ (o : Out) (s : State) (d : Draw) (rest : List Draw), s.tape = d :: rest → s.halted = false →
    let ran := s.called o d rest
    (ran.halted = true → callback o s = .error .fault ran) ∧
    (ran.halted = false → d.reset = false →
      callback o s = .ok d { ran with inCallback := s.inCallback }) ∧
    (ran.halted = false → d.reset = true → callback o s = .error .reset ran))

/-- 60_exceptions.md R314: a raise sets its bit of FAULTS, records its information (that of the first raise
of a run, which is the one observable) and halts the block; a halted block takes no command and consumes no
event, STATUS and RES keep their values, and only reset leaves the halted state. The host's memory port
works, halted or not, one byte a step, and raises FAULT_BAD_ADDRESS for an address outside BUF (20_memory.md
R61, R62, R67; log 9). -/
def Obligations.TakingAFault : Prop :=
  (∀ (s : State) (a b : Nat) (w : Word) (o : Option Nat),
      let first := fun f : BlockFault => if s.halted then s.faultInfo else some f
      s.takeFault (.shortPayload a) =
        { s with faults := s.faults ||| 0x01, halted := true, faultInfo := first (.shortPayload a) } ∧
      s.takeFault (.ctRange w) =
        { s with faults := s.faults ||| 0x02, halted := true, faultInfo := first (.ctRange w) } ∧
      s.takeFault (.segOrder a b) =
        { s with faults := s.faults ||| 0x04, halted := true, faultInfo := first (.segOrder a b) } ∧
      s.takeFault (.cycleOversize a o) =
        { s with
          faults := s.faults ||| 0x08, halted := true, faultInfo := first (.cycleOversize a o) } ∧
      s.takeFault (.finalizeTimeout a) =
        { s with
          faults := s.faults ||| 0x10, halted := true, faultInfo := first (.finalizeTimeout a) } ∧
      s.takeFault (.reentrant w) =
        { s with faults := s.faults ||| 0x20, halted := true, faultInfo := first (.reentrant w) } ∧
      s.takeFault (.badAddress a b) =
        { s with faults := s.faults ||| 0x40, halted := true, faultInfo := first (.badAddress a b) }) ∧
  (∀ (i : Instr) (s : State), s.halted = true → exec i s = .next s) ∧
  (∀ s t : State, s.halted = true → step s = .next t → s.nextAction.1 ≠ .reset →
    t.halted = true ∧ t.faultInfo = s.faultInfo ∧ t.status = s.status ∧
    (t.res0, t.res1, t.res2, t.res3) = (s.res0, s.res1, s.res2, s.res3)) ∧
  (∀ s t : State, step s = .next t → s.nextAction.1 = .reset → t.halted = false ∧ t.faults = 0) ∧
  (∀ (s s' : State) (a : Nat) (b : Byte),
    (s.nextAction = (.host (.poke a b), s') → step s = .next (
      if a < s'.par.bufBytes then s'.writeBytes a [b] else s'.takeFault (.badAddress a 1))) ∧
    (s.nextAction = (.host (.peek a), s') → step s = .next (
      if a < s'.par.bufBytes then s' else s'.takeFault (.badAddress a 1))))

/-- The step runs what the schedule puts on the command port and what stands at the head of an event
queue (10_state.md R28, 60_exceptions.md R317); so an instruction placed where the next step takes one
(log 3) is the instruction that runs. The other registers of the command port (10_state.md R21): the host
writes ARG0 to ARG3, writes to RES, STATUS and FAULTS are ignored, and a read changes nothing and answers the
register, CMD as 0 (what the field `cmd` keeps is log 21). -/
def Obligations.StepRunsTheInstruction : Prop :=
  (∀ (s s' : State) (v : Word),
    (s.nextAction = (.host (.write .arg0 v), s') → step s = .next { s' with arg0 := v }) ∧
    (s.nextAction = (.host (.write .arg1 v), s') → step s = .next { s' with arg1 := v }) ∧
    (s.nextAction = (.host (.write .arg2 v), s') → step s = .next { s' with arg2 := v }) ∧
    (s.nextAction = (.host (.write .arg3 v), s') → step s = .next { s' with arg3 := v }) ∧
    (∀ r, r ∈ [HostReg.res0, .res1, .res2, .res3, .status, .faults] →
      s.nextAction = (.host (.write r v), s') → step s = .next s')) ∧
  (∀ (s s' : State) (r : HostReg), s.nextAction = (.host (.read r), s') → step s = .next s') ∧
  (∀ (s : State) (r : HostReg) (v : Word), (r, v) ∈
    [(HostReg.cmd, 0), (.arg0, s.arg0), (.arg1, s.arg1), (.arg2, s.arg2), (.arg3, s.arg3),
     (.res0, s.res0), (.res1, s.res1), (.res2, s.res2), (.res3, s.res3),
     (.status, BitVec.ofNat 32 s.status.toNat), (.faults, s.faults)] → s.hostRead r = v) ∧
  (∀ (s s' : State) (w : Word) (i : Instr),
    s.nextAction = (.host (.write .cmd w), s') → s'.halted = false → s'.holding = false →
    decodeCommand w = .ok i → step s = exec i { s' with cmd := w }) ∧
  (∀ (s s' : State) (e : Nat) (v : Event) (rest : List Event),
    s.nextAction = (.consume e, s') → s'.halted = false → (s'.eng e).events = v :: rest →
    step s = exec (v.toInstr e) (s'.modEng e (fun g => { g with events := rest }))) ∧
  (∀ (s : State) (nbits w : Nat) (i : Instr),
    s.halted = false → s.holding = false → decodeTableWord nbits w = some i →
    (i.isEvent = true → s.hasInstance i = true) →
    step (s.withFetchWord nbits w) =
      exec i (if i.isEvent then s else { s with cmd := BitVec.ofNat 32 (w % 2 ^ nbits) }))

/-! ### BUF -/

/-- 20_memory.md R62: an access is legal iff `addr + n ≤ BUF_BYTES`; an illegal one raises before any
byte is read or written; a legal write stores its bytes and leaves every other byte. -/
def Obligations.BufAccess : Prop :=
  ∀ (s : State) (a : Nat) (bs : List Byte),
    (∀ n, memRead a n s =
      if a + n ≤ s.par.bufBytes then .ok ((List.range n).map (fun j => s.readByte (a + j))) s
      else .error .fault (s.takeFault (.badAddress a n))) ∧
    (s.par.bufBytes < a + bs.length →
      memWrite a bs s = .error .fault (s.takeFault (.badAddress a bs.length))) ∧
    (a + bs.length ≤ s.par.bufBytes →
      memWrite a bs s = .ok () (s.writeBytes a bs) ∧
      (∀ j, (s.writeBytes a bs).readByte j =
        if a ≤ j ∧ j < a + bs.length then bs.getD (j - a) 0 else s.readByte j) ∧
      s.writeBytes a bs = { s with buf := (s.writeBytes a bs).buf })

/-- The parameters keep the constraints of 00_scope.md R8, the instances their number E_INST and their frame
stores F_RX and F_TX records (10_state.md R24, R30, R33), BUF stays in canonical form inside
`0 .. BUF_BYTES-1`, STATUS stays one of the codes of R311 and bits [31:7] of FAULTS stay 0, over every step
(20_memory.md R61, 60_exceptions.md R311, R314). -/
def Obligations.StepKeepsRegisterLaw : Prop :=
  ∀ s t : State, s.registerLaw → step s = .next t → t.registerLaw

/-! ### Unit CIP -/

/-- 40_cip_codec.md R121: IS_CIP. -/
def Obligations.IsCipResult : Prop :=
  ∀ s : State, s.halted = false →
    exec .isCip s = .next { s with
      res0 := if s.arg0.extractLsb' 14 2 = 0b01#2 then 1 else 0, status := 0x00 }

/-- 40_cip_codec.md R122: PARSE_CIP, with each of its exits in the order of its pseudocode. -/
def Obligations.ParseCipResult : Prop :=
  ∀ s : State, s.halted = false →
    let pa := s.arg0.toNat
    let len := s.arg1.toNat
    let out := s.arg2.toNat
    let sps := (s.readByte (pa + 1)).toNat * 4 * 2 ^ ((s.readByte (pa + 2)).toNat / 64)
    let n := min ((len - 8) / sps) s.par.maxSourcePackets
    let pointers := (List.range n).flatMap fun i => be32Bytes (BitVec.ofNat 32 (pa + 8 + i * sps))
    exec .parseCip s = .next (
      if len < 8 then s.takeFault (.shortPayload len)
      else if s.par.bufBytes < pa + len then s.takeFault (.badAddress pa len)
      else if sps = 0 then { s with status := 0x04 }
      else if s.par.bufBytes < out + 4 * n then s.takeFault (.badAddress out (4 * n))
      else
        { s.writeBytes out pointers with
          res0 := BitVec.ofNat 32 n
          res1 := BitVec.ofNat 32 sps
          res2 := s.readByte pa ++ s.readByte (pa + 1) ++ s.readByte (pa + 2) ++ s.readByte (pa + 3)
          res3 := s.readByte (pa + 4) ++ s.readByte (pa + 5) ++ s.readByte (pa + 6) ++
            s.readByte (pa + 7)
          status := if s.par.maxSourcePackets < (len - 8) / sps then 0x05 else 0x00 })

/-- 40_cip_codec.md R124: BUILD_CIP. -/
def Obligations.BuildCipResult : Prop :=
  ∀ s : State, s.halted = false →
    let q1 : Word :=
      if s.arg1.getLsbD 29 then s.arg1
      else s.arg1.extractLsb' 24 8 ++ s.arg1.extractLsb' 0 8 ++ s.arg2.extractLsb' 0 16
    exec .buildCip s = .next (
      if s.arg0.extractLsb' 30 2 ≠ 0 ∨ s.arg2.extractLsb' 16 16 ≠ 0 then { s with status := 0x06 }
      else if s.arg1.getLsbD 29 = false ∧ s.arg1.extractLsb' 8 16 ≠ 0 then { s with status := 0x06 }
      else if s.par.bufBytes < s.arg3.toNat + 8 then s.takeFault (.badAddress s.arg3.toNat 8)
      else
        { s.writeBytes s.arg3.toNat (be32Bytes s.arg0 ++ be32Bytes q1) with
          res0 := s.arg0, res1 := q1, status := 0x00 })

/-- The round trip that 40_cip_codec.md R125 infers from R122 and R124: PARSE_CIP of what BUILD_CIP
built, with a payload of `k` source packets, reports those `k` packets, `sps` apart and disjoint, and
the fields of R123 that BUILD_CIP was given (`syt` when `fmt[5] = 0`). -/
def Obligations.BuildThenParse : Prop :=
  ∀ (s t : State) (k : Nat) (out : Word),
    let pa := s.arg3.toNat
    let sps := (s.arg0.extractLsb' 16 8).toNat * 4 * 2 ^ (s.arg0.extractLsb' 14 2).toNat
    let u : State := { t with arg0 := s.arg3, arg1 := BitVec.ofNat 32 (8 + k * sps), arg2 := out }
    let h := cipHeader (u.readBytes pa 8)
    s.halted = false → exec .buildCip s = .next t → t.halted = false → t.status = 0x00 →
    s.arg0.extractLsb' 16 8 ≠ 0 → k ≤ s.par.maxSourcePackets → 8 + k * sps < 2 ^ 32 →
    pa + (8 + k * sps) ≤ s.par.bufBytes → out.toNat + 4 * k ≤ s.par.bufBytes →
    exec .parseCip u = .next
      { u.writeBytes out.toNat
          ((List.range k).flatMap fun i => be32Bytes (BitVec.ofNat 32 (pa + (8 + i * sps)))) with
        res0 := BitVec.ofNat 32 k, res1 := BitVec.ofNat 32 sps, res2 := t.res0, res3 := t.res1
        status := 0x00 } ∧
    (∀ i j, i < j → pa + (8 + i * sps) + sps ≤ pa + (8 + j * sps)) ∧
    h.sid = s.arg0.extractLsb' 24 6 ∧ h.dbs = s.arg0.extractLsb' 16 8 ∧
    h.fn = s.arg0.extractLsb' 14 2 ∧ h.qpc = s.arg0.extractLsb' 11 3 ∧ h.sph = s.arg0.getLsbD 10 ∧
    h.dbc = s.arg0.extractLsb' 0 8 ∧ h.eoh = s.arg1.getLsbD 31 ∧
    h.fmt = s.arg1.extractLsb' 24 6 ∧ h.fdf = s.arg1.extractLsb' 0 24 ∧
    (s.arg1.getLsbD 29 = false → h.syt = s.arg2.extractLsb' 0 16)

/-! ### Unit CT -/

/-- The laws that 41_cycle_time.md R145 infers from R140, R142 and R143: CT_ADD on legal operands adds
their values modulo M = 128*8000*3072, keeps legality, is commutative and associative with identity 0,
and `k` single cycles move the index by `k` modulo 64000. -/
def Obligations.CycleTimeAddition : Prop :=
  (∀ s : State, s.halted = false → ctLegal s.arg0 → ctLegal s.arg1 →
    exec .ctAdd s = .next { s with res0 := ctSum s.arg0 s.arg1, status := 0x00 }) ∧
  (∀ a b : Word, ctLegal a → ctLegal b →
    ctLegal (ctSum a b) ∧ ctVal (ctSum a b) = (ctVal a + ctVal b) % (128 * 8000 * 3072)) ∧
  (∀ a b : Word, ctLegal a → ctLegal b → ctSum a b = ctSum b a) ∧
  (∀ a b c : Word, ctLegal a → ctLegal b → ctLegal c →
    ctSum (ctSum a b) c = ctSum a (ctSum b c)) ∧
  (∀ a : Word, ctLegal a → ctSum a 0 = a) ∧
  (∀ (a : Word) (k : Nat), ctLegal a →
    ctIdx (Nat.repeat (fun t => ctSum t 0x00001000#32) k a) = (ctIdx a + k) % 64000)

/-- 41_cycle_time.md R141: an operand that is not legal raises FAULT_CT_RANGE with that operand, the
first one first. -/
def Obligations.CycleTimeRange : Prop :=
  ∀ (i : Instr) (s : State), s.halted = false → i = .ctAdd ∨ i = .ctDelta ∨ i = .ctIndex →
    (¬ (s.arg0.toNat % 2 ^ 12 < 3072 ∧ s.arg0.toNat / 2 ^ 12 % 2 ^ 13 < 8000) →
      exec i s = .next (s.takeFault (.ctRange s.arg0))) ∧
    (ctLegal s.arg0 → i ≠ .ctIndex →
      ¬ (s.arg1.toNat % 2 ^ 12 < 3072 ∧ s.arg1.toNat / 2 ^ 12 % 2 ^ 13 < 8000) →
      exec i s = .next (s.takeFault (.ctRange s.arg1)))

/-- 41_cycle_time.md R143 and R144: CT_INDEX, and CT_DELTA as a difference in integers modulo 64000. -/
def Obligations.CycleTimeIndexAndDelta : Prop :=
  ∀ s : State, s.halted = false → ctLegal s.arg0 →
    let idx := fun t : Word => t.toNat / 2 ^ 25 % 8 * 8000 + t.toNat / 2 ^ 12 % 2 ^ 13
    idx s.arg0 < 64000 ∧
    exec .ctIndex s = .next { s with res0 := BitVec.ofNat 32 (idx s.arg0), status := 0x00 } ∧
    (ctLegal s.arg1 → ∃ d : Nat,
      (d : Int) = ((idx s.arg0 : Int) - (idx s.arg1 : Int)) % 64000 ∧
      exec .ctDelta s = .next { s with res0 := BitVec.ofNat 32 d, status := 0x00 })

/-! ### Unit CTL -/

/-- 47_control.md R301 with the CSR tables of 10_state.md R26, R29, R32 and R34: what CSR_READ of every
CSR answers, and that an undefined CSR answers BadArgument with RES0 unchanged (R25). That a count, offset,
position or pool length too large for its field shows its low bits (the `% 2 ^ n` below) is the model's
choice (DEDUCED, log 12), and so is that the bits of a register that no field names read as 0 (DESIGN
CHOICE, log 28). -/
def Obligations.CsrReadValues : Prop :=
  ∀ (s : State) (i : Nat), s.halted = false → i < s.inst.length →
    let g := s.eng i
    let r := s.dvr i
    let x := s.dvt i
    let d := s.ts i
    let rf := r.frame r.frameSel.toNat
    let xf := x.frame x.frameSel.toNat
    let bit := fun (b : Bool) (n : Nat) => if b then 2 ^ n else 0
    let index := fun o : Option Nat => match o with | some f => 2 ^ 15 + f % 2 ^ 15 | none => 0
    let stream := fun t : Stream =>
      bit t.foundFirst 0 + bit t.streamCont.isSome 1 + (t.streamCont.getD 0).toNat * 16 +
        bit t.truncated 8
    let pid := fun p : PidReg => p.pid.toNat + bit p.valid 15
    (∀ (u n : Nat) (v : Nat), (u, n, v) ∈
      [(3, 0x00, match g.kind with | .dvrx => 0 | .dvtx => 1 | .urx => 2 | .utx => 3),
       (3, 0x01, g.segments.toNat), (3, 0x02, g.cyclesPerSeg.toNat), (3, 0x03, g.minPayload.toNat),
       (3, 0x04, g.channel.toNat), (3, 0x05, g.cycleBufSize.toNat),
       (3, 0x06, bit g.running 0 + bit g.setupDone 1 + bit (decide (0 < g.finalizeOwed)) 2 +
         bit g.fatal 3 + bit g.firstCallback 4),
       (3, 0x07, g.curSeg.toNat), (3, 0x08, bit g.wdRegistered 0 + bit g.wdArmed 1),
       (3, 0x09, g.expectedTs.toNat), (3, 0x0A, g.stealCount.toNat),
       (3, 0x0B, g.recoveryThreshold.toNat), (3, 0x0C, g.localSid.toNat),
       (3, 0x0D, g.bufBase.toNat), (3, 0x0E, bit g.demuxAttach 0), (3, 0x0F, bit g.urxCallback 0),
       (4, 0x00, r.dvMode.toNat), (4, 0x01, r.consumers.length % 2 ^ 8),
       (4, 0x02, index r.currentFrame), (4, 0x03, r.freeQueue.length % 2 ^ 16),
       (4, 0x04, r.frameSel.toNat),
       (4, 0x05, (match rf.state with | .free => 0 | .filling => 1 | .dispatched => 2) +
         rf.refCount % 2 ^ 8 * 2 ^ 8),
       (4, 0x06, rf.currentOffset % 2 ^ 32), (4, 0x07, rf.frameSYTTime.toNat),
       (4, 0x08, rf.frameReceivedTimeStamp.toNat),
       (5, 0x00, x.dvMode.toNat), (5, 0x01, x.blocksPerCycle.toNat), (5, 0x02, x.txFrameBase.toNat),
       (5, 0x03, index x.curFrame), (5, 0x04, x.dbc.toNat), (5, 0x05, x.txCycleCount.toNat),
       (5, 0x06, x.txClock.toNat), (5, 0x07, x.frameSel.toNat),
       (5, 0x08, bit xf.inUse 0 + xf.dclProgramRefCount % 2 ^ 16 * 2 ^ 16),
       (5, 0x09, xf.curOffset % 2 ^ 32), (5, 0x0A, xf.frameSYTTime.toNat),
       (5, 0x0B, xf.frameTransmitStartCycleTime.toNat),
       (6, 0x00, d.mode.toNat), (6, 0x01, pid d.videoPid), (6, 0x02, pid d.audioPid),
       (6, 0x03, pid d.pmtPid), (6, 0x04, d.psiTimeout.toNat), (6, 0x05, d.pktSinceCb.toNat),
       (6, 0x06, stream d.video), (6, 0x07, d.video.pesPacketPos % 2 ^ 32),
       (6, 0x08, stream d.audio), (6, 0x09, d.audio.pesPacketPos % 2 ^ 32),
       (6, 0x0A, d.pesFreeV.length % 2 ^ 32), (6, 0x0B, d.pesFreeA.length % 2 ^ 32)] →
      exec (.csrRead u i n) s = .next { s with res0 := BitVec.ofNat 32 v, status := 0x00 }) ∧
    (∀ u n : Nat,
      ¬ (u = 3 ∧ n ≤ 0x0F ∨ u = 4 ∧ n ≤ 0x08 ∨ u = 5 ∧ n ≤ 0x0B ∨ u = 6 ∧ n ≤ 0x0B) →
      exec (.csrRead u i n) s = .next { s with status := 0x06 })

/-- 47_control.md R302 and R303: a legal CSR_WRITE of a field with no side effect stores ARG0 cut to the
field's width, and nothing else. `c` is what the field asks of the value and of the engine. Where ENG_SETUP
failed with `fatal = 1` the engine is not set up, and an RWS field is written as R302 and 10_state.md R25 say,
against a clause of 70_reset_and_hazards.md R345: that R302 is followed there is log 27, DEDUCED. That bits
[14:13] of PMT_PID are dropped is the model's choice (DESIGN CHOICE, log 28). -/
def Obligations.CsrWriteStores : Prop :=
  ∀ (s : State) (i : Nat), s.idle → i < s.inst.length →
    let v := s.arg0
    let stopped := (s.eng i).running = false
    let unset := (s.eng i).setupDone = false
    ∀ (u n : Nat) (c : Prop) (t : State), (u, n, c, t) ∈
      [(3, 0x00, unset, s.modEng i (fun g => { g with kind := Kind.ofCode (v.setWidth 2) })),
       (3, 0x01, unset ∧ 2 ≤ v.toNat % 2 ^ 16,
         s.modEng i (fun g => { g with segments := v.setWidth 16 })),
       (3, 0x02, unset ∧ 1 ≤ v.toNat % 2 ^ 16,
         s.modEng i (fun g => { g with cyclesPerSeg := v.setWidth 16 })),
       (3, 0x03, unset ∧ 1 ≤ v.toNat % 2 ^ 16,
         s.modEng i (fun g => { g with minPayload := v.setWidth 16 })),
       (3, 0x04, stopped, s.modEng i (fun g => { g with channel := v.setWidth 6 })),
       (3, 0x0B, True, s.modEng i (fun g => { g with recoveryThreshold := v.setWidth 16 })),
       (3, 0x0E, stopped, s.modEng i (fun g => { g with demuxAttach := v.getLsbD 0 })),
       (3, 0x0F, True, s.modEng i (fun g => { g with urxCallback := v.getLsbD 0 })),
       (4, 0x00, stopped ∧ (s.par.dvRow (v.setWidth 8)).isSome = true,
         s.modDvr i (fun d => { d with dvMode := v.setWidth 8 })),
       (4, 0x04, v.toNat % 2 ^ 16 < (s.dvr i).frames.length,
         s.modDvr i (fun d => { d with frameSel := v.setWidth 16 })),
       (5, 0x00, stopped ∧ (s.par.dvRow (v.setWidth 8)).isSome = true,
         s.modDvt i (fun d => { d with dvMode := v.setWidth 8 })),
       (5, 0x01, stopped ∧ v.toNat % 8 ∈ [1, 2, 4],
         s.modDvt i (fun d => { d with blocksPerCycle := v.setWidth 3 })),
       (5, 0x02, stopped, s.modDvt i (fun d => { d with txFrameBase := v })),
       (5, 0x07, v.toNat % 2 ^ 16 < (s.dvt i).frames.length,
         s.modDvt i (fun d => { d with frameSel := v.setWidth 16 })),
       (6, 0x03, True, s.modTs i (fun d => { d with pmtPid := ⟨v.getLsbD 15, v.setWidth 13⟩ })),
       (6, 0x04, v ≠ 0, s.modTs i (fun d => { d with psiTimeout := v }))] →
    c → exec (.csrWrite u i n) s = .next { t with status := 0x00 }

/-- 45_ts_demux.md R290, 47_control.md R302 and R303: a write that changes VIDEO_PID or AUDIO_PID resets
that stream, one that changes `partialDemux` resets both, and writing the value a CSR holds resets
nothing. A stream reset keeps the current buffer and empties it. That bits [14:13] of a PID register are
dropped, so that a write that differs in them only changes nothing, is the model's choice (DESIGN CHOICE,
log 28). -/
def Obligations.PidWriteResetsStream : Prop :=
  ∀ (s : State) (i : Nat), s.idle → i < s.inst.length →
    let d := s.ts i
    let new : PidReg := ⟨s.arg0.getLsbD 15, s.arg0.setWidth 13⟩
    let wiped := fun x : Stream =>
      { x with foundFirst := false, streamCont := none, truncated := false, pesPacketPos := 0 }
    let emptied := fun (x : Stream) (bufs bufs' : List PesBuf) => bufs'.length = bufs.length ∧
      ∀ b, bufs'.getD b (PesBuf.reset .video) =
        if x.curBuf = some b ∧ b < bufs.length then
          { bufs.getD b (PesBuf.reset .video) with pesBufLen := 0 }
        else bufs.getD b (PesBuf.reset .video)
    (d.videoPid = new → exec (.csrWrite 6 i 1) s = .next { s with status := 0x00 }) ∧
    (d.audioPid = new → exec (.csrWrite 6 i 2) s = .next { s with status := 0x00 }) ∧
    (d.videoPid ≠ new → ∃ bufs', emptied d.video d.bufs bufs' ∧
      exec (.csrWrite 6 i 1) s = .next { s.modTs i (fun d =>
        { d with videoPid := new, video := wiped d.video, bufs := bufs' }) with status := 0x00 }) ∧
    (d.audioPid ≠ new → ∃ bufs', emptied d.audio d.bufs bufs' ∧
      exec (.csrWrite 6 i 2) s = .next { s.modTs i (fun d =>
        { d with audioPid := new, audio := wiped d.audio, bufs := bufs' }) with status := 0x00 }) ∧
    (s.arg0.getLsbD 1 = d.mode.getLsbD 1 →
      exec (.csrWrite 6 i 0) s =
        .next { s.modTs i (fun d => { d with mode := s.arg0.setWidth 4 }) with status := 0x00 }) ∧
    (s.arg0.getLsbD 1 ≠ d.mode.getLsbD 1 → ∃ bufs₁ bufs₂,
      emptied d.video d.bufs bufs₁ ∧ emptied d.audio bufs₁ bufs₂ ∧
      exec (.csrWrite 6 i 0) s = .next { s.modTs i (fun d =>
        { d with
          mode := s.arg0.setWidth 4, video := wiped d.video, audio := wiped d.audio
          bufs := bufs₂ }) with status := 0x00 })

/-- 47_control.md R302: what CSR_WRITE refuses with BadArgument, changing nothing: a read-only or
undefined CSR, an RWS field of an engine that is set up, an RWT field of a running engine, and a value outside
the field's legal set (R303). -/
def Obligations.CsrWriteRefused : Prop :=
  ∀ (s : State) (i u n : Nat), s.idle → i < s.inst.length →
    ((u, n) ∈ [(3, 0x05), (3, 0x06), (3, 0x07), (3, 0x08), (3, 0x09), (3, 0x0A), (3, 0x0C), (3, 0x0D),
        (4, 0x01), (4, 0x02), (4, 0x03), (4, 0x05), (4, 0x06), (4, 0x07), (4, 0x08),
        (5, 0x03), (5, 0x04), (5, 0x05), (5, 0x06), (5, 0x08), (5, 0x09), (5, 0x0A), (5, 0x0B),
        (6, 0x05), (6, 0x06), (6, 0x07), (6, 0x08), (6, 0x09), (6, 0x0A), (6, 0x0B)] ∨
      ¬ (u = 3 ∧ n ≤ 0x0F ∨ u = 4 ∧ n ≤ 0x08 ∨ u = 5 ∧ n ≤ 0x0B ∨ u = 6 ∧ n ≤ 0x0B) ∨
      (u, n) ∈ [(3, 0x00), (3, 0x01), (3, 0x02), (3, 0x03)] ∧
        (s.eng i).setupDone = true ∨
      (u, n) ∈ [(3, 0x04), (3, 0x0E), (4, 0x00), (5, 0x00), (5, 0x01), (5, 0x02)] ∧
        (s.eng i).running = true ∨
      (u, n) = (3, 0x01) ∧ s.arg0.toNat % 2 ^ 16 < 2 ∨
      (u, n) ∈ [(3, 0x02), (3, 0x03)] ∧ s.arg0.toNat % 2 ^ 16 = 0 ∨
      (u, n) ∈ [(4, 0x00), (5, 0x00)] ∧ s.par.dvRow (s.arg0.setWidth 8) = none ∨
      (u, n) = (4, 0x04) ∧ (s.dvr i).frames.length ≤ s.arg0.toNat % 2 ^ 16 ∨
      (u, n) = (5, 0x01) ∧ s.arg0.toNat % 8 ∉ [1, 2, 4] ∨
      (u, n) = (5, 0x07) ∧ (s.dvt i).frames.length ≤ s.arg0.toNat % 2 ^ 16 ∨
      (u, n) = (6, 0x04) ∧ s.arg0 = 0) →
    exec (.csrWrite u i n) s = .next { s with status := 0x06 }

/-- A successful CSR_WRITE of any writable CSR is read back by CSR_READ as the value written, cut to the
field's width (10_state.md R25, 47_control.md R301, R302); that the mask leaves out bits [14:13] of a PID
register is the model's choice (DESIGN CHOICE, log 28). -/
def Obligations.CsrReadsBackWrite : Prop :=
  ∀ (s t : State) (u i n : Nat), s.idle → i < s.inst.length →
    exec (.csrWrite u i n) s = .next t → t.status = 0x00 →
    ∃ c : Csr, csrAt u n = some c ∧
      exec (.csrRead u i n) t = .next { t with res0 := s.arg0 &&& c.mask, status := 0x00 }

/-! ### Unit ENG: setup, start, stop -/

/-- 42_buffer_engine.md R152: `nextPow2(m)` is the least power of two that is at least `m`; and R151:
ENG_SETUP, with each of its exits, for the allocator's answer `d1` and the Port Engine's answer `d2`. The
allocator answers `fail` or a region inside BUF, disjoint from every region handed out since reset and from
the transmit frames of every DVTX instance (20_memory.md R69, log 10). -/
def Obligations.SetupResult : Prop :=
  (∀ m : Nat, 1 ≤ m → ∃ i, nextPow2 m = 2 ^ i ∧ m ≤ 2 ^ i ∧ ∀ j, m ≤ 2 ^ j → i ≤ j) ∧
  ∀ (s : State) (e : Nat) (d1 d2 : Draw) (rest : List Draw), s.idle → e < s.inst.length →
    s.tape = d1 :: d2 :: rest →
    let g := s.eng e
    let S := g.segments.toNat
    let N := g.cyclesPerSeg.toNat
    let cbs := nextPow2 g.minPayload.toNat
    let size := (S * N + 1) * cbs
    let discarded := fun t : State => t.modEng e (fun g => { g with fatal := true })
    let s1 : State := { s with out := s.out ++ [.alloc e size], tape := d2 :: rest, drawn := s.drawn + 1 }
    let b := d1.word.toNat
    let apart := fun r : Nat × Nat => b + size ≤ r.1 ∨ r.1 + r.2 ≤ b
    let s2 : State := { s with
      out := s.out ++ [.alloc e size, .allocProgram e S N cbs], tape := rest, drawn := s.drawn + 2
      regions := s.regions ++ [(b, size)] }
    (d1.status = 0 → b + size ≤ s.par.bufBytes ∧ (∀ r ∈ s.regions, apart r) ∧
      ∀ x ∈ s.inst, x.eng.kind = .dvtx → ∀ row, s.par.dvRow x.dvt.dvMode = some row →
        apart (x.dvt.txFrameBase.toNat, s.par.fTx * row.frameSize)) →
    exec (.engSetup e) s = .next (
      if g.setupDone = true ∨ g.fatal = true then { s with status := 0x01 }
      else if S < 2 ∨ N < 1 ∨ g.minPayload.toNat < 1 then { s with status := 0x06 }
      else if 2 ^ 32 - 1 < size then { discarded s with status := 0x02 }
      else if d1.status ≠ 0 then { discarded s1 with status := 0x02 }
      else if d2.status ≠ 0 then { discarded s2 with status := 0x01 }
      else
        { s2.modEng e (fun g =>
            { g with
              jump := (List.range S).map (fun j => if j + 1 = S then .overrun else .start (j + 1))
              cycleBufSize := BitVec.ofNat 32 cbs, bufBase := d1.word, curSeg := 0
              setupDone := true }) with
          res0 := BitVec.ofNat 32 cbs, res1 := d1.word, status := 0x00 })

/-- 42_buffer_engine.md R155: ENG_START of a receive engine, when the Port Engine starts (`d2.status = 0`)
and when it refuses; `d1` answers the node id. A start time that is no legal cycle time raises
FAULT_CT_RANGE, with the Port Engine started (41_cycle_time.md R141, R146). -/
def Obligations.StartReceiveResult : Prop :=
  ∀ (s : State) (e : Nat) (d1 d2 : Draw) (rest : List Draw), s.idle → e < s.inst.length →
    s.tape = d1 :: d2 :: rest →
    (s.eng e).setupDone = true → (s.eng e).fatal = false → (s.eng e).running = false →
    (s.eng e).kind = .urx ∨
      (s.eng e).kind = .dvrx ∧ (s.par.dvRow (s.dvr e).dvMode).isSome = true →
    let S := (s.eng e).segments.toNat
    let asked : State := { s with
      out := s.out ++ [.localNodeId e, .peStart e (s.eng e).channel]
      tape := rest, drawn := s.drawn + 2 }
    let armed := fun g : Eng =>
      { g with
        jump := (List.range S).map (fun j => if j + 1 = S then .overrun else .start (j + 1))
        curSeg := 0, firstCallback := true, stealCount := 0, localSid := d1.word.setWidth 6 }
    (d2.status ≠ 0 →
      exec (.engStart e) s = .next { asked.modEng e armed with status := 0x01 }) ∧
    (d2.status = 0 → ctLegal d2.word →
      exec (.engStart e) s = .next { asked.modEng e (fun g =>
        { armed g with
          peRunning := true, peSeg := 0, startCT := d2.word
          expectedTs := ctSum d2.word (ctCycles g.cyclesPerSeg.toNat)
          running := true, wdArmed := g.wdArmed || g.wdRegistered }) with status := 0x00 }) ∧
    (d2.status = 0 → ¬ ctLegal d2.word →
      exec (.engStart e) s = .next ((asked.modEng e (fun g =>
        { armed g with peRunning := true, peSeg := 0, startCT := d2.word })).takeFault
          (.ctRange d2.word)))

/-- 42_buffer_engine.md R154, R155: ENG_START refused, with STATUS the only change. -/
def Obligations.StartRefused : Prop :=
  ∀ (s : State) (e : Nat), s.idle → e < s.inst.length →
    let g := s.eng e
    let x := s.dvt e
    ((g.setupDone = false ∨ g.fatal = true) →
      exec (.engStart e) s = .next { s with status := 0x01 }) ∧
    (g.setupDone = true → g.fatal = false → g.running = true →
      exec (.engStart e) s = .next { s with status := 0x03 }) ∧
    (g.setupDone = true → g.fatal = false → g.running = false →
      (g.kind = .dvrx ∧ s.par.dvRow (s.dvr e).dvMode = none ∨
        g.kind = .dvtx ∧ s.par.dvRow x.dvMode = none ∨
        g.kind = .dvtx ∧ (∃ row, s.par.dvRow x.dvMode = some row ∧
          ¬ (0 < row.dbs.toNat * 4 ∧ row.frameSize % (row.dbs.toNat * 4) = 0 ∧
            x.blocksPerCycle.toNat * (row.dbs.toNat * 4) ≤ row.frameSize ∧
            8 + x.blocksPerCycle.toNat * (row.dbs.toNat * 4) ≤ g.cycleBufSize.toNat ∧
            x.txFrameBase.toNat + s.par.fTx * row.frameSize ≤ s.par.bufBytes)) ∨
        g.kind = .utx ∧ g.cycleBufSize.toNat < 8) →
      exec (.engStart e) s = .next { s with status := 0x06 })

/-- 42_buffer_engine.md R155, R157: an ENG_START of any kind that passes its checks, does not halt
and is not cut short by a reset (log 22) ends in one of two ways: Success with the Port Engine and the
engine running from segment 0 of the initial ring, or Error with the engine still Stopped. And ENG_START of
a transmit engine in full, for clients that touch BUF only: the ring is armed, the transmit clock loaded
(DVTX), each cycle buffer below `S*N` produced in order by DVT_CYCLE or UTX_CYCLE, and the overrun buffer
filled; then the Port Engine starts (`d3.status = 0`), or refuses and the buffers are drained. A raise of
the producer ends it, and so does a start time that is no legal cycle time (41_cycle_time.md R141). -/
def Obligations.StartOutcome : Prop :=
  (∀ (s t : State) (e : Nat), s.idle → e < s.inst.length →
    (s.eng e).setupDone = true → (s.eng e).fatal = false → (s.eng e).running = false →
    startChecks s.par (s.instAt e) = true →
    exec (.engStart e) s = .next t → t.halted = false → t.epoch = s.epoch →
    (t.eng e).jump = ringTargets (s.eng e).segments.toNat ∧ (t.eng e).curSeg = 0 ∧
    (t.eng e).firstCallback = true ∧ (t.eng e).stealCount = 0 ∧
    (t.status = 0x00 ∧ (t.eng e).running = true ∧ (t.eng e).peRunning = true ∧
        (t.eng e).peSeg = 0 ∧
        (t.eng e).expectedTs = ctSum (t.eng e).startCT (ctCycles (s.eng e).cyclesPerSeg.toNat) ∨
      t.status = 0x01 ∧ (t.eng e).running = false)) ∧
  (∀ (s begun : State) (e : Nat) (row : DvFormat) (d1 d2 : Draw) (rest : List Draw),
    s.idle → e < s.inst.length →
    (s.eng e).setupDone = true → (s.eng e).fatal = false → (s.eng e).running = false →
    startChecks s.par (s.instAt e) = true → (∀ d ∈ s.tape, d.portOnly) →
    let S := (s.eng e).segments.toNat
    let n := (s.eng e).cycles
    let armed := fun g : Eng =>
      { g with
        jump := (List.range S).map (fun j => if j + 1 = S then .overrun else .start (j + 1))
        curSeg := 0, firstCallback := true, stealCount := 0, localSid := d1.word.setWidth 6 }
    (s.eng e).kind = .dvtx ∧ s.par.dvRow (s.dvt e).dvMode = some row ∧ s.tape = d1 :: d2 :: rest ∧
        (s.eng e).bufBase.toNat + n * (s.eng e).cycleBufSize.toNat + 8 ≤ s.par.bufBytes ∧
        begun = { (s.modEng e armed).modDvt e (fun x => { x with txClock := d2.word }) with
          out := s.out ++ [.localNodeId e, .cycleTime e], tape := rest, drawn := s.drawn + 2 } ∨
      (s.eng e).kind = .utx ∧ s.tape = d1 :: rest ∧
        begun = { s.modEng e armed with
          out := s.out ++ [.localNodeId e], tape := rest, drawn := s.drawn + 1 } →
    let full := begun.refilled e
    (full.halted = true → full.drawn ≤ s.drawn + s.tape.length → exec (.engStart e) s = .next full) ∧
    (∀ (d3 : Draw) (rest3 : List Draw), full.halted = false → full.tape = d3 :: rest3 →
      let asked : State := { full.withOverrunPacket e row with
        out := full.out ++ [.peStart e (s.eng e).channel], tape := rest3, drawn := full.drawn + 1 }
      (d3.status = 0 → ctLegal d3.word →
        exec (.engStart e) s = .next { asked.modEng e (fun g =>
          { g with
            peRunning := true, peSeg := 0, startCT := d3.word
            expectedTs := ctSum d3.word (ctCycles g.cyclesPerSeg.toNat), running := true }) with
          status := 0x00 }) ∧
      (d3.status = 0 → ¬ ctLegal d3.word →
        exec (.engStart e) s = .next ((asked.modEng e (fun g =>
          { g with peRunning := true, peSeg := 0, startCT := d3.word })).takeFault
            (.ctRange d3.word))) ∧
      (d3.status ≠ 0 → (s.eng e).kind = .utx →
        exec (.engStart e) s = .next { asked with status := 0x01 }) ∧
      (∀ ds rest4 : List Draw, d3.status ≠ 0 → (s.eng e).kind = .dvtx →
        let r := (asked.dvt e).drained (n + 1)
        asked.answers ds rest4 r.2.length →
        exec (.engStart e) s = .next
          { (asked.told (r.2.map (.frameRelease e)) rest4).modDvt e (fun _ => r.1) with
            status := 0x01 })))

/-- 42_buffer_engine.md R158, and the idempotence law that R177 infers from it: ENG_STOP of a running
engine stops the Port Engine and holds, with no status yet; of a stopped engine it answers
ExclusiveAccess and changes nothing. -/
def Obligations.StopResult : Prop :=
  ∀ (s : State) (e : Nat), s.idle → e < s.inst.length →
    ((s.eng e).running = true →
      exec (.engStop e) s = .next { s.modEng e (fun g =>
        { g with
          wdArmed := false, peRunning := false, peStops := g.peStops + 1
          finalizeOwed := g.finalizeOwed + 1, running := false, stopHold := true }) with
        out := s.out ++ [.peStop e] }) ∧
    ((s.eng e).running = false → exec (.engStop e) s = .next { s with status := 0x03 })

/-- 42_buffer_engine.md R174: ENG_SET_WATCHDOG. -/
def Obligations.SetWatchdogResult : Prop :=
  ∀ (s : State) (e : Nat), s.halted = false → e < s.inst.length →
    exec (.engSetWatchdog e) s = .next (
      if 1 < s.arg0.toNat then { s with status := 0x06 }
      else if s.arg0 = 1 then
        { s.modEng e (fun g =>
            { g with
              wdRegistered := true
              wdArmed := if g.running = true ∧ (g.kind = .dvrx ∨ g.kind = .urx) then true
                else g.wdArmed }) with status := 0x00 }
      else
        { s.modEng e (fun g => { g with wdRegistered := false, wdArmed := false }) with
          status := 0x00 })

/-! ### Unit ENG: events -/

/-- 42_buffer_engine.md R162 and R170: four events consumed while the engine is Stopped are dropped with
no effect; an EV_SEGMENT of another segment than CUR_SEG raises FAULT_SEG_ORDER. -/
def Obligations.EventsDroppedOrOutOfOrder : Prop :=
  ∀ (s : State) (e n : Nat), s.halted = false → e < s.inst.length →
    ((s.eng e).running = false →
      exec (.evSegment e n) s = .next s ∧ exec (.evOverrun e) s = .next s ∧
      exec (.evForceStop e) s = .next s ∧ exec (.evWatchdog e) s = .next s) ∧
    ((s.eng e).running = true → n ≠ (s.eng e).curSeg.toNat →
      exec (.evSegment e n) s = .next { s with
        halted := true, faults := s.faults ||| 0x04
        faultInfo := some (.segOrder n (s.eng e).curSeg.toNat) })

/-- 42_buffer_engine.md R163, R168: EV_SEGMENT of a receive engine in whose segment no cycle carries CIP
data: only the ring, CUR_SEG and firstCallback change. -/
def Obligations.EmptySegmentResult : Prop :=
  ∀ (s : State) (e : Nat), s.halted = false → e < s.inst.length →
    let g := s.eng e
    let c := g.curSeg.toNat
    let S := g.segments.toNat
    let N := g.cyclesPerSeg.toNat
    g.running = true → g.kind = .dvrx ∨ g.kind = .urx ∧ g.urxCallback = false →
    (∃ ts, sparseGet g.tsSlot c = some ts) →
    (∀ j, j < N → ∃ h, sparseGet g.slotHdr (c * N + j) = some h ∧
      dataLength h ≤ g.cycleBufSize.toNat ∧ (h.extractLsb' 14 2 ≠ 0b01#2 ∨ dataLength h ≤ 8)) →
    exec (.evSegment e c) s = .next (s.modEng e (fun g =>
      { g with
        jump := (g.jump.set c .overrun).set ((c + S - 1) % S) (.start c)
        curSeg := BitVec.ofNat 16 ((c + 1) % S), firstCallback := false }))

/-- 42_buffer_engine.md R163, R168: an EV_SEGMENT of CUR_SEG on a running engine of any kind that does
not halt, and that no reset cuts short (log 22), re-points the ring, advances CUR_SEG by one modulo S and
clears firstCallback. And EV_SEGMENT in full, for clients that touch BUF only (R161, R163, R166): each cycle
of the segment in order through DVR_CYCLE or URX_CYCLE, or produced by DVT_CYCLE or UTX_CYCLE; then the ring
moves, and a transmit engine validates its time stamp (TimestampValidation says how). A cycle whose header
was never written, or says more than a cycle buffer holds, raises FAULT_CYCLE_OVERSIZE after the cycles
before it, and a raise of one of the cycles ends the event. -/
def Obligations.SegmentAdvancesRing : Prop :=
  (∀ (s : State) (e : Nat), s.idle → e < s.inst.length → (∀ d ∈ s.tape, d.portOnly) →
    let g := s.eng e
    let c := g.curSeg.toNat
    let S := g.segments.toNat
    let N := g.cyclesPerSeg.toNat
    let moved := fun t : State => t.modEng e (fun g =>
      { g with
        jump := (g.jump.set c .overrun).set ((c + S - 1) % S) (.start c)
        curSeg := BitVec.ofNat 16 ((c + 1) % S) })
    let ended := fun t : State => t.modEng e (fun g => { g with firstCallback := false })
    let answered := fun t : State => t.drawn ≤ s.drawn + s.tape.length
    let arrived := fun (hdr : Nat → Word) (k : Nat) =>
      sparseGet g.slotHdr k = some (hdr k) ∧ dataLength (hdr k) ≤ g.cycleBufSize.toNat ∧
        g.bufBase.toNat + k * g.cycleBufSize.toNat < 2 ^ 32
    g.running = true →
    (∀ (hdr : Nat → Word) (ts : Word), g.kind = .dvrx ∨ g.kind = .urx →
      sparseGet g.tsSlot c = some ts →
      ((∀ j, j < N → arrived hdr (c * N + j)) →
        let all := s.consumed e (c * N) N hdr ts
        answered all →
        exec (.evSegment e c) s = .next (if all.halted then all else ended (moved all))) ∧
      (∀ m, m < N → (∀ j, j < m → arrived hdr (c * N + j)) →
        let some_ := s.consumed e (c * N) m hdr ts
        let k := c * N + m
        answered some_ →
        (some_.halted = true → exec (.evSegment e c) s = .next some_) ∧
        (some_.halted = false → sparseGet g.slotHdr k = none →
          exec (.evSegment e c) s = .next (some_.takeFault (.cycleOversize k none))) ∧
        (∀ h, some_.halted = false → sparseGet g.slotHdr k = some h →
          g.cycleBufSize.toNat < dataLength h →
          exec (.evSegment e c) s =
            .next (some_.takeFault (.cycleOversize k (some (dataLength h))))))) ∧
    (g.kind = .dvtx ∨ g.kind = .utx →
      let all := s.produced e (c * N) N
      answered all →
      (all.halted = true → exec (.evSegment e c) s = .next all) ∧
      (all.halted = false → ∀ t,
        (validateTimestamp e c (moved all) = .ok () t →
          exec (.evSegment e c) s = .next (ended t)) ∧
        (validateTimestamp e c (moved all) = .error .fault t →
          exec (.evSegment e c) s = .next t)))) ∧
  ∀ (s t : State) (e : Nat), s.halted = false → e < s.inst.length →
    let c := (s.eng e).curSeg.toNat
    let S := (s.eng e).segments.toNat
    (s.eng e).running = true → exec (.evSegment e c) s = .next t → t.halted = false →
    t.epoch = s.epoch →
    (t.eng e).jump = ((s.eng e).jump.set c .overrun).set ((c + S - 1) % S) (.start c) ∧
    (t.eng e).curSeg = BitVec.ofNat 16 ((c + 1) % S) ∧ (t.eng e).firstCallback = false ∧
    (t.eng e).running = true ∧ (t.eng e).segments = (s.eng e).segments ∧
    (t.eng e).events = (s.eng e).events

/-- 42_buffer_engine.md R167: the timestamp validation of a transmit segment, case by case. -/
def Obligations.TimestampValidation : Prop :=
  ∀ (s : State) (e c : Nat) (act : Word), e < s.inst.length →
    let g := s.eng e
    let exp := g.expectedTs
    let lost := (ctIdx act + 64000 - ctIdx exp) % 64000
    let next := fun t : Word => ctSum t (ctCycles g.cyclesPerSeg.toNat)
    let ambiguous := g.firstCallback = true ∧ ctCyc act = ctCyc exp ∧ ctSec act ≠ ctSec exp
    sparseGet g.tsSlot c = some act → ctLegal exp → ctLegal (s.dvt e).txClock →
    g.kind = .dvtx ∨ g.kind = .utx →
    (¬ ctLegal act → validateTimestamp e c s = .error .fault (s.takeFault (.ctRange act))) ∧
    (ctLegal act → ambiguous → validateTimestamp e c s = .ok () (s.modEng e (fun g =>
      { g with expectedTs := next (act.extractLsb' 25 7 ++ exp.extractLsb' 0 25) }))) ∧
    (ctLegal act → ¬ ambiguous → lost = 0 → validateTimestamp e c s = .ok () (s.modEng e (fun g =>
      { g with expectedTs := next exp }))) ∧
    (ctLegal act → ¬ ambiguous → 0 < lost → lost ≤ g.recoveryThreshold.toNat →
      validateTimestamp e c s = .ok () (
        if g.kind = .dvtx then
          (s.modEng e (fun g =>
            { g with
              stealCount := BitVec.ofNat 16 (min (g.stealCount.toNat + lost) 65535)
              expectedTs := next act })).modDvt e (fun d =>
                { d with txClock := ctSum d.txClock (ctCycles lost) })
        else s.modEng e (fun g => { g with expectedTs := next act }))) ∧
    (∀ (d : Draw) (rest : List Draw), s.tape = d :: rest → d.quiet →
      ctLegal act → ¬ ambiguous → g.recoveryThreshold.toNat < lost →
      validateTimestamp e c s = .ok () (
        let told : State := { s with
          out := s.out ++ [.engMsg e .timeStampAdjust (some lost)], tape := rest, drawn := s.drawn + 1 }
        if g.kind = .dvtx then
          (told.modEng e (fun g => { g with expectedTs := next act })).modDvt e (fun d =>
            { d with txClock := ctSum d.txClock (ctCycles lost) })
        else told.modEng e (fun g => { g with expectedTs := next act })))

/-- 42_buffer_engine.md R171, R172, R173: the recovery after an overrun and after a forced stop, of an
engine of any kind, when the Port Engine restarts (`d2.status = 0`) and when it refuses. A DVRX engine
abandons its frame in progress, a DVTX engine drains every cycle buffer, and both transmit kinds prefill
again as at ENG_START (R157). The clients do nothing in their callbacks, but that those of the prefill may
touch BUF; a raise of the producer ends the event, and so does a start time that is no legal cycle time
(41_cycle_time.md R141). -/
def Obligations.OverrunAndForcedStopRestart : Prop :=
  ∀ (s : State) (e : Nat) (i : Instr) (d1 : Draw) (rest : List Draw), s.halted = false →
    e < s.inst.length → s.tape = d1 :: rest → d1.quiet → (s.eng e).running = true →
    i = .evOverrun e ∨ i = .evForceStop e →
    let S := (s.eng e).segments.toNat
    let n := (s.eng e).cycles
    let rearmed := fun g : Eng =>
      { g with
        jump := (List.range S).map (fun j => if j + 1 = S then .overrun else .start (j + 1))
        curSeg := 0, firstCallback := true, stealCount := 0 }
    let opened : State :=
      if i = .evOverrun e then
        { s.modEng e (fun g => rearmed { g with
            peRunning := false, peStops := g.peStops + 1, finalizeOwed := g.finalizeOwed + 1 }) with
          out := s.out ++ [.peStop e, .engMsg e .overrun none], tape := rest, drawn := s.drawn + 1 }
      else
        { s.modEng e rearmed with
          out := s.out ++ [.engMsg e .forcedStop none], tape := rest, drawn := s.drawn + 1 }
    -- the state that asks the Port Engine to start again, its answer, and how the event ends
    let ends := fun (u : State) (d2 : Draw) (rest2 : List Draw) => u.tape = d2 :: rest2 →
      let asked := u.told [.peStart e (s.eng e).channel] rest2
      (d2.status = 0 → ctLegal d2.word → exec i s = .next (asked.modEng e (fun g =>
        { g with
          peRunning := true, peSeg := 0, startCT := d2.word
          expectedTs := ctSum d2.word (ctCycles g.cyclesPerSeg.toNat) }))) ∧
      (d2.status = 0 → ¬ ctLegal d2.word → exec i s = .next ((asked.modEng e (fun g =>
        { g with peRunning := true, peSeg := 0, startCT := d2.word })).takeFault
          (.ctRange d2.word))) ∧
      (∀ ds rest3, d2.status ≠ 0 → asked.answers ds rest3 1 →
        exec i s = .next ((asked.told [.engMsg e .autoRestartFailed none] rest3).modEng e (fun g =>
          { g with running := false, fatal := true, wdArmed := false })))
    let refills := fun (begun : State) (row : DvFormat) =>
      let full := begun.refilled e
      (∀ d ∈ s.tape, d.portOnly) → s.inCallback = 0 →
      (full.halted = true → full.drawn ≤ s.drawn + s.tape.length → exec i s = .next full) ∧
      (full.halted = false → ∀ d2 rest2, ends (full.withOverrunPacket e row) d2 rest2)
    ((s.eng e).kind = .urx → ∀ d2 rest2, ends opened d2 rest2) ∧
    ((s.eng e).kind = .dvrx → ∀ ds rest1 d2 rest2,
      opened.answers ds rest1 ((s.dvr e).abandonNotices e).length →
      ends ((opened.told ((s.dvr e).abandonNotices e) rest1).modDvr e Dvr.cleared) d2 rest2) ∧
    ((s.eng e).kind = .dvtx → ∀ (row : DvFormat) (ds rest1 : List Draw) (d3 : Draw),
      s.par.dvRow (s.dvt e).dvMode = some row →
      (s.eng e).bufBase.toNat + n * (s.eng e).cycleBufSize.toNat + 8 ≤ s.par.bufBytes →
      let r := (s.dvt e).drained (n + 1)
      opened.answers ds (d3 :: rest1) r.2.length →
      refills (((opened.told (r.2.map (.frameRelease e)) (d3 :: rest1)).told [.cycleTime e] rest1).modDvt
        e (fun _ => { r.1 with txClock := d3.word })) row) ∧
    ((s.eng e).kind = .utx → ∀ row : DvFormat, refills opened row)

/-- 42_buffer_engine.md R159: EV_FINALIZE is dropped when none is owed, only counts down when more are
owed or no STOP holds, and else tears the engine down and ends the held ENG_STOP with Success: a DVRX engine
abandons its frame in progress, a DVTX engine drains its cycle buffers and releases the frame it was
sending, and the universal kinds have nothing to tear down. The clients do nothing in their callbacks. -/
def Obligations.FinalizeResult : Prop :=
  ∀ (s : State) (e : Nat), s.halted = false → e < s.inst.length →
    let g := s.eng e
    let ended := fun t : State =>
      { t.modEng e (fun g => { g with finalizeOwed := 0, stopHold := false }) with status := 0x00 }
    (g.finalizeOwed = 0 → exec (.evFinalize e) s = .next s) ∧
    (0 < g.finalizeOwed → 1 < g.finalizeOwed ∨ g.stopHold = false →
      exec (.evFinalize e) s =
        .next (s.modEng e (fun g => { g with finalizeOwed := g.finalizeOwed - 1 }))) ∧
    (g.finalizeOwed = 1 → g.stopHold = true →
      (g.kind = .urx ∨ g.kind = .utx → exec (.evFinalize e) s = .next (ended s)) ∧
      (∀ ds rest : List Draw, g.kind = .dvrx →
        s.answers ds rest ((s.dvr e).abandonNotices e).length →
        exec (.evFinalize e) s =
          .next (ended ((s.told ((s.dvr e).abandonNotices e) rest).modDvr e Dvr.cleared))) ∧
      (∀ ds rest : List Draw, g.kind = .dvtx →
        let r := (s.dvt e).drained (g.cycles + 1)
        let gone := r.2 ++ (s.dvt e).curFrame.toList
        s.answers ds rest gone.length →
        exec (.evFinalize e) s =
          .next (ended ((s.told (gone.map (.frameRelease e)) rest).modDvt e (fun _ =>
            match (s.dvt e).curFrame with
            | some f =>
              { r.1.modFrame f (fun x => { x with inUse := false }) with curFrame := none }
            | none => r.1)))))

/-- 42_buffer_engine.md R175 and R160: EV_WATCHDOG, whose client may do anything in its callback
(60_exceptions.md R318, R319), ENG_SET_WATCHDOG among them: a registered watchdog is armed again after it. A
raise there ends the event, and a reset that falls there abandons it (70_reset_and_hazards.md R341). That the
message NoData carries no information is the model's choice (log 24). And EV_POLL_TIMEOUT, which raises
FAULT_FINALIZE_TIMEOUT while a STOP holds and is dropped otherwise. -/
def Obligations.TimerEvents : Prop :=
  ∀ (s : State) (e : Nat), s.halted = false → e < s.inst.length →
    ((s.eng e).running = false ∨ (s.eng e).wdArmed = false → exec (.evWatchdog e) s = .next s) ∧
    (∀ (d : Draw) (rest : List Draw), s.tape = d :: rest → d.quiet →
      (s.eng e).running = true → (s.eng e).wdArmed = true →
      exec (.evWatchdog e) s = .next { s with
        out := s.out ++ [.engMsg e .noData none], tape := rest, drawn := s.drawn + 1 }) ∧
    (∀ (d : Draw) (rest : List Draw), s.tape = d :: rest → d.acts = [] → d.reset = true →
      (s.eng e).running = true → (s.eng e).wdArmed = true →
      exec (.evWatchdog e) s = .next (State.resetBlock { s with
        out := s.out ++ [.engMsg e .noData none], tape := rest, drawn := s.drawn + 1 })) ∧
    (∀ (d : Draw) (rest : List Draw), s.tape = d :: rest →
      (s.eng e).running = true → (s.eng e).wdArmed = true →
      let ran := s.called (.engMsg e .noData none) d rest
      (ran.halted = true → exec (.evWatchdog e) s = .next ran) ∧
      (ran.halted = false → d.reset = true → exec (.evWatchdog e) s = .next ran.resetBlock) ∧
      (ran.halted = false → d.reset = false →
        exec (.evWatchdog e) s = .next { ran.modEng e (fun g =>
          { g with wdArmed := g.wdArmed || g.wdRegistered }) with inCallback := s.inCallback })) ∧
    -- a client that unregisters the watchdog inside the callback
    (∀ (d : Draw) (rest : List Draw), s.tape = d :: rest → d.reset = false → e ≤ 255 →
      d.acts = [.write .arg0 0, .write .cmd (encodeWord (.engSetWatchdog e))] →
      (s.eng e).running = true → (s.eng e).wdArmed = true →
      exec (.evWatchdog e) s =
        .next { s.modEng e (fun g => { g with wdRegistered := false, wdArmed := false }) with
          cmd := encodeWord (.engSetWatchdog e), arg0 := 0, status := 0x00
          out := s.out ++ [.engMsg e .noData none], tape := rest, drawn := s.drawn + 1 }) ∧
    ((s.eng e).stopHold = true → exec (.evPollTimeout e) s = .next { s with
      halted := true, faults := s.faults ||| 0x10, faultInfo := some (.finalizeTimeout e) }) ∧
    ((s.eng e).stopHold = false → exec (.evPollTimeout e) s = .next s)

/-- The ring invariant that 42_buffer_engine.md R169 infers from R153, R156 and R168, over every step. -/
def Obligations.StepKeepsRingLaw : Prop :=
  ∀ s t : State, s.every (·.eng.ringLaw) → step s = .next t → t.every (·.eng.ringLaw)

/-- A running engine is set up and not fatal, and the FINALIZE events still to come are exactly those
owed, over every step (20_memory.md R71, R74; 42_buffer_engine.md R155, R159, R172). -/
def Obligations.StepKeepsTransportLaw : Prop :=
  ∀ s t : State, s.every (·.eng.transportLaw) → step s = .next t → t.every (·.eng.transportLaw)

/-! ### Unit DVR -/

/-- 43_dv_receive.md R202: a cycle that is not CIP, or of at most 8 bytes, changes nothing (STATUS is the
command's own completion); and the other cycles of R203 that change no record: DVMODE without a format
row, a payload outside BUF, and a cycle without start marker while no frame is in progress. -/
def Obligations.CycleIgnored : Prop :=
  ∀ (s : State) (e : Nat), s.idle → e < s.inst.length →
    let d := s.dvr e
    let len := s.arg0.toNat / 2 ^ 16
    let pa := s.arg1.toNat
    let isCip := s.arg0.extractLsb' 14 2 = 0b01#2
    let known := ∃ row, s.par.dvRow d.dvMode = some row
    (s.par.dvRow d.dvMode = none → exec (.dvrCycle e) s = .next { s with status := 0x06 }) ∧
    (known → ¬ isCip ∨ len ≤ 8 → exec (.dvrCycle e) s = .next { s with status := 0x00 }) ∧
    (known → isCip → 8 < len → s.par.bufBytes < pa + len →
      exec (.dvrCycle e) s = .next (s.takeFault (.badAddress pa len))) ∧
    (known → isCip → 8 < len → pa + len ≤ s.par.bufBytes → d.currentFrame = none →
      ¬ (10 ≤ len ∧ (s.readByte (pa + 8) ++ s.readByte (pa + 9)) &&& 0xE0FC#16 = 0x0004#16) →
      exec (.dvrCycle e) s = .next { s with status := 0x00 })

/-- 43_dv_receive.md R203, R206, R208, R209: a valid cycle whose blocks do not complete the frame in
progress, and a valid start-marked cycle that starts one, copy the cycle's blocks behind one another. A
frame in progress when the start marker comes is abandoned first, and every consumer is told FrameCorrupted;
it goes to the tail of the free queue, which therefore is not empty then. The frame keeps the length it was
started with (47_control.md R303). The consumers do nothing in their callbacks. -/
def Obligations.CycleFillsFrame : Prop :=
  ∀ (s : State) (e f : Nat) (row : DvFormat), s.idle → e < s.inst.length →
    let d := s.dvr e
    let len := s.arg0.toNat / 2 ^ 16
    let pa := s.arg1.toNat
    let h := cipHeader (s.readBytes pa len)
    let blocks := s.readBytes (pa + 8) (len - 8)
    let starts := 10 ≤ len ∧
      (s.readByte (pa + 8) ++ s.readByte (pa + 9)) &&& 0xE0FC#16 = 0x0004#16
    s.par.dvRow d.dvMode = some row → s.arg0.extractLsb' 14 2 = 0b01#2 → 8 < len →
    pa + len ≤ s.par.bufBytes → f < d.frames.length →
    h.dbs = row.dbs → 0 < row.dbs.toNat → (len - 8) % (row.dbs.toNat * 4) = 0 →
    (d.currentFrame = some f → ¬ starts →
      (d.frame f).currentOffset + (len - 8) < (d.frame f).frameLen →
      exec (.dvrCycle e) s = .next { s.modDvr e (fun d => d.modFrame f (fun r =>
        { r with
          data := sparseSetRun r.data r.currentOffset blocks
          currentOffset := r.currentOffset + (len - 8) })) with status := 0x00 }) ∧
    (∀ (q : List Nat) (ds rest : List Draw), starts → d.cleared.freeQueue = f :: q →
      h.fdf = row.mode.setWidth 24 → len - 8 < row.frameSize →
      s.answers ds rest (d.abandonNotices e).length →
      exec (.dvrCycle e) s = .next { (s.told (d.abandonNotices e) rest).modDvr e (fun d =>
        { d.cleared.modFrame f (fun r =>
            { r with
              state := .filling, currentOffset := len - 8, frameLen := row.frameSize, refCount := 0
              frameSYTTime := h.syt, frameReceivedTimeStamp := s.arg2
              data := sparseSetRun r.data 0 blocks }) with
          freeQueue := q, currentFrame := some f }) with status := 0x00 })

/-- 43_dv_receive.md R203, R208, R210: a valid cycle that completes the frame `f`, in progress or just
started by the cycle itself, dispatches it to every consumer in registration order. `kept` consumers answer
Success and hold it; when none does, the frame goes to the tail of the free queue. Where blocks are left the
cycle goes on: into the next frame of the free queue, with the cycle's own SYT and time stamp, or, with no
frame free, the rest is dropped and every consumer is told so. The consumers do nothing in their callbacks;
but a lone consumer may give the frame back by DVR_RELEASE inside its callback (60_exceptions.md R319), and
the frame then goes Free when the dispatch ends. -/
def Obligations.CycleDispatchesFrame : Prop :=
  ∀ (s : State) (e f : Nat) (row : DvFormat) (before : List Out) (d1 : Dvr)
    (ds answers rest : List Draw), s.idle → e < s.inst.length →
    let d := s.dvr e
    let len := s.arg0.toNat / 2 ^ 16
    let pa := s.arg1.toNat
    let h := cipHeader (s.readBytes pa len)
    let blocks := s.readBytes (pa + 8) (len - 8)
    let starts := 10 ≤ len ∧
      (s.readByte (pa + 8) ++ s.readByte (pa + 9)) &&& 0xE0FC#16 = 0x0004#16
    let left := (d1.frame f).frameLen - (d1.frame f).currentOffset
    let kept := (answers.filter (fun a => a.status == 0)).length
    let outs := before ++ d.consumers.map (fun c => Out.consumer e c .frameReceived (some f))
    let d2 : Dvr :=
      { d1.modFrame f (fun r =>
          { r with
            state := if kept = 0 then .free else .dispatched
            refCount := kept, dispatching := false, currentOffset := r.frameLen
            data := sparseSetRun r.data r.currentOffset (blocks.take left) }) with
        currentFrame := none
        freeQueue := if kept = 0 then d1.freeQueue ++ [f] else d1.freeQueue }
    s.par.dvRow d.dvMode = some row → s.arg0.extractLsb' 14 2 = 0b01#2 → 8 < len →
    pa + len ≤ s.par.bufBytes → f < d.frames.length →
    h.dbs = row.dbs → 0 < row.dbs.toNat → (len - 8) % (row.dbs.toNat * 4) = 0 →
    ¬ starts ∧ d.currentFrame = some f ∧ before = [] ∧ d1 = d ∨
      starts ∧ h.fdf = row.mode.setWidth 24 ∧ before = d.abandonNotices e ∧
        (∃ q, d.cleared.freeQueue = f :: q ∧
          d1 = d.cleared.started f q row.frameSize h.syt s.arg2) →
    0 < left → left ≤ len - 8 → left % (row.dbs.toNat * 4) = 0 →
    (ds.length = before.length → answers.length = d.consumers.length →
      s.answers (ds ++ answers) rest outs.length →
      (left = len - 8 →
        exec (.dvrCycle e) s =
          .next { (s.told outs rest).modDvr e (fun _ => d2) with status := 0x00 }) ∧
      (∀ (g : Nat) (q : List Nat), left < len - 8 → d2.freeQueue = g :: q → g < d.frames.length →
        len - 8 - left < row.frameSize →
        exec (.dvrCycle e) s = .next { (s.told outs rest).modDvr e (fun _ =>
          { d2.modFrame g (fun r =>
              { r with
                state := .filling, currentOffset := len - 8 - left, frameLen := row.frameSize
                refCount := 0, frameSYTTime := h.syt, frameReceivedTimeStamp := s.arg2
                data := sparseSetRun r.data 0 (blocks.drop left) }) with
            freeQueue := q, currentFrame := some g }) with status := 0x00 }) ∧
      (∀ es rest2 : List Draw, left < len - 8 → d2.freeQueue = [] →
        (s.told outs rest).answers es rest2 d.consumers.length →
        exec (.dvrCycle e) s = .next
          { ((s.told outs rest).told (d.notices e .frameDropped) rest2).modDvr e (fun _ => d2) with
            status := 0x00 })) ∧
    (∀ (c : Draw) (id : Word), left = len - 8 → d.consumers = [id] → before = [] → e ≤ 255 →
      f < 2 ^ 32 → s.tape = { c with acts :=
        [.write .arg0 (BitVec.ofNat 32 f), .write .cmd (encodeWord (.dvrRelease e))] } :: rest →
      c.reset = false →
      exec (.dvrCycle e) s = .next { (s.told outs rest).modDvr e (fun _ =>
        { d1.modFrame f (fun r =>
            { r with
              state := .free, refCount := 0, dispatching := false, currentOffset := r.frameLen
              data := sparseSetRun r.data r.currentOffset (blocks.take left) }) with
          currentFrame := none, freeQueue := d1.freeQueue ++ [f] }) with
        arg0 := BitVec.ofNat 32 f, cmd := encodeWord (.dvrRelease e), status := 0x00 })

/-- 43_dv_receive.md R205, R206, R207, R209, R214: what every consumer is told, in registration order and
with no frame: FrameCorrupted when the blocks of a cycle are invalid (the frame in progress, which a
start-marked cycle has just started, goes to the tail of the free queue), WrongMode when a start-marked
cycle is of another mode, FrameDropped when no frame is free. A start marker abandons a frame in progress
first, with a FrameCorrupted of its own. The consumers do nothing in their callbacks. -/
def Obligations.CycleNotices : Prop :=
  ∀ (s : State) (e : Nat) (row : DvFormat) (ds rest : List Draw), s.idle → e < s.inst.length →
    let d := s.dvr e
    let len := s.arg0.toNat / 2 ^ 16
    let pa := s.arg1.toNat
    let h := cipHeader (s.readBytes pa len)
    let starts := 10 ≤ len ∧
      (s.readByte (pa + 8) ++ s.readByte (pa + 9)) &&& 0xE0FC#16 = 0x0004#16
    let valid := h.dbs = row.dbs ∧ 0 < row.dbs.toNat ∧ (len - 8) % (row.dbs.toNat * 4) = 0
    let ends := fun (outs : List Out) (y : Dvr) => s.answers ds rest outs.length →
      exec (.dvrCycle e) s = .next { (s.told outs rest).modDvr e (fun _ => y) with status := 0x00 }
    s.par.dvRow d.dvMode = some row → s.arg0.extractLsb' 14 2 = 0b01#2 → 8 < len →
    pa + len ≤ s.par.bufBytes →
    (∀ f, d.currentFrame = some f → ¬ starts → ¬ valid →
      ends (d.notices e .frameCorrupted)
        { d.modFrame f (fun r => { r with state := .free, refCount := 0 }) with
          freeQueue := d.freeQueue ++ [f], currentFrame := none }) ∧
    (starts → h.fdf ≠ row.mode.setWidth 24 →
      ends (d.abandonNotices e ++ d.notices e .wrongMode) d.cleared) ∧
    (∀ f q, starts → h.fdf = row.mode.setWidth 24 → d.cleared.freeQueue = f :: q →
      f < d.frames.length → ¬ valid →
      ends (d.abandonNotices e ++ d.notices e .frameCorrupted)
        { d.cleared.modFrame f (fun r =>
            { r with
              state := .free, currentOffset := 0, frameLen := row.frameSize, refCount := 0
              frameSYTTime := h.syt, frameReceivedTimeStamp := s.arg2 }) with
          freeQueue := q ++ [f], currentFrame := none }) ∧
    (starts → h.fdf = row.mode.setWidth 24 → d.cleared.freeQueue = [] →
      ends (d.notices e .frameDropped) d)

/-- 43_dv_receive.md R211: DVR_RELEASE. The frame store of an instance holds its F_RX records. -/
def Obligations.DvrReleaseResult : Prop :=
  ∀ (s : State) (e : Nat), s.halted = false → e < s.inst.length →
    let d := s.dvr e
    let f := s.arg0.toNat
    exec (.dvrRelease e) s = .next (
      if d.frames.length ≤ f ∨ (d.frame f).state ≠ .dispatched ∨ (d.frame f).refCount = 0 then
        { s with status := 0x06 }
      else if (d.frame f).refCount = 1 ∧ (d.frame f).dispatching = false then
        { s.modDvr e (fun d =>
            { d.modFrame f (fun r => { r with state := .free, refCount := 0 }) with
              freeQueue := d.freeQueue ++ [f] }) with status := 0x00 }
      else
        { s.modDvr e (fun d => d.modFrame f (fun r => { r with refCount := r.refCount - 1 })) with
          status := 0x00 })

/-- 43_dv_receive.md R213: DVR_REGISTER. -/
def Obligations.DvrRegisterResult : Prop :=
  ∀ (s : State) (e : Nat), s.idle → e < s.inst.length →
    let d := s.dvr e
    exec (.dvrRegister e) s = .next (
      if s.arg0 ∈ d.consumers then { s with status := 0x06 }
      else if d.consumers.length = 255 then { s with status := 0x05 }
      else
        { s.modDvr e (fun d => { d with consumers := d.consumers ++ [s.arg0] }) with
          res0 := BitVec.ofNat 32 (d.consumers.length + 1), status := 0x00 })

/-- The free-queue law that 10_state.md R31 and 43_dv_receive.md R212 infer from R206, R209, R210 and
R211, over every step. -/
def Obligations.StepKeepsFrameLaw : Prop :=
  ∀ s t : State, s.every (·.dvr.law) → step s = .next t → t.every (·.dvr.law)

/-! ### Unit DVT -/

/-- 44_dv_transmit.md R242 to R245, R247, R249: what DVT_CYCLE refuses, and the packet of a cycle that
carries no data: the 8 bytes of its CIP header, with the current DBC and SYT 0xFFFF. The frames the buffer
referred to lose that reference first, and each that loses its last one, and is not being sent, is released
to the client, who does nothing in its callbacks. A cycle buffer that leaves BUF raises FAULT_BAD_ADDRESS with
nothing written, and a TX_CLOCK that is no legal cycle time raises FAULT_CT_RANGE after all else is done
(20_memory.md R62; 41_cycle_time.md R141, R146). -/
def Obligations.ProducesCipOnly : Prop :=
  ∀ (s : State) (e : Nat), s.idle → e < s.inst.length →
    let g := s.eng e
    let x := s.dvt e
    let k := s.arg0.toNat
    let a := g.bufBase.toNat + k * g.cycleBufSize.toNat
    let accepted := g.setupDone = true ∧ g.kind = .dvtx ∧ k < g.segments.toNat * g.cyclesPerSeg.toNat
    let r := Dvt.releaseSlot (x, []) k
    (¬ accepted ∨ s.par.dvRow x.dvMode = none →
      exec (.dvtCycle e) s = .next { s with status := 0x06 }) ∧
    (∀ (row : DvFormat) (ds rest : List Draw), accepted → s.par.dvRow x.dvMode = some row →
      s.answers ds rest r.2.length →
      s.par.dataCycle x.txCycleCount.toNat = false → g.stealCount = 0 →
      let freed := s.told (r.2.map (.frameRelease e)) rest
      let built := fun y : Dvt => (freed.writeBytes a [g.localSid.setWidth 8, row.dbs,
          row.fn ++ 0#6, x.dbc, 0x80, row.mode, 0xFF, 0xFF]).modEng e (fun g =>
            { g with
              slotHdr := sparseSet g.slotHdr k
                (0x0008#16 ++ 0b01#2 ++ g.channel ++ 0xA#4 ++ 0x0#4) }) |>.modDvt e (fun _ =>
            { y with txCycleCount := x.txCycleCount + 1 })
      (a + 8 ≤ s.par.bufBytes → ctLegal x.txClock →
        exec (.dvtCycle e) s = .next
          { built { r.1 with txClock := ctSum x.txClock (ctCycles 1) } with
            res0 := 8, status := 0x00 }) ∧
      (a + 8 ≤ s.par.bufBytes → ¬ ctLegal x.txClock →
        exec (.dvtCycle e) s = .next ((built r.1).takeFault (.ctRange x.txClock))) ∧
      (s.par.bufBytes < a + 8 →
        exec (.dvtCycle e) s =
          .next ((freed.modDvt e (fun _ => r.1)).takeFault (.badAddress a 8))))

/-- 44_dv_transmit.md R242 to R249, with `B` = BLOCKS_PER_CYCLE blocks in a cycle: the packet of a data
cycle or a stolen one, when the frame `f` in progress fills it, when `f` is pulled from the client and fills
it (its SYT goes with its first block), when the first pull fails (a CIP-only packet; a stolen cycle keeps
its count), and when `f` ends inside the cycle, `m` blocks into it, and the next frame `j` is pulled (no SYT
in mid packet) or is not (a short packet). The buffer's old references are dropped first, as in a CIP-only
cycle. Where more than one block is copied, the frames lie outside the cycle buffer. A TX_CLOCK that is no
legal cycle time raises FAULT_CT_RANGE after all else is done (41_cycle_time.md R141), and a block of the
frame or of the cycle buffer that leaves BUF raises FAULT_BAD_ADDRESS after the blocks before it
(20_memory.md R62). The client does nothing in its callbacks. -/
def Obligations.ProducesBlocks : Prop :=
  ∀ (s : State) (e f : Nat) (row : DvFormat) (ds rest : List Draw), s.idle → e < s.inst.length →
    let g := s.eng e
    let x := s.dvt e
    let k := s.arg0.toNat
    let a := g.bufBase.toNat + k * g.cycleBufSize.toNat
    let blk := row.dbs.toNat * 4
    let B := x.blocksPerCycle.toNat
    let onData := s.par.dataCycle x.txCycleCount.toNat = true
    let y := (Dvt.releaseSlot (x, []) k).1
    let freed := (Dvt.releaseSlot (x, []) k).2.map (Out.frameRelease e)
    let syt := s.par.sytOf x.txClock row.startingSYTOffset
    let first := fun f : Nat => x.txFrameBase.toNat + f * row.frameSize
    let apart := fun p n : Nat => p + n ≤ a + 8 ∨ a + 8 + B * blk ≤ p
    -- `n` blocks of the frame `f` have gone into the buffer
    let copied := fun (y : Dvt) (f n : Nat) =>
      { y.modFrame f (fun r =>
          { r with
            curOffset := r.curOffset + n * blk, dclProgramRefCount := r.dclProgramRefCount + 1 }) with
        slotRefs := sparseSet y.slotRefs k (insertIndex f (y.refs k))
        curFrame := if (y.frame f).curOffset + n * blk = row.frameSize then none else some f }
    let pulled := fun (y : Dvt) (f : Nat) =>
      { y.modFrame f (fun _ =>
          { inUse := true, curOffset := 0, dclProgramRefCount := 0, frameSYTTime := syt
            frameTransmitStartCycleTime := x.txClock }) with curFrame := some f }
    -- the `n` blocks `bytes` have been copied, after the calls `outs`
    let filled := fun (n : Nat) (bytes : List Byte) (outs : List Out) =>
      if n = 0 then s.told outs rest else (s.told outs rest).writeBytes (a + 8) bytes
    -- the packet of the `n` blocks `bytes`, with the SYT `w`
    let packet := fun (n : Nat) (bytes : List Byte) (w : Half) (outs : List Out) (y : Dvt) =>
      let built := fun clock : Word => (((filled n bytes outs).writeBytes a
            [g.localSid.setWidth 8, row.dbs, row.fn ++ 0#6, x.dbc, 0x80, row.mode,
              w.extractLsb' 8 8, w.extractLsb' 0 8]).modEng e (fun g =>
          { g with
            slotHdr := sparseSet g.slotHdr k
              (BitVec.ofNat 16 (8 + n * blk) ++ 0b01#2 ++ g.channel ++ 0xA#4 ++ 0x0#4)
            stealCount := if onData ∨ n = 0 then g.stealCount else g.stealCount - 1 })).modDvt e
          (fun _ =>
            { y with
              dbc := x.dbc + BitVec.ofNat 8 n, txCycleCount := x.txCycleCount + 1
              txClock := clock })
      if ctLegal x.txClock then
        { built (ctSum x.txClock (ctCycles 1)) with
          res0 := BitVec.ofNat 32 (8 + n * blk), status := 0x00 }
      else (built x.txClock).takeFault (.ctRange x.txClock)
    g.setupDone = true → g.kind = .dvtx → k < g.segments.toNat * g.cyclesPerSeg.toNat →
    s.par.dvRow x.dvMode = some row → 1 ≤ B → (1 < B → 0 < row.dbs.toNat) →
    onData ∨ 0 < g.stealCount.toNat →
    (a + 8 + B * blk ≤ s.par.bufBytes →
      (let p := first f + (x.frame f).curOffset
       f < x.frames.length → x.curFrame = some f → p + B * blk ≤ s.par.bufBytes →
        (1 < B → apart p (B * blk) ∧ (x.frame f).curOffset + B * blk ≤ row.frameSize) →
        s.answers ds rest freed.length →
        exec (.dvtCycle e) s = .next (packet B (s.readBytes p (B * blk)) 0xFFFF freed (copied y f B))) ∧
      (∀ d : Draw, f < x.frames.length → x.curFrame = none → s.answers ds (d :: rest) freed.length →
        d.quiet → d.status = 0 → d.word.toNat = f → (y.frame f).inUse = false →
        first f + B * blk ≤ s.par.bufBytes →
        (1 < B → apart (first f) (B * blk) ∧ B * blk ≤ row.frameSize) →
        exec (.dvtCycle e) s = .next (packet B (s.readBytes (first f) (B * blk)) syt
          (freed ++ [.framePull e]) (copied (pulled y f) f B))) ∧
      (∀ d : Draw, x.curFrame = none → s.answers ds (d :: rest) freed.length → d.quiet →
        d.status ≠ 0 ∨ x.frames.length ≤ d.word.toNat ∨ (y.frame d.word.toNat).inUse = true →
        exec (.dvtCycle e) s = .next (packet 0 [] 0xFFFF (freed ++ [.framePull e]) y)) ∧
      (∀ (m j : Nat) (d : Draw), f < x.frames.length → x.curFrame = some f → 0 < m → m < B →
        (x.frame f).curOffset + m * blk = row.frameSize →
        let p := first f + (x.frame f).curOffset
        let n := B - m
        p + m * blk ≤ s.par.bufBytes → apart p (m * blk) →
        s.answers ds (d :: rest) freed.length → d.quiet → d.word.toNat = j →
        (d.status = 0 → j < x.frames.length → j ≠ f → (y.frame j).inUse = false →
          n * blk ≤ row.frameSize → first j + n * blk ≤ s.par.bufBytes → apart (first j) (n * blk) →
          exec (.dvtCycle e) s = .next (packet B
            (s.readBytes p (m * blk) ++ s.readBytes (first j) (n * blk)) 0xFFFF
            (freed ++ [.framePull e]) (copied (pulled (copied y f m) j) j n))) ∧
        (d.status ≠ 0 ∨ x.frames.length ≤ j ∨ (y.frame j).inUse = true →
          exec (.dvtCycle e) s = .next (packet m (s.readBytes p (m * blk)) 0xFFFF
            (freed ++ [.framePull e]) (copied y f m))))) ∧
    (∀ d : Draw, x.curFrame = none → s.answers ds (d :: rest) freed.length → d.quiet →
      d.status ≠ 0 ∨ x.frames.length ≤ d.word.toNat ∨ (y.frame d.word.toNat).inUse = true →
      s.par.bufBytes < a + 8 →
      exec (.dvtCycle e) s = .next (((s.told (freed ++ [.framePull e]) rest).modDvt e (fun _ =>
        y)).takeFault (.badAddress a 8))) ∧
    -- `m` blocks of the frame `f`, in progress or just pulled, have been copied when the next one leaves BUF
    (∀ (m : Nat) (outs : List Out) (z : Dvt), f < x.frames.length → m < B →
      x.curFrame = some f ∧ s.answers ds rest freed.length ∧ outs = freed ∧ z = y ∨
        x.curFrame = none ∧ outs = freed ++ [.framePull e] ∧ z = pulled y f ∧
          (∃ d : Draw, s.answers ds (d :: rest) freed.length ∧ d.quiet ∧ d.status = 0 ∧
            d.word.toNat = f ∧ (y.frame f).inUse = false) →
      let p := first f + (z.frame f).curOffset
      let next := p + m * blk
      (0 < m → p + m * blk ≤ s.par.bufBytes ∧ a + 8 + m * blk ≤ s.par.bufBytes ∧
        (z.frame f).curOffset + m * blk < row.frameSize) →
      (1 < m → apart p (m * blk)) →
      let stopped := (filled m (s.readBytes p (m * blk)) outs).modDvt e (fun _ =>
        if m = 0 then z else copied z f m)
      (s.par.bufBytes < next + blk →
        exec (.dvtCycle e) s = .next (stopped.takeFault (.badAddress next blk))) ∧
      (next + blk ≤ s.par.bufBytes → s.par.bufBytes < a + 8 + m * blk + blk →
        exec (.dvtCycle e) s = .next (stopped.takeFault (.badAddress (a + 8 + m * blk) blk))))

/-! ### Unit TS -/

/-- 45_ts_demux.md R271, R273, R284 to R286, R290: TS_PACKET of a packet outside BUF, with a bad sync byte,
of a PID that no class selects (it only counts toward the PSI watchdog), of a PSI packet for the PSI decoder,
whose answer may change the PIDs and so restart a stream, and for the raw client after it, of an HDV packet,
and the PSI watchdog that forgets every PID and restarts both streams; a current buffer is kept and emptied.
The clients do nothing in their callbacks. -/
def Obligations.PacketOutsideStreams : Prop :=
  ∀ (s : State) (e : Nat), s.idle → e < s.inst.length →
    let d := s.ts e
    let a := s.arg0.toNat
    let packet := s.readBytes a 188
    let pid := s.packetPid
    let count := min (d.pktSinceCb.toNat + 1) (2 ^ 32 - 1)
    let selected := (d.videoPid.valid = true ∧ pid = d.videoPid.pid) ∨
      (d.audioPid.valid = true ∧ pid = d.audioPid.pid)
    let psi := pid = 0 ∨ (d.pmtPid.valid = true ∧ pid = d.pmtPid.pid)
    let auto := d.mode.getLsbD 0
    let counted := fun d : Ts => { d with pktSinceCb := BitVec.ofNat 32 count }
    -- after the calls `outs` and the changes `x` of the records, the PSI watchdog ends the packet
    let ends := fun (outs : List Out) (x : Ts → Ts) =>
      (∀ ds rest : List Draw, auto = true → d.psiTimeout.toNat < count →
        s.answers ds rest (outs.length + 1) →
        exec (.tsPacket e) s =
          .next { (s.told (outs ++ [.pes e .rescanningForPsi none]) rest).modTs e (fun d =>
            (x (counted d)).rescanned) with status := 0x00 }) ∧
      (∀ ds rest : List Draw, (auto = true → count ≤ d.psiTimeout.toNat) →
        s.answers ds rest outs.length →
        exec (.tsPacket e) s =
          .next { (s.told outs rest).modTs e (fun d => x (counted d)) with status := 0x00 })
    (s.par.bufBytes < a + 188 →
      exec (.tsPacket e) s = .next (s.takeFault (.badAddress a 188))) ∧
    (a + 188 ≤ s.par.bufBytes → s.readByte a ≠ 0x47 →
      exec (.tsPacket e) s = .next { s with status := 0x06 }) ∧
    (a + 188 ≤ s.par.bufBytes → s.readByte a = 0x47 → ¬ selected →
      (¬ psi → (pid ∈ s.par.hdvPids → d.mode.getLsbD 3 = false) → ends [] id) ∧
      (¬ psi → pid ∈ s.par.hdvPids → d.mode.getLsbD 3 = true → ends [.hdvTable e packet] id) ∧
      (psi → auto = false →
        ends (if d.mode.getLsbD 2 then [.psiRaw e packet] else []) id) ∧
      (∀ c : Draw, psi → auto = true → s.tape.head? = some c →
        ends (.psiDecoder e packet :: (if d.mode.getLsbD 2 then [.psiRaw e packet] else []))
          (fun d => d.answered c)))

/-- 45_ts_demux.md R274, R275, R278, R281, R288: a packet without start indicator, in order, with `n` bytes
of payload: dropped before the first start; else appended to the PES in progress, cut to the cap in partial
demux, or, when it would exceed the buffer, the PES before it is delivered. A packet without adaptation field
and payload is discarded, its continuity counter with it, and one without payload moves the counter only. The
PSI watchdog ends each (R284). The clients do nothing in their callbacks. -/
def Obligations.PacketAccumulates : Prop :=
  ∀ (s : State) (e b : Nat) (y : StreamType), s.idle → e < s.inst.length → s.packetOn e y →
    let d := s.ts e
    let x := d.stream y
    let afc := (s.readByte (s.arg0.toNat + 3)).extractLsb' 4 2
    let cc := (s.readByte (s.arg0.toNat + 3)).extractLsb' 0 4
    let afl := if afc.getLsbD 1 then 1 + (s.readByte (s.arg0.toNat + 4)).toNat else 0
    let n := 184 - afl
    let payload := s.readBytes (s.arg0.toNat + 4 + afl) n
    let have_ := (d.buf b).pesBufLen
    let cap := if d.mode.getLsbD 1 then s.par.partialCap else
      match y with | .video => s.par.pesCapV | .audio => s.par.pesCapA
    let count := min (d.pktSinceCb.toNat + 1) (2 ^ 32 - 1)
    let counted := fun d : Ts => { d with pktSinceCb := BitVec.ofNat 32 count }
    -- after the changes `x` of the records the PSI watchdog ends the packet
    let ends := fun x : Ts → Ts =>
      (∀ (c : Draw) (rest : List Draw), d.mode.getLsbD 0 = true → d.psiTimeout.toNat < count →
        s.tape = c :: rest → c.quiet →
        exec (.tsPacket e) s =
          .next { (s.told [.pes e .rescanningForPsi none] rest).modTs e (fun d =>
            (x (counted d)).rescanned) with status := 0x00 }) ∧
      ((d.mode.getLsbD 0 = true → count ≤ d.psiTimeout.toNat) →
        exec (.tsPacket e) s = .next { s.modTs e (fun d => x (counted d)) with status := 0x00 })
    (s.readByte (s.arg0.toNat + 1)).getLsbD 7 = false →
    (afc = 0 → ends id) ∧
    ((s.readByte (s.arg0.toNat + 1)).getLsbD 6 = false → afc ≠ 0 → afl ≤ 184 →
      (∀ last, x.streamCont = some last → cc = if afc.getLsbD 0 then last + 1 else last) →
      (x.foundFirst = false ∨ afc.getLsbD 0 = false ∨ afl = 184 →
        ends (fun d => d.modStream y (fun x => { x with streamCont := some cc }))) ∧
      (x.foundFirst = true → afc.getLsbD 0 = true → afl < 184 → x.curBuf = some b →
        b < d.bufs.length →
        (have_ + n ≤ cap →
          ends (fun d =>
            (d.modBuf b (fun r =>
              { r with
                data := sparseSetRun r.data r.pesBufLen payload
                pesBufLen := r.pesBufLen + n })).modStream y (fun x =>
              { x with streamCont := some cc, pesPacketPos := have_ + n }))) ∧
        (cap < have_ + n → have_ ≤ cap → d.mode.getLsbD 1 = true →
          ends (fun d =>
            (d.modBuf b (fun r =>
              { r with
                data := sparseSetRun r.data r.pesBufLen (payload.take (cap - have_))
                pesBufLen := cap })).modStream y (fun x =>
              { x with streamCont := some cc, truncated := true, pesPacketPos := cap }))) ∧
        (∀ (c : Draw) (rest : List Draw), cap < have_ + n → d.mode.getLsbD 1 = false →
          s.tape = c :: rest → c.quiet →
          exec (.tsPacket e) s =
            .next { (s.told [.pes e .pesLargerThanAllocatedBuffer (some b)] rest).modTs e (fun d =>
              (({ d with pktSinceCb := 0 } : Ts).modBuf b (fun r =>
                { r with state := .delivered, pesTruncated := x.truncated })).modStream y (fun x =>
                { x with
                  curBuf := none, foundFirst := false, streamCont := some cc
                  pesPacketPos := 0 })) with status := 0x00 })))

/-- 45_ts_demux.md R278 to R280, R282, R283: a packet with start indicator, whose `n` bytes of payload fit
the buffer, starts a PES: in the current buffer if that is empty, else in the head of the free queue, or in a
fresh buffer when the queue is empty. A PES accumulated before it is delivered; a continuity gap discards it
and is reported as Discontinuity. The PSI watchdog ends a packet that makes no callback (R284). The clients do
nothing in their callbacks. -/
def Obligations.PacketStartsPes : Prop :=
  ∀ (s : State) (e : Nat) (y : StreamType), s.idle → e < s.inst.length → s.packetOn e y →
    let d := s.ts e
    let x := d.stream y
    let afc := (s.readByte (s.arg0.toNat + 3)).extractLsb' 4 2
    let cc := (s.readByte (s.arg0.toNat + 3)).extractLsb' 0 4
    let afl := if afc.getLsbD 1 then 1 + (s.readByte (s.arg0.toNat + 4)).toNat else 0
    let n := if afc.getLsbD 0 then 184 - afl else 0
    let payload := s.readBytes (s.arg0.toNat + 4 + afl) n
    let cap := if d.mode.getLsbD 1 then s.par.partialCap else
      match y with | .video => s.par.pesCapV | .audio => s.par.pesCapA
    let count := min (d.pktSinceCb.toNat + 1) (2 ^ 32 - 1)
    let counted := fun d : Ts => { d with pktSinceCb := BitVec.ofNat 32 count }
    let inOrder := ∀ last, x.streamCont = some last → cc = if afc.getLsbD 0 then last + 1 else last
    -- the PES starts in the current buffer `b`, in the buffer `b` taken from the queue, in a fresh one
    let opened := fun (b : Nat) (x : Stream) =>
      { x with
        curBuf := some b, foundFirst := true, truncated := false, streamCont := some cc
        pesPacketPos := n }
    let kept := fun (b : Nat) (d : Ts) =>
      (d.modBuf b (fun r =>
        { r with
          startTSPacketTimeStamp := s.arg1
          data := sparseSetRun r.data 0 payload, pesBufLen := n })).modStream y (opened b)
    let taken := fun (b : Nat) (q : List Nat) (d : Ts) =>
      ((d.setPesFree y q).modBuf b (fun r =>
        { r with
          state := .filling, pesTruncated := false, startTSPacketTimeStamp := s.arg1
          data := sparseSetRun r.data 0 payload, pesBufLen := n })).modStream y (opened b)
    let fresh := fun d : Ts =>
      ({ d with
          bufs := d.bufs ++ [
            { stype := y, data := sparseSetRun [] 0 payload, pesBufLen := n
              startTSPacketTimeStamp := s.arg1, state := .filling
              pesTruncated := false }] } : Ts).modStream y (opened d.bufs.length)
    -- the PES starts by the changes `x` of the records; the PSI watchdog ends the packet
    let ends := fun x : Ts → Ts =>
      (∀ (c : Draw) (rest : List Draw), d.mode.getLsbD 0 = true → d.psiTimeout.toNat < count →
        s.tape = c :: rest → c.quiet →
        exec (.tsPacket e) s =
          .next { (s.told [.pes e .rescanningForPsi none] rest).modTs e (fun d =>
            (x (counted d)).rescanned) with status := 0x00 }) ∧
      ((d.mode.getLsbD 0 = true → count ≤ d.psiTimeout.toNat) →
        exec (.tsPacket e) s = .next { s.modTs e (fun d => x (counted d)) with status := 0x00 })
    -- the client is told `m`, which restarts the count, and then the PES starts
    let tells := fun (m : Msg) (b : Option Nat) (x : Ts → Ts) =>
      ∀ (c : Draw) (rest : List Draw), s.tape = c :: rest → c.quiet →
        exec (.tsPacket e) s = .next { (s.told [.pes e m b] rest).modTs e (fun d =>
          x { d with pktSinceCb := 0 }) with status := 0x00 }
    let delivered := fun (b : Nat) (d : Ts) =>
      d.modBuf b (fun r => { r with state := .delivered, pesTruncated := x.truncated })
    (s.readByte (s.arg0.toNat + 1)).getLsbD 7 = false →
    (s.readByte (s.arg0.toNat + 1)).getLsbD 6 = true → afc ≠ 0 → afl ≤ 184 → n ≤ cap →
    (x.curBuf = none → ∀ b q, d.pesFree y = b :: q → b < d.bufs.length →
      (inOrder → ends (taken b q)) ∧ (¬ inOrder → tells .discontinuity none (taken b q))) ∧
    (x.curBuf = none → d.pesFree y = [] →
      (inOrder → ends fresh) ∧ (¬ inOrder → tells .discontinuity none fresh)) ∧
    (∀ b, x.curBuf = some b → b < d.bufs.length →
      (inOrder → (d.buf b).pesBufLen = 0 → ends (kept b)) ∧
      (¬ inOrder → tells .discontinuity none (kept b)) ∧
      (inOrder → 0 < (d.buf b).pesBufLen →
        (∀ b' q, d.pesFree y = b' :: q → b' < d.bufs.length → b' ≠ b →
          tells .pesReceived (some b) (fun d => taken b' q (delivered b d))) ∧
        (d.pesFree y = [] → tells .pesReceived (some b) (fun d => fresh (delivered b d)))))

/-- 45_ts_demux.md R276, R277, R279, R283: a continuity gap without start indicator discards the PES in
progress and reports Discontinuity with no buffer; an error indicator, or an adaptation field that
overruns the packet, reports PacketError with the PES in progress, or with none. -/
def Obligations.PacketReports : Prop :=
  ∀ (s : State) (e : Nat) (y : StreamType) (c : Draw) (rest : List Draw), s.idle →
    e < s.inst.length → s.packetOn e y → s.tape = c :: rest → c.quiet →
    let d := s.ts e
    let x := d.stream y
    let afc := (s.readByte (s.arg0.toNat + 3)).extractLsb' 4 2
    let cc := (s.readByte (s.arg0.toNat + 3)).extractLsb' 0 4
    let afl := if afc.getLsbD 1 then 1 + (s.readByte (s.arg0.toNat + 4)).toNat else 0
    let tei := (s.readByte (s.arg0.toNat + 1)).getLsbD 7
    let told := fun (m : Msg) (b : Option Nat) => ({ s with
      out := s.out ++ [.pes e m b], tape := rest, drawn := s.drawn + 1, status := 0x00 } : State)
    (∀ last, tei = false → afc ≠ 0 → afl ≤ 184 →
      (s.readByte (s.arg0.toNat + 1)).getLsbD 6 = false → x.streamCont = some last →
      cc ≠ (if afc.getLsbD 0 then last + 1 else last) →
      exec (.tsPacket e) s = .next ((told .discontinuity none).modTs e (fun d =>
        (match x.curBuf with
          | some b => ({ d with pktSinceCb := 0 } : Ts).modBuf b (fun r => { r with pesBufLen := 0 })
          | none => { d with pktSinceCb := 0 }).modStream y (fun x =>
          { x with
            foundFirst := false, truncated := false, pesPacketPos := 0
            streamCont := some cc }))) ) ∧
    (tei = true ∨ afc ≠ 0 ∧ 184 < afl →
      (∀ b, x.curBuf = some b → 0 < (d.buf b).pesBufLen →
        exec (.tsPacket e) s = .next ((told .packetError (some b)).modTs e (fun d =>
          (({ d with pktSinceCb := 0 } : Ts).modBuf b (fun r =>
            { r with state := .delivered, pesTruncated := x.truncated })).modStream y (fun x =>
            { x with
              curBuf := none, foundFirst := false, truncated := false, pesPacketPos := 0
              streamCont := none })))) ∧
      ((∀ b, x.curBuf = some b → (d.buf b).pesBufLen = 0) →
        exec (.tsPacket e) s = .next ((told .packetError none).modTs e (fun d =>
          ({ d with pktSinceCb := 0 } : Ts).modStream y (fun x =>
            { x with foundFirst := false, truncated := false, streamCont := none })))))

/-- 45_ts_demux.md R287: TS_FLUSH with nothing accumulated changes only the stream state and makes no
callback; with one stream accumulated it delivers that buffer, and one delivery is made; with both, video is
delivered before audio. The clients do nothing in their callbacks, but that the one of a lone delivery may
give the buffer back by TS_RELEASE_PES inside it (60_exceptions.md R319; R289). -/
def Obligations.FlushResult : Prop :=
  ∀ (s : State) (e : Nat), s.idle → e < s.inst.length →
    let d := s.ts e
    let empty := fun y : StreamType => ∀ b, (d.stream y).curBuf = some b → (d.buf b).pesBufLen = 0
    let wiped := fun x : Stream =>
      { x with foundFirst := false, streamCont := none, truncated := false, pesPacketPos := 0 }
    (empty .video → empty .audio →
      exec (.tsFlush e) s = .next { s.modTs e (fun d =>
        { d with video := wiped d.video, audio := wiped d.audio }) with status := 0x00 }) ∧
    (∀ (y z : StreamType) (b : Nat) (c : Draw) (rest : List Draw), y ≠ z → empty z →
      (d.stream y).curBuf = some b → 0 < (d.buf b).pesBufLen → s.tape = c :: rest →
      let told := s.told [.pes e .flushedPesBuffer (some b)] rest
      let flushed := fun d : Ts =>
        (({ d with pktSinceCb := 0 } : Ts).modStream y (fun x => { wiped x with curBuf := none })).modStream
          z wiped
      (c.quiet →
        exec (.tsFlush e) s = .next { told.modTs e (fun d =>
          (flushed d).modBuf b (fun r =>
            { r with state := .delivered, pesTruncated := (d.stream y).truncated })) with
          status := 0x00 }) ∧
      (c.acts = [.write .arg0 (BitVec.ofNat 32 b), .write .cmd (encodeWord (.tsReleasePes e))] →
        c.reset = false → e ≤ 255 → b < 2 ^ 32 →
        exec (.tsFlush e) s = .next { told.modTs e (fun d =>
          ((flushed d).modBuf b (fun r =>
            { r with state := .free, pesBufLen := 0, pesTruncated := false })).setPesFree
              (d.buf b).stype (d.pesFree (d.buf b).stype ++ [b])) with
          arg0 := BitVec.ofNat 32 b, cmd := encodeWord (.tsReleasePes e), status := 0x00 })) ∧
    (∀ (v a : Nat) (ds rest : List Draw), d.video.curBuf = some v → 0 < (d.buf v).pesBufLen →
      d.audio.curBuf = some a → 0 < (d.buf a).pesBufLen → s.answers ds rest 2 →
      exec (.tsFlush e) s =
        .next { (s.told [.pes e .flushedPesBuffer (some v), .pes e .flushedPesBuffer (some a)]
          rest).modTs e (fun d =>
            (({ d with
                pktSinceCb := 0, video := { wiped d.video with curBuf := none }
                audio := { wiped d.audio with curBuf := none } } : Ts).modBuf v (fun r =>
              { r with state := .delivered, pesTruncated := d.video.truncated })).modBuf a (fun r =>
              { r with state := .delivered, pesTruncated := d.audio.truncated })) with
          status := 0x00 })

/-- 45_ts_demux.md R289: TS_RELEASE_PES. The PES store of an instance holds its `nextPesId` buffers. And what
a client observes of what it holds (20_memory.md R63, 70_reset_and_hazards.md R351): of a Delivered PES
buffer its first `pesBufLen` bytes, of a Dispatched frame to which it holds a reference its `frameLen` bytes,
each the byte last stored there (one that no cycle has stored since reset is open, log 6). -/
def Obligations.ReleasePesResult : Prop :=
  (∀ (s : State) (e id : Nat), id < (s.ts e).bufs.length →
    let r := (s.ts e).buf id
    r.state = .delivered →
    (s.pesData e id).length = r.pesBufLen ∧
    ∀ j v, j < r.pesBufLen → sparseGet r.data j = some v → (s.pesData e id)[j]? = some v) ∧
  (∀ (s : State) (e f : Nat), f < (s.dvr e).frames.length →
    let r := (s.dvr e).frame f
    r.state = .dispatched →
    (s.frameData e f true).length = r.frameLen ∧
    ∀ j v, j < r.frameLen → sparseGet r.data j = some v → (s.frameData e f true)[j]? = some v) ∧
  ∀ (s : State) (e : Nat), s.halted = false → e < s.inst.length →
    let d := s.ts e
    let id := s.arg0.toNat
    exec (.tsReleasePes e) s = .next (
      if d.bufs.length ≤ id ∨ (d.buf id).state ≠ .delivered then { s with status := 0x06 }
      else
        { s.modTs e (fun d =>
            (d.modBuf id (fun r =>
              { r with state := .free, pesBufLen := 0, pesTruncated := false })).setPesFree
                (d.buf id).stype (d.pesFree (d.buf id).stype ++ [id])) with status := 0x00 })

/-- The buffer-conservation law that 45_ts_demux.md R293 infers from R280 to R283 and R289, over every
step. -/
def Obligations.StepKeepsPesLaw : Prop :=
  ∀ s t : State, s.every (·.ts.law) → step s = .next t → t.every (·.ts.law)

/-! ### Unit UNI -/

/-- 42_buffer_engine.md R180, R181: URX_CYCLE. The raw client is called first when URX_CALLBACK is set. A
cycle that is not CIP or carries no data, that lies outside BUF, or whose source packet size is 0 goes no
further. Else the format is noted, after a TS_FLUSH if an attached demultiplexer sees it change; and each
192-byte source packet of an attached MPEG-2 TS cycle goes to TS_PACKET, in order, with its 4-byte header as
timestamp (a bad sync byte is ignored). The clients do nothing in their callbacks, but in the cycle of one
source packet they may do anything. -/
def Obligations.UrxResult : Prop :=
  ∀ (s told : State) (e : Nat), s.idle → e < s.inst.length →
    let g := s.eng e
    let len := s.arg0.toNat / 2 ^ 16
    let pa := s.arg1.toNat
    let h := cipHeader (s.readBytes pa len)
    let sps := h.dbs.toNat * 4 * 2 ^ h.fn.toNat
    let cip := s.arg0.extractLsb' 14 2 = 0b01#2 ∧ 8 < len
    let changed := g.demuxAttach = true ∧ g.lastFmt.isSome = true ∧ g.lastFmt ≠ some h.fmt
    let note := fun t : State => t.modEng e (fun g => { g with lastFmt := some h.fmt })
    let noted := note (if changed then told.within (.tsFlush e) told.arg0 told.arg1 told.arg2 else told)
    let n := min ((len - 8) / 192) s.par.maxSourcePackets
    let stamp := fun (t : State) (sp : Nat) =>
      t.readByte sp ++ t.readByte (sp + 1) ++ t.readByte (sp + 2) ++ t.readByte (sp + 3)
    let fed := (List.range n).foldl (fun t i =>
      t.within (.tsPacket e) (BitVec.ofNat 32 (pa + 12 + 192 * i)) (stamp t (pa + 8 + 192 * i))
        t.arg2) noted
    g.urxCallback = false ∧ told = s ∨
      g.urxCallback = true ∧ (∃ ds rest, s.answers ds rest 1 ∧
        told = s.told [.urxPacket e s.arg0 pa len s.arg2] rest) →
    (¬ cip → exec (.urxCycle e) s = .next { told with status := 0x00 }) ∧
    (cip → s.par.bufBytes < pa + len →
      exec (.urxCycle e) s = .next (told.takeFault (.badAddress pa len))) ∧
    (cip → pa + len ≤ s.par.bufBytes → sps = 0 →
      exec (.urxCycle e) s = .next { told with status := 0x00 }) ∧
    (cip → pa + len ≤ s.par.bufBytes → sps ≠ 0 →
      (h.fmt ≠ 0x20 ∨ g.demuxAttach = false ∨ sps ≠ 192 → (changed → told.quietTo noted) →
        exec (.urxCycle e) s = .next { noted with status := 0x00 }) ∧
      (h.fmt = 0x20 → g.demuxAttach = true → sps = 192 → s.par.bufBytes ≤ 2 ^ 32 →
        told.quietTo fed → exec (.urxCycle e) s = .next { fed with status := 0x00 }) ∧
      (h.fmt = 0x20 → g.demuxAttach = true → sps = 192 → ¬ changed → (len - 8) / 192 = 1 →
        1 ≤ s.par.maxSourcePackets →
        exec (.urxCycle e) s = .next (
          match tsPacket e (pa + 12) (stamp s (pa + 8)) (note told) with
          | .ok _ t => { t with status := 0x00 }
          | .error .fault t => t
          | .error .reset t => t.resetBlock)))

/-- 42_buffer_engine.md R182: UTX_CYCLE, whose client writes the bytes `payload` of BUF through the memory
port inside its callback and answers the header `c.word`. A client that then names an address outside BUF
raises FAULT_BAD_ADDRESS there and the callback never returns (20_memory.md R61, R62; 60_exceptions.md
R315; that the port raises it is log 9). -/
def Obligations.UtxResult : Prop :=
  ∀ (s : State) (e : Nat), s.idle → e < s.inst.length →
    let g := s.eng e
    let k := s.arg0.toNat
    let slots := g.segments.toNat * g.cyclesPerSeg.toNat
    (g.setupDone = false ∨ g.kind ≠ .utx ∨ slots < k →
      exec (.utxCycle e) s = .next { s with status := 0x06 }) ∧
    (∀ (c : Draw) (rest : List Draw) (payload : List (Nat × Byte)),
      g.setupDone = true → g.kind = .utx → k ≤ slots → s.tape = c :: rest →
      (∀ b ∈ payload, b.1 < s.par.bufBytes) →
      let len := c.word.toNat / 2 ^ 16
      let pokes := payload.map (fun b => HostAct.poke b.1 b.2)
      let filled : State := payload.foldl (fun t b => t.writeBytes b.1 [b.2])
        (s.told [.utxFill e k (g.bufBase.toNat + k * g.cycleBufSize.toNat) g.cycleBufSize.toNat] rest)
      (c.acts = pokes → c.reset = false →
        exec (.utxCycle e) s = .next (
          if g.cycleBufSize.toNat < len then filled.takeFault (.cycleOversize k (some len))
          else
            { filled.modEng e (fun g => { g with slotHdr := sparseSet g.slotHdr k c.word }) with
              res0 := BitVec.ofNat 32 len, status := 0x00 })) ∧
      (∀ (bad : Nat) (b : Byte) (more : List HostAct), s.par.bufBytes ≤ bad →
        c.acts = pokes ++ .poke bad b :: more →
        exec (.utxCycle e) s =
          .next { filled.takeFault (.badAddress bad 1) with inCallback := 1 }))

/-! ### Reset -/

/-- 70_reset_and_hazards.md R341, R342 with the reset values of 10_state.md R21 and R26 to R36: a reset
step clears the command interface, the faults and every instance, and leaves BUF, the wire and the
parameters; every field of an instance after reset, written out; and the machine after power-on with any
parameters that R8 allows obeys every invariant stated above. Where 10_state.md has a value unset or
unspecified, the model's empty lists stand for it (`jump`, `slotHdr`, `tsSlot`, the data arrays; logs 6, 7,
16); `frameLen` is log 25 and the pool's ids are log 13. -/
def Obligations.ResetState : Prop :=
  (∀ s s' : State, s.nextAction = (.reset, s') → ∃ t, step s = .next t ∧
    t.inst = List.replicate s'.par.eInst (Inst.reset s'.par) ∧ t.par = s'.par ∧
    (t.arg0, t.arg1, t.arg2, t.arg3) = (0, 0, 0, 0) ∧
    (t.res0, t.res1, t.res2, t.res3) = (0, 0, 0, 0) ∧ t.cmd = 0 ∧ t.status = 0x00 ∧
    t.faults = 0 ∧ t.halted = false ∧ t.faultInfo = none ∧ t.inCallback = 0 ∧ t.regions = [] ∧
    t.buf = s'.buf ∧ t.wire = s'.wire) ∧
  (∀ p : Params,
    let stream : Stream :=
      { foundFirst := false, streamCont := none, pesPacketPos := 0, curBuf := none
        truncated := false }
    let pes := fun y : StreamType => ({
      stype := y, data := [], pesBufLen := 0, startTSPacketTimeStamp := 0, state := .free
      pesTruncated := false } : PesBuf)
    Inst.reset p =
      { eng :=
          { kind := .dvrx, segments := 0, cyclesPerSeg := 0, minPayload := 0, channel := 0
            cycleBufSize := 0, running := false, setupDone := false, fatal := false
            firstCallback := false, finalizeOwed := 0, curSeg := 0, wdRegistered := false
            wdArmed := false, expectedTs := 0, stealCount := 0, recoveryThreshold := 3
            localSid := 0, bufBase := 0, demuxAttach := false, urxCallback := false, jump := []
            slotHdr := [], tsSlot := [], startCT := 0, stopHold := false, events := []
            lastFmt := none, peRunning := false, peSeg := 0, peStops := 0 }
        dvr :=
          { dvMode := 0, frameSel := 0
            frames := List.replicate p.fRx
              { state := .free, dispatching := false, currentOffset := 0, frameLen := 0
                refCount := 0, frameSYTTime := 0, frameReceivedTimeStamp := 0, data := [] }
            freeQueue := List.range p.fRx, currentFrame := none, consumers := [] }
        dvt :=
          { dvMode := 0, blocksPerCycle := 1, txFrameBase := 0, curFrame := none, dbc := 0
            txCycleCount := 0, txClock := 0, frameSel := 0
            frames := List.replicate p.fTx
              { inUse := false, curOffset := 0, dclProgramRefCount := 0, frameSYTTime := 0
                frameTransmitStartCycleTime := 0 }
            slotRefs := [] }
        ts :=
          { mode := 0, videoPid := ⟨false, 0⟩, audioPid := ⟨false, 0⟩, pmtPid := ⟨false, 0⟩
            psiTimeout := p.psiTimeout, pktSinceCb := 0, video := stream, audio := stream
            bufs := List.replicate p.pesPoolInit (pes .video) ++
              List.replicate p.pesPoolInit (pes .audio)
            pesFreeV := List.range p.pesPoolInit
            pesFreeA := (List.range p.pesPoolInit).map (· + p.pesPoolInit) } }) ∧
  (∀ p : Params, p.wf = true →
    let s := State.powerOn p
    s.registerLaw ∧ s.every (·.eng.ringLaw) ∧ s.every (·.eng.transportLaw) ∧
    s.every (·.dvr.law) ∧ s.every (·.ts.law)) ∧
  State.reset = State.powerOn Config.params ∧ Config.params.wf = true ∧ Config.params.eInst = 1

/-! ### The Port Engine -/

/-- 20_memory.md R72, R73: a segment step of the Port Engine. Receiving, it writes the header and the
payload of each cycle of segment `c` and no other byte; sending, it appends each cycle's packet to the
wire; either way it writes `tsSlot[c]`, enqueues SEG(c), and follows `jump[c]`: to the next segment, or
through the overrun descriptor, where one more cycle goes into or out of buffer `S*N`, OVERRUN is enqueued
and the Port Engine stops. And the other moves of the environment (R71, R74): FINALIZE is enqueued once for
each `pe.stop()`, FORCE_STOP while the Port Engine runs, which it stops, WATCHDOG while the watchdog is armed,
POLL_TIMEOUT while a STOP holds. That a move that is not enabled changes nothing is log 4. -/
def Obligations.PortEngineSegment : Prop :=
  (∀ (s s' : State) (e : Nat),
    let g := s'.eng e
    let enqueued := fun (v : Event) (g : Eng) => { g with events := g.events ++ [v] }
    (s.nextAction = (.peFinalize e, s') → step s = .next (
      if 0 < g.peStops then
        s'.modEng e (fun g => { enqueued .finalize g with peStops := g.peStops - 1 })
      else s')) ∧
    (s.nextAction = (.peForceStop e, s') → step s = .next (
      if g.peRunning = true then
        s'.modEng e (fun g => { enqueued .forceStop g with peRunning := false })
      else s')) ∧
    (s.nextAction = (.watchdog e, s') → step s = .next (
      if g.wdArmed = true then s'.modEng e (enqueued .watchdog) else s')) ∧
    (s.nextAction = (.pollTimeout e, s') → step s = .next (
      if g.stopHold = true then s'.modEng e (enqueued .pollTimeout) else s')) ∧
    (s.nextAction = (.peSegment e, s') → g.peRunning = false → step s = .next s')) ∧
  ∀ (s s' : State) (e : Nat), s.nextAction = (.peSegment e, s') → e < s'.inst.length →
    let g := s'.eng e
    let c := g.peSeg
    let N := g.cyclesPerSeg.toNat
    let K := g.cycles
    let cbs := g.cycleBufSize.toNat
    let slot := fun k : Nat => g.bufBase.toNat + k * cbs
    -- buffer `k` holds what the draw `d` delivers
    let received := fun (t : State) (k : Nat) (d : Draw) =>
      sparseGet (t.eng e).slotHdr k = some d.word ∧
      ∀ b, b < cbs → b < d.bytes.length → t.readByte (slot k + b) = d.bytes.getD b 0
    let inSegment := fun a : Nat => slot (c * N) ≤ a ∧ a < slot (c * N + N)
    let sent := fun (hdr : Nat → Word) (k : Nat) =>
      (⟨e, hdr k, s'.readBytes (slot k) (dataLength (hdr k))⟩ : WirePacket)
    let ready := fun (hdr : Nat → Word) (k : Nat) => sparseGet g.slotHdr k = some (hdr k) ∧
      slot k + dataLength (hdr k) ≤ s'.par.bufBytes
    g.peRunning = true →
    (∀ j, g.jump[c]? = some (.start j) →
      (∀ (ds rest : List Draw) (d : Draw), g.kind.isReceive = true → s'.tape = ds ++ d :: rest →
        ds.length = N → slot (c * N + N) ≤ s'.par.bufBytes →
        ∃ t, step s = .next t ∧ t.halted = s'.halted ∧ t.tape = rest ∧
          (t.eng e).events = g.events ++ [.segment c] ∧ (t.eng e).peSeg = j ∧
          (t.eng e).peRunning = true ∧ sparseGet (t.eng e).tsSlot c = some d.word ∧
          (∀ i, i < N → received t (c * N + i) (ds.getD i default)) ∧
          (∀ a, ¬ inSegment a → t.readByte a = s'.readByte a)) ∧
      (∀ (hdr : Nat → Word) (rest : List Draw) (d : Draw), g.kind.isReceive = false →
        s'.tape = d :: rest → (∀ i, i < N → ready hdr (c * N + i)) →
        step s = .next { s'.modEng e (fun g =>
          { g with
            tsSlot := sparseSet g.tsSlot c d.word, events := g.events ++ [.segment c]
            peSeg := j }) with
          wire := s'.wire ++ (List.range N).map (fun i => sent hdr (c * N + i))
          tape := rest, drawn := s'.drawn + 1 })) ∧
    (g.jump[c]? = some .overrun → c < g.segments.toNat →
      (∀ (ds rest : List Draw) (d o : Draw), g.kind.isReceive = true →
        s'.tape = ds ++ d :: o :: rest → ds.length = N → slot (K + 1) ≤ s'.par.bufBytes →
        ∃ t, step s = .next t ∧ t.halted = s'.halted ∧ t.tape = rest ∧
          (t.eng e).events = g.events ++ [.segment c, .overrun] ∧ (t.eng e).peSeg = c ∧
          (t.eng e).peRunning = false ∧ sparseGet (t.eng e).tsSlot c = some d.word ∧
          (∀ i, i < N → received t (c * N + i) (ds.getD i default)) ∧ received t K o ∧
          (∀ a, ¬ inSegment a → ¬ (slot K ≤ a ∧ a < slot (K + 1)) →
            t.readByte a = s'.readByte a)) ∧
      (∀ (hdr : Nat → Word) (rest : List Draw) (d : Draw), g.kind.isReceive = false →
        s'.tape = d :: rest → (∀ i, i < N → ready hdr (c * N + i)) → ready hdr K →
        step s = .next { s'.modEng e (fun g =>
          { g with
            tsSlot := sparseSet g.tsSlot c d.word, events := g.events ++ [.segment c, .overrun]
            peRunning := false }) with
          wire := s'.wire ++ (List.range N).map (fun i => sent hdr (c * N + i)) ++ [sent hdr K]
          tape := rest, drawn := s'.drawn + 1 }))

/-! ### Frames -/

/-- What the receive commands leave unchanged, whatever they do and with clients that do nothing in their
callbacks: BUF, the operands and results, the wire, every other unit and every other instance
(42_buffer_engine.md R164, 43_dv_receive.md R203, 45_ts_demux.md R271, R287, 42_buffer_engine.md R180). -/
def Obligations.ReceiveFrame : Prop :=
  ∀ (i : Instr) (s t : State) (e : Nat),
    i ∈ [.dvrCycle e, .tsPacket e, .tsFlush e, .urxCycle e] → exec i s = .next t → s.quietTo t →
    t.buf = s.buf ∧ t.wire = s.wire ∧ t.par = s.par ∧ t.cmd = s.cmd ∧ t.regions = s.regions ∧
    (t.arg0, t.arg1, t.arg2, t.arg3) = (s.arg0, s.arg1, s.arg2, s.arg3) ∧
    (t.res0, t.res1, t.res2, t.res3) = (s.res0, s.res1, s.res2, s.res3) ∧
    t.inCallback = s.inCallback ∧ t.inst.length = s.inst.length ∧
    (∀ j, j ≠ e → t.instAt j = s.instAt j) ∧ t.dvt e = s.dvt e ∧
    (i ≠ .urxCycle e → t.eng e = s.eng e) ∧
    (i = .urxCycle e → t.eng e = { s.eng e with lastFmt := (t.eng e).lastFmt }) ∧
    (i = .dvrCycle e → t.ts e = s.ts e) ∧ (i ≠ .dvrCycle e → t.dvr e = s.dvr e)

/-- What the produce commands leave unchanged, whatever they do and with clients that do nothing in their
callbacks: every byte of BUF but those of the packet a DVT_CYCLE builds in cycle buffer ARG0, and of the
engine all but that buffer's header and STEAL_COUNT (44_dv_transmit.md R243, R245; 42_buffer_engine.md
R164, R182). -/
def Obligations.TransmitFrame : Prop :=
  ∀ (i : Instr) (s t : State) (e : Nat),
    i ∈ [.dvtCycle e, .utxCycle e] → exec i s = .next t → s.quietTo t →
    let k := s.arg0.toNat
    (i = .utxCycle e ∨ s.par.dvRow (s.dvt e).dvMode = none → t.buf = s.buf) ∧
    (∀ row a, s.par.dvRow (s.dvt e).dvMode = some row →
      a < (s.eng e).slotAddr k ∨
        (s.eng e).slotAddr k + (8 + (s.dvt e).blocksPerCycle.toNat * row.blk) ≤ a →
      t.readByte a = s.readByte a) ∧
    t.wire = s.wire ∧ t.par = s.par ∧ t.cmd = s.cmd ∧ t.regions = s.regions ∧
    (t.arg0, t.arg1, t.arg2, t.arg3) = (s.arg0, s.arg1, s.arg2, s.arg3) ∧
    (t.res1, t.res2, t.res3) = (s.res1, s.res2, s.res3) ∧ t.inCallback = s.inCallback ∧
    t.inst.length = s.inst.length ∧ (∀ j, j ≠ e → t.instAt j = s.instAt j) ∧
    t.dvr e = s.dvr e ∧ t.ts e = s.ts e ∧
    t.eng e = { s.eng e with
      slotHdr := (t.eng e).slotHdr, stealCount := (t.eng e).stealCount } ∧
    (∀ j, j ≠ k → sparseGet (t.eng e).slotHdr j = sparseGet (s.eng e).slotHdr j) ∧
    (i = .utxCycle e → t.dvt e = s.dvt e ∧ (t.eng e).stealCount = (s.eng e).stealCount)

/-- What ENG_START and the engine's events leave unchanged, whatever they do and with clients that do
nothing in their callbacks: the operands and results, the wire, every other instance, the configuration
of the engine, and every byte of BUF outside its cycle buffers; a receive engine stores nothing
(42_buffer_engine.md R155, R159, R161, R163, R164, R172; 20_memory.md R68). -/
def Obligations.EngineFrame : Prop :=
  ∀ (i : Instr) (s t : State) (e : Nat),
    (i ∈ [.engStart e, .evOverrun e, .evForceStop e, .evFinalize e] ∨ ∃ c, i = .evSegment e c) →
    exec i s = .next t → s.quietTo t →
    t.wire = s.wire ∧ t.par = s.par ∧ t.cmd = s.cmd ∧ t.regions = s.regions ∧
    (t.arg0, t.arg1, t.arg2, t.arg3) = (s.arg0, s.arg1, s.arg2, s.arg3) ∧
    (t.res0, t.res1, t.res2, t.res3) = (s.res0, s.res1, s.res2, s.res3) ∧
    t.inCallback = s.inCallback ∧ t.inst.length = s.inst.length ∧
    (∀ j, j ≠ e → t.instAt j = s.instAt j) ∧
    ((t.eng e).kind, (t.eng e).segments, (t.eng e).cyclesPerSeg, (t.eng e).minPayload,
        (t.eng e).channel, (t.eng e).cycleBufSize, (t.eng e).bufBase) =
      ((s.eng e).kind, (s.eng e).segments, (s.eng e).cyclesPerSeg, (s.eng e).minPayload,
        (s.eng e).channel, (s.eng e).cycleBufSize, (s.eng e).bufBase) ∧
    ((s.eng e).kind.isReceive = true → t.buf = s.buf) ∧
    (startChecks s.par (s.instAt e) = true → ∀ a,
      a < (s.eng e).bufBase.toNat ∨
        (s.eng e).bufBase.toNat + (s.eng e).regionSize (s.eng e).cycleBufSize.toNat ≤ a →
      t.readByte a = s.readByte a)
end

