-- ==== Sys2Proof/Laws/State.lean ====
section
/-! SUPPORT. What each update of the machine state leaves in each field: one lemma for each, true by
unfolding. -/

namespace Sys2Proof.Machine

/-! ### `setRes0` -/

section

variable (s : State) (v : Word)

@[simp] theorem State.setRes0_par : (s.setRes0 v).par = s.par := rfl
@[simp] theorem State.setRes0_cmd : (s.setRes0 v).cmd = s.cmd := rfl
@[simp] theorem State.setRes0_arg0 : (s.setRes0 v).arg0 = s.arg0 := rfl
@[simp] theorem State.setRes0_arg1 : (s.setRes0 v).arg1 = s.arg1 := rfl
@[simp] theorem State.setRes0_arg2 : (s.setRes0 v).arg2 = s.arg2 := rfl
@[simp] theorem State.setRes0_arg3 : (s.setRes0 v).arg3 = s.arg3 := rfl
@[simp] theorem State.setRes0_res0 : (s.setRes0 v).res0 = v := rfl
@[simp] theorem State.setRes0_res1 : (s.setRes0 v).res1 = s.res1 := rfl
@[simp] theorem State.setRes0_res2 : (s.setRes0 v).res2 = s.res2 := rfl
@[simp] theorem State.setRes0_res3 : (s.setRes0 v).res3 = s.res3 := rfl
@[simp] theorem State.setRes0_status : (s.setRes0 v).status = s.status := rfl
@[simp] theorem State.setRes0_faults : (s.setRes0 v).faults = s.faults := rfl
@[simp] theorem State.setRes0_halted : (s.setRes0 v).halted = s.halted := rfl
@[simp] theorem State.setRes0_faultInfo : (s.setRes0 v).faultInfo = s.faultInfo := rfl
@[simp] theorem State.setRes0_inCallback : (s.setRes0 v).inCallback = s.inCallback := rfl
@[simp] theorem State.setRes0_inst : (s.setRes0 v).inst = s.inst := rfl
@[simp] theorem State.setRes0_buf : (s.setRes0 v).buf = s.buf := rfl
@[simp] theorem State.setRes0_regions : (s.setRes0 v).regions = s.regions := rfl
@[simp] theorem State.setRes0_wire : (s.setRes0 v).wire = s.wire := rfl
@[simp] theorem State.setRes0_out : (s.setRes0 v).out = s.out := rfl
@[simp] theorem State.setRes0_epoch : (s.setRes0 v).epoch = s.epoch := rfl
@[simp] theorem State.setRes0_agenda : (s.setRes0 v).agenda = s.agenda := rfl
@[simp] theorem State.setRes0_tape : (s.setRes0 v).tape = s.tape := rfl
@[simp] theorem State.setRes0_drawn : (s.setRes0 v).drawn = s.drawn := rfl

end

/-! ### `setRes1` -/

section

variable (s : State) (v : Word)

@[simp] theorem State.setRes1_par : (s.setRes1 v).par = s.par := rfl
@[simp] theorem State.setRes1_cmd : (s.setRes1 v).cmd = s.cmd := rfl
@[simp] theorem State.setRes1_arg0 : (s.setRes1 v).arg0 = s.arg0 := rfl
@[simp] theorem State.setRes1_arg1 : (s.setRes1 v).arg1 = s.arg1 := rfl
@[simp] theorem State.setRes1_arg2 : (s.setRes1 v).arg2 = s.arg2 := rfl
@[simp] theorem State.setRes1_arg3 : (s.setRes1 v).arg3 = s.arg3 := rfl
@[simp] theorem State.setRes1_res0 : (s.setRes1 v).res0 = s.res0 := rfl
@[simp] theorem State.setRes1_res1 : (s.setRes1 v).res1 = v := rfl
@[simp] theorem State.setRes1_res2 : (s.setRes1 v).res2 = s.res2 := rfl
@[simp] theorem State.setRes1_res3 : (s.setRes1 v).res3 = s.res3 := rfl
@[simp] theorem State.setRes1_status : (s.setRes1 v).status = s.status := rfl
@[simp] theorem State.setRes1_faults : (s.setRes1 v).faults = s.faults := rfl
@[simp] theorem State.setRes1_halted : (s.setRes1 v).halted = s.halted := rfl
@[simp] theorem State.setRes1_faultInfo : (s.setRes1 v).faultInfo = s.faultInfo := rfl
@[simp] theorem State.setRes1_inCallback : (s.setRes1 v).inCallback = s.inCallback := rfl
@[simp] theorem State.setRes1_inst : (s.setRes1 v).inst = s.inst := rfl
@[simp] theorem State.setRes1_buf : (s.setRes1 v).buf = s.buf := rfl
@[simp] theorem State.setRes1_regions : (s.setRes1 v).regions = s.regions := rfl
@[simp] theorem State.setRes1_wire : (s.setRes1 v).wire = s.wire := rfl
@[simp] theorem State.setRes1_out : (s.setRes1 v).out = s.out := rfl
@[simp] theorem State.setRes1_epoch : (s.setRes1 v).epoch = s.epoch := rfl
@[simp] theorem State.setRes1_agenda : (s.setRes1 v).agenda = s.agenda := rfl
@[simp] theorem State.setRes1_tape : (s.setRes1 v).tape = s.tape := rfl
@[simp] theorem State.setRes1_drawn : (s.setRes1 v).drawn = s.drawn := rfl

end

/-! ### `setRes2` -/

section

variable (s : State) (v : Word)

@[simp] theorem State.setRes2_par : (s.setRes2 v).par = s.par := rfl
@[simp] theorem State.setRes2_cmd : (s.setRes2 v).cmd = s.cmd := rfl
@[simp] theorem State.setRes2_arg0 : (s.setRes2 v).arg0 = s.arg0 := rfl
@[simp] theorem State.setRes2_arg1 : (s.setRes2 v).arg1 = s.arg1 := rfl
@[simp] theorem State.setRes2_arg2 : (s.setRes2 v).arg2 = s.arg2 := rfl
@[simp] theorem State.setRes2_arg3 : (s.setRes2 v).arg3 = s.arg3 := rfl
@[simp] theorem State.setRes2_res0 : (s.setRes2 v).res0 = s.res0 := rfl
@[simp] theorem State.setRes2_res1 : (s.setRes2 v).res1 = s.res1 := rfl
@[simp] theorem State.setRes2_res2 : (s.setRes2 v).res2 = v := rfl
@[simp] theorem State.setRes2_res3 : (s.setRes2 v).res3 = s.res3 := rfl
@[simp] theorem State.setRes2_status : (s.setRes2 v).status = s.status := rfl
@[simp] theorem State.setRes2_faults : (s.setRes2 v).faults = s.faults := rfl
@[simp] theorem State.setRes2_halted : (s.setRes2 v).halted = s.halted := rfl
@[simp] theorem State.setRes2_faultInfo : (s.setRes2 v).faultInfo = s.faultInfo := rfl
@[simp] theorem State.setRes2_inCallback : (s.setRes2 v).inCallback = s.inCallback := rfl
@[simp] theorem State.setRes2_inst : (s.setRes2 v).inst = s.inst := rfl
@[simp] theorem State.setRes2_buf : (s.setRes2 v).buf = s.buf := rfl
@[simp] theorem State.setRes2_regions : (s.setRes2 v).regions = s.regions := rfl
@[simp] theorem State.setRes2_wire : (s.setRes2 v).wire = s.wire := rfl
@[simp] theorem State.setRes2_out : (s.setRes2 v).out = s.out := rfl
@[simp] theorem State.setRes2_epoch : (s.setRes2 v).epoch = s.epoch := rfl
@[simp] theorem State.setRes2_agenda : (s.setRes2 v).agenda = s.agenda := rfl
@[simp] theorem State.setRes2_tape : (s.setRes2 v).tape = s.tape := rfl
@[simp] theorem State.setRes2_drawn : (s.setRes2 v).drawn = s.drawn := rfl

end

/-! ### `setRes3` -/

section

variable (s : State) (v : Word)

@[simp] theorem State.setRes3_par : (s.setRes3 v).par = s.par := rfl
@[simp] theorem State.setRes3_cmd : (s.setRes3 v).cmd = s.cmd := rfl
@[simp] theorem State.setRes3_arg0 : (s.setRes3 v).arg0 = s.arg0 := rfl
@[simp] theorem State.setRes3_arg1 : (s.setRes3 v).arg1 = s.arg1 := rfl
@[simp] theorem State.setRes3_arg2 : (s.setRes3 v).arg2 = s.arg2 := rfl
@[simp] theorem State.setRes3_arg3 : (s.setRes3 v).arg3 = s.arg3 := rfl
@[simp] theorem State.setRes3_res0 : (s.setRes3 v).res0 = s.res0 := rfl
@[simp] theorem State.setRes3_res1 : (s.setRes3 v).res1 = s.res1 := rfl
@[simp] theorem State.setRes3_res2 : (s.setRes3 v).res2 = s.res2 := rfl
@[simp] theorem State.setRes3_res3 : (s.setRes3 v).res3 = v := rfl
@[simp] theorem State.setRes3_status : (s.setRes3 v).status = s.status := rfl
@[simp] theorem State.setRes3_faults : (s.setRes3 v).faults = s.faults := rfl
@[simp] theorem State.setRes3_halted : (s.setRes3 v).halted = s.halted := rfl
@[simp] theorem State.setRes3_faultInfo : (s.setRes3 v).faultInfo = s.faultInfo := rfl
@[simp] theorem State.setRes3_inCallback : (s.setRes3 v).inCallback = s.inCallback := rfl
@[simp] theorem State.setRes3_inst : (s.setRes3 v).inst = s.inst := rfl
@[simp] theorem State.setRes3_buf : (s.setRes3 v).buf = s.buf := rfl
@[simp] theorem State.setRes3_regions : (s.setRes3 v).regions = s.regions := rfl
@[simp] theorem State.setRes3_wire : (s.setRes3 v).wire = s.wire := rfl
@[simp] theorem State.setRes3_out : (s.setRes3 v).out = s.out := rfl
@[simp] theorem State.setRes3_epoch : (s.setRes3 v).epoch = s.epoch := rfl
@[simp] theorem State.setRes3_agenda : (s.setRes3 v).agenda = s.agenda := rfl
@[simp] theorem State.setRes3_tape : (s.setRes3 v).tape = s.tape := rfl
@[simp] theorem State.setRes3_drawn : (s.setRes3 v).drawn = s.drawn := rfl

end

/-! ### `setStatus` -/

section

variable (s : State) (c : Status)

@[simp] theorem State.setStatus_par : (s.setStatus c).par = s.par := rfl
@[simp] theorem State.setStatus_cmd : (s.setStatus c).cmd = s.cmd := rfl
@[simp] theorem State.setStatus_arg0 : (s.setStatus c).arg0 = s.arg0 := rfl
@[simp] theorem State.setStatus_arg1 : (s.setStatus c).arg1 = s.arg1 := rfl
@[simp] theorem State.setStatus_arg2 : (s.setStatus c).arg2 = s.arg2 := rfl
@[simp] theorem State.setStatus_arg3 : (s.setStatus c).arg3 = s.arg3 := rfl
@[simp] theorem State.setStatus_res0 : (s.setStatus c).res0 = s.res0 := rfl
@[simp] theorem State.setStatus_res1 : (s.setStatus c).res1 = s.res1 := rfl
@[simp] theorem State.setStatus_res2 : (s.setStatus c).res2 = s.res2 := rfl
@[simp] theorem State.setStatus_res3 : (s.setStatus c).res3 = s.res3 := rfl
@[simp] theorem State.setStatus_status : (s.setStatus c).status = c.code := rfl
@[simp] theorem State.setStatus_faults : (s.setStatus c).faults = s.faults := rfl
@[simp] theorem State.setStatus_halted : (s.setStatus c).halted = s.halted := rfl
@[simp] theorem State.setStatus_faultInfo : (s.setStatus c).faultInfo = s.faultInfo := rfl
@[simp] theorem State.setStatus_inCallback : (s.setStatus c).inCallback = s.inCallback := rfl
@[simp] theorem State.setStatus_inst : (s.setStatus c).inst = s.inst := rfl
@[simp] theorem State.setStatus_buf : (s.setStatus c).buf = s.buf := rfl
@[simp] theorem State.setStatus_regions : (s.setStatus c).regions = s.regions := rfl
@[simp] theorem State.setStatus_wire : (s.setStatus c).wire = s.wire := rfl
@[simp] theorem State.setStatus_out : (s.setStatus c).out = s.out := rfl
@[simp] theorem State.setStatus_epoch : (s.setStatus c).epoch = s.epoch := rfl
@[simp] theorem State.setStatus_agenda : (s.setStatus c).agenda = s.agenda := rfl
@[simp] theorem State.setStatus_tape : (s.setStatus c).tape = s.tape := rfl
@[simp] theorem State.setStatus_drawn : (s.setStatus c).drawn = s.drawn := rfl

end

/-! ### `setCmd` -/

section

variable (s : State) (w : Word)

@[simp] theorem State.setCmd_par : (s.setCmd w).par = s.par := rfl
@[simp] theorem State.setCmd_cmd : (s.setCmd w).cmd = w := rfl
@[simp] theorem State.setCmd_arg0 : (s.setCmd w).arg0 = s.arg0 := rfl
@[simp] theorem State.setCmd_arg1 : (s.setCmd w).arg1 = s.arg1 := rfl
@[simp] theorem State.setCmd_arg2 : (s.setCmd w).arg2 = s.arg2 := rfl
@[simp] theorem State.setCmd_arg3 : (s.setCmd w).arg3 = s.arg3 := rfl
@[simp] theorem State.setCmd_res0 : (s.setCmd w).res0 = s.res0 := rfl
@[simp] theorem State.setCmd_res1 : (s.setCmd w).res1 = s.res1 := rfl
@[simp] theorem State.setCmd_res2 : (s.setCmd w).res2 = s.res2 := rfl
@[simp] theorem State.setCmd_res3 : (s.setCmd w).res3 = s.res3 := rfl
@[simp] theorem State.setCmd_status : (s.setCmd w).status = s.status := rfl
@[simp] theorem State.setCmd_faults : (s.setCmd w).faults = s.faults := rfl
@[simp] theorem State.setCmd_halted : (s.setCmd w).halted = s.halted := rfl
@[simp] theorem State.setCmd_faultInfo : (s.setCmd w).faultInfo = s.faultInfo := rfl
@[simp] theorem State.setCmd_inCallback : (s.setCmd w).inCallback = s.inCallback := rfl
@[simp] theorem State.setCmd_inst : (s.setCmd w).inst = s.inst := rfl
@[simp] theorem State.setCmd_buf : (s.setCmd w).buf = s.buf := rfl
@[simp] theorem State.setCmd_regions : (s.setCmd w).regions = s.regions := rfl
@[simp] theorem State.setCmd_wire : (s.setCmd w).wire = s.wire := rfl
@[simp] theorem State.setCmd_out : (s.setCmd w).out = s.out := rfl
@[simp] theorem State.setCmd_epoch : (s.setCmd w).epoch = s.epoch := rfl
@[simp] theorem State.setCmd_agenda : (s.setCmd w).agenda = s.agenda := rfl
@[simp] theorem State.setCmd_tape : (s.setCmd w).tape = s.tape := rfl
@[simp] theorem State.setCmd_drawn : (s.setCmd w).drawn = s.drawn := rfl

end

/-! ### `takeDraw` -/

section

variable (s : State) (rest : List Draw)

@[simp] theorem State.takeDraw_par : (s.takeDraw rest).par = s.par := rfl
@[simp] theorem State.takeDraw_cmd : (s.takeDraw rest).cmd = s.cmd := rfl
@[simp] theorem State.takeDraw_arg0 : (s.takeDraw rest).arg0 = s.arg0 := rfl
@[simp] theorem State.takeDraw_arg1 : (s.takeDraw rest).arg1 = s.arg1 := rfl
@[simp] theorem State.takeDraw_arg2 : (s.takeDraw rest).arg2 = s.arg2 := rfl
@[simp] theorem State.takeDraw_arg3 : (s.takeDraw rest).arg3 = s.arg3 := rfl
@[simp] theorem State.takeDraw_res0 : (s.takeDraw rest).res0 = s.res0 := rfl
@[simp] theorem State.takeDraw_res1 : (s.takeDraw rest).res1 = s.res1 := rfl
@[simp] theorem State.takeDraw_res2 : (s.takeDraw rest).res2 = s.res2 := rfl
@[simp] theorem State.takeDraw_res3 : (s.takeDraw rest).res3 = s.res3 := rfl
@[simp] theorem State.takeDraw_status : (s.takeDraw rest).status = s.status := rfl
@[simp] theorem State.takeDraw_faults : (s.takeDraw rest).faults = s.faults := rfl
@[simp] theorem State.takeDraw_halted : (s.takeDraw rest).halted = s.halted := rfl
@[simp] theorem State.takeDraw_faultInfo : (s.takeDraw rest).faultInfo = s.faultInfo := rfl
@[simp] theorem State.takeDraw_inCallback : (s.takeDraw rest).inCallback = s.inCallback := rfl
@[simp] theorem State.takeDraw_inst : (s.takeDraw rest).inst = s.inst := rfl
@[simp] theorem State.takeDraw_buf : (s.takeDraw rest).buf = s.buf := rfl
@[simp] theorem State.takeDraw_regions : (s.takeDraw rest).regions = s.regions := rfl
@[simp] theorem State.takeDraw_wire : (s.takeDraw rest).wire = s.wire := rfl
@[simp] theorem State.takeDraw_out : (s.takeDraw rest).out = s.out := rfl
@[simp] theorem State.takeDraw_epoch : (s.takeDraw rest).epoch = s.epoch := rfl
@[simp] theorem State.takeDraw_agenda : (s.takeDraw rest).agenda = s.agenda := rfl
@[simp] theorem State.takeDraw_tape : (s.takeDraw rest).tape = rest := rfl
@[simp] theorem State.takeDraw_drawn : (s.takeDraw rest).drawn = s.drawn + 1 := rfl

end

/-! ### `takeFault` -/

section

variable (s : State) (f : BlockFault)

@[simp] theorem State.takeFault_par : (s.takeFault f).par = s.par := rfl
@[simp] theorem State.takeFault_cmd : (s.takeFault f).cmd = s.cmd := rfl
@[simp] theorem State.takeFault_arg0 : (s.takeFault f).arg0 = s.arg0 := rfl
@[simp] theorem State.takeFault_arg1 : (s.takeFault f).arg1 = s.arg1 := rfl
@[simp] theorem State.takeFault_arg2 : (s.takeFault f).arg2 = s.arg2 := rfl
@[simp] theorem State.takeFault_arg3 : (s.takeFault f).arg3 = s.arg3 := rfl
@[simp] theorem State.takeFault_res0 : (s.takeFault f).res0 = s.res0 := rfl
@[simp] theorem State.takeFault_res1 : (s.takeFault f).res1 = s.res1 := rfl
@[simp] theorem State.takeFault_res2 : (s.takeFault f).res2 = s.res2 := rfl
@[simp] theorem State.takeFault_res3 : (s.takeFault f).res3 = s.res3 := rfl
@[simp] theorem State.takeFault_status : (s.takeFault f).status = s.status := rfl
@[simp] theorem State.takeFault_faults : (s.takeFault f).faults = f.flag s.faults := rfl
@[simp] theorem State.takeFault_halted : (s.takeFault f).halted = true := rfl
@[simp] theorem State.takeFault_faultInfo : (s.takeFault f).faultInfo = if s.halted then s.faultInfo else some f := rfl
@[simp] theorem State.takeFault_inCallback : (s.takeFault f).inCallback = s.inCallback := rfl
@[simp] theorem State.takeFault_inst : (s.takeFault f).inst = s.inst := rfl
@[simp] theorem State.takeFault_buf : (s.takeFault f).buf = s.buf := rfl
@[simp] theorem State.takeFault_regions : (s.takeFault f).regions = s.regions := rfl
@[simp] theorem State.takeFault_wire : (s.takeFault f).wire = s.wire := rfl
@[simp] theorem State.takeFault_out : (s.takeFault f).out = s.out := rfl
@[simp] theorem State.takeFault_epoch : (s.takeFault f).epoch = s.epoch := rfl
@[simp] theorem State.takeFault_agenda : (s.takeFault f).agenda = s.agenda := rfl
@[simp] theorem State.takeFault_tape : (s.takeFault f).tape = s.tape := rfl
@[simp] theorem State.takeFault_drawn : (s.takeFault f).drawn = s.drawn := rfl

end

/-! ### `writeBytes` -/

section

variable (s : State) (a : Nat) (bs : List Byte)

@[simp] theorem State.writeBytes_par : (s.writeBytes a bs).par = s.par := rfl
@[simp] theorem State.writeBytes_cmd : (s.writeBytes a bs).cmd = s.cmd := rfl
@[simp] theorem State.writeBytes_arg0 : (s.writeBytes a bs).arg0 = s.arg0 := rfl
@[simp] theorem State.writeBytes_arg1 : (s.writeBytes a bs).arg1 = s.arg1 := rfl
@[simp] theorem State.writeBytes_arg2 : (s.writeBytes a bs).arg2 = s.arg2 := rfl
@[simp] theorem State.writeBytes_arg3 : (s.writeBytes a bs).arg3 = s.arg3 := rfl
@[simp] theorem State.writeBytes_res0 : (s.writeBytes a bs).res0 = s.res0 := rfl
@[simp] theorem State.writeBytes_res1 : (s.writeBytes a bs).res1 = s.res1 := rfl
@[simp] theorem State.writeBytes_res2 : (s.writeBytes a bs).res2 = s.res2 := rfl
@[simp] theorem State.writeBytes_res3 : (s.writeBytes a bs).res3 = s.res3 := rfl
@[simp] theorem State.writeBytes_status : (s.writeBytes a bs).status = s.status := rfl
@[simp] theorem State.writeBytes_faults : (s.writeBytes a bs).faults = s.faults := rfl
@[simp] theorem State.writeBytes_halted : (s.writeBytes a bs).halted = s.halted := rfl
@[simp] theorem State.writeBytes_faultInfo : (s.writeBytes a bs).faultInfo = s.faultInfo := rfl
@[simp] theorem State.writeBytes_inCallback : (s.writeBytes a bs).inCallback = s.inCallback := rfl
@[simp] theorem State.writeBytes_inst : (s.writeBytes a bs).inst = s.inst := rfl
@[simp] theorem State.writeBytes_buf : (s.writeBytes a bs).buf = sparseSetRun s.buf a bs := rfl
@[simp] theorem State.writeBytes_regions : (s.writeBytes a bs).regions = s.regions := rfl
@[simp] theorem State.writeBytes_wire : (s.writeBytes a bs).wire = s.wire := rfl
@[simp] theorem State.writeBytes_out : (s.writeBytes a bs).out = s.out := rfl
@[simp] theorem State.writeBytes_epoch : (s.writeBytes a bs).epoch = s.epoch := rfl
@[simp] theorem State.writeBytes_agenda : (s.writeBytes a bs).agenda = s.agenda := rfl
@[simp] theorem State.writeBytes_tape : (s.writeBytes a bs).tape = s.tape := rfl
@[simp] theorem State.writeBytes_drawn : (s.writeBytes a bs).drawn = s.drawn := rfl

end

/-! ### `emit` -/

section

variable (s : State) (o : Out)

@[simp] theorem State.emit_par : (s.emit o).par = s.par := rfl
@[simp] theorem State.emit_cmd : (s.emit o).cmd = s.cmd := rfl
@[simp] theorem State.emit_arg0 : (s.emit o).arg0 = s.arg0 := rfl
@[simp] theorem State.emit_arg1 : (s.emit o).arg1 = s.arg1 := rfl
@[simp] theorem State.emit_arg2 : (s.emit o).arg2 = s.arg2 := rfl
@[simp] theorem State.emit_arg3 : (s.emit o).arg3 = s.arg3 := rfl
@[simp] theorem State.emit_res0 : (s.emit o).res0 = s.res0 := rfl
@[simp] theorem State.emit_res1 : (s.emit o).res1 = s.res1 := rfl
@[simp] theorem State.emit_res2 : (s.emit o).res2 = s.res2 := rfl
@[simp] theorem State.emit_res3 : (s.emit o).res3 = s.res3 := rfl
@[simp] theorem State.emit_status : (s.emit o).status = s.status := rfl
@[simp] theorem State.emit_faults : (s.emit o).faults = s.faults := rfl
@[simp] theorem State.emit_halted : (s.emit o).halted = s.halted := rfl
@[simp] theorem State.emit_faultInfo : (s.emit o).faultInfo = s.faultInfo := rfl
@[simp] theorem State.emit_inCallback : (s.emit o).inCallback = s.inCallback := rfl
@[simp] theorem State.emit_inst : (s.emit o).inst = s.inst := rfl
@[simp] theorem State.emit_buf : (s.emit o).buf = s.buf := rfl
@[simp] theorem State.emit_regions : (s.emit o).regions = s.regions := rfl
@[simp] theorem State.emit_wire : (s.emit o).wire = s.wire := rfl
@[simp] theorem State.emit_out : (s.emit o).out = s.out ++ [o] := rfl
@[simp] theorem State.emit_epoch : (s.emit o).epoch = s.epoch := rfl
@[simp] theorem State.emit_agenda : (s.emit o).agenda = s.agenda := rfl
@[simp] theorem State.emit_tape : (s.emit o).tape = s.tape := rfl
@[simp] theorem State.emit_drawn : (s.emit o).drawn = s.drawn := rfl

end

/-! ### `enterCallback` -/

section

variable (s : State) (o : Out)

@[simp] theorem State.enterCallback_par : (s.enterCallback o).par = s.par := rfl
@[simp] theorem State.enterCallback_cmd : (s.enterCallback o).cmd = s.cmd := rfl
@[simp] theorem State.enterCallback_arg0 : (s.enterCallback o).arg0 = s.arg0 := rfl
@[simp] theorem State.enterCallback_arg1 : (s.enterCallback o).arg1 = s.arg1 := rfl
@[simp] theorem State.enterCallback_arg2 : (s.enterCallback o).arg2 = s.arg2 := rfl
@[simp] theorem State.enterCallback_arg3 : (s.enterCallback o).arg3 = s.arg3 := rfl
@[simp] theorem State.enterCallback_res0 : (s.enterCallback o).res0 = s.res0 := rfl
@[simp] theorem State.enterCallback_res1 : (s.enterCallback o).res1 = s.res1 := rfl
@[simp] theorem State.enterCallback_res2 : (s.enterCallback o).res2 = s.res2 := rfl
@[simp] theorem State.enterCallback_res3 : (s.enterCallback o).res3 = s.res3 := rfl
@[simp] theorem State.enterCallback_status : (s.enterCallback o).status = s.status := rfl
@[simp] theorem State.enterCallback_faults : (s.enterCallback o).faults = s.faults := rfl
@[simp] theorem State.enterCallback_halted : (s.enterCallback o).halted = s.halted := rfl
@[simp] theorem State.enterCallback_faultInfo : (s.enterCallback o).faultInfo = s.faultInfo := rfl
@[simp] theorem State.enterCallback_inCallback : (s.enterCallback o).inCallback = s.inCallback + 1 := rfl
@[simp] theorem State.enterCallback_inst : (s.enterCallback o).inst = s.inst := rfl
@[simp] theorem State.enterCallback_buf : (s.enterCallback o).buf = s.buf := rfl
@[simp] theorem State.enterCallback_regions : (s.enterCallback o).regions = s.regions := rfl
@[simp] theorem State.enterCallback_wire : (s.enterCallback o).wire = s.wire := rfl
@[simp] theorem State.enterCallback_out : (s.enterCallback o).out = s.out ++ [o] := rfl
@[simp] theorem State.enterCallback_epoch : (s.enterCallback o).epoch = s.epoch := rfl
@[simp] theorem State.enterCallback_agenda : (s.enterCallback o).agenda = s.agenda := rfl
@[simp] theorem State.enterCallback_tape : (s.enterCallback o).tape = s.tape := rfl
@[simp] theorem State.enterCallback_drawn : (s.enterCallback o).drawn = s.drawn := rfl

end

/-! ### `leaveCallback` -/

section

variable (s : State) 

@[simp] theorem State.leaveCallback_par : (s.leaveCallback).par = s.par := rfl
@[simp] theorem State.leaveCallback_cmd : (s.leaveCallback).cmd = s.cmd := rfl
@[simp] theorem State.leaveCallback_arg0 : (s.leaveCallback).arg0 = s.arg0 := rfl
@[simp] theorem State.leaveCallback_arg1 : (s.leaveCallback).arg1 = s.arg1 := rfl
@[simp] theorem State.leaveCallback_arg2 : (s.leaveCallback).arg2 = s.arg2 := rfl
@[simp] theorem State.leaveCallback_arg3 : (s.leaveCallback).arg3 = s.arg3 := rfl
@[simp] theorem State.leaveCallback_res0 : (s.leaveCallback).res0 = s.res0 := rfl
@[simp] theorem State.leaveCallback_res1 : (s.leaveCallback).res1 = s.res1 := rfl
@[simp] theorem State.leaveCallback_res2 : (s.leaveCallback).res2 = s.res2 := rfl
@[simp] theorem State.leaveCallback_res3 : (s.leaveCallback).res3 = s.res3 := rfl
@[simp] theorem State.leaveCallback_status : (s.leaveCallback).status = s.status := rfl
@[simp] theorem State.leaveCallback_faults : (s.leaveCallback).faults = s.faults := rfl
@[simp] theorem State.leaveCallback_halted : (s.leaveCallback).halted = s.halted := rfl
@[simp] theorem State.leaveCallback_faultInfo : (s.leaveCallback).faultInfo = s.faultInfo := rfl
@[simp] theorem State.leaveCallback_inCallback : (s.leaveCallback).inCallback = s.inCallback - 1 := rfl
@[simp] theorem State.leaveCallback_inst : (s.leaveCallback).inst = s.inst := rfl
@[simp] theorem State.leaveCallback_buf : (s.leaveCallback).buf = s.buf := rfl
@[simp] theorem State.leaveCallback_regions : (s.leaveCallback).regions = s.regions := rfl
@[simp] theorem State.leaveCallback_wire : (s.leaveCallback).wire = s.wire := rfl
@[simp] theorem State.leaveCallback_out : (s.leaveCallback).out = s.out := rfl
@[simp] theorem State.leaveCallback_epoch : (s.leaveCallback).epoch = s.epoch := rfl
@[simp] theorem State.leaveCallback_agenda : (s.leaveCallback).agenda = s.agenda := rfl
@[simp] theorem State.leaveCallback_tape : (s.leaveCallback).tape = s.tape := rfl
@[simp] theorem State.leaveCallback_drawn : (s.leaveCallback).drawn = s.drawn := rfl

end

/-! ### `addRegion` -/

section

variable (s : State) (r : Nat × Nat)

@[simp] theorem State.addRegion_par : (s.addRegion r).par = s.par := rfl
@[simp] theorem State.addRegion_cmd : (s.addRegion r).cmd = s.cmd := rfl
@[simp] theorem State.addRegion_arg0 : (s.addRegion r).arg0 = s.arg0 := rfl
@[simp] theorem State.addRegion_arg1 : (s.addRegion r).arg1 = s.arg1 := rfl
@[simp] theorem State.addRegion_arg2 : (s.addRegion r).arg2 = s.arg2 := rfl
@[simp] theorem State.addRegion_arg3 : (s.addRegion r).arg3 = s.arg3 := rfl
@[simp] theorem State.addRegion_res0 : (s.addRegion r).res0 = s.res0 := rfl
@[simp] theorem State.addRegion_res1 : (s.addRegion r).res1 = s.res1 := rfl
@[simp] theorem State.addRegion_res2 : (s.addRegion r).res2 = s.res2 := rfl
@[simp] theorem State.addRegion_res3 : (s.addRegion r).res3 = s.res3 := rfl
@[simp] theorem State.addRegion_status : (s.addRegion r).status = s.status := rfl
@[simp] theorem State.addRegion_faults : (s.addRegion r).faults = s.faults := rfl
@[simp] theorem State.addRegion_halted : (s.addRegion r).halted = s.halted := rfl
@[simp] theorem State.addRegion_faultInfo : (s.addRegion r).faultInfo = s.faultInfo := rfl
@[simp] theorem State.addRegion_inCallback : (s.addRegion r).inCallback = s.inCallback := rfl
@[simp] theorem State.addRegion_inst : (s.addRegion r).inst = s.inst := rfl
@[simp] theorem State.addRegion_buf : (s.addRegion r).buf = s.buf := rfl
@[simp] theorem State.addRegion_regions : (s.addRegion r).regions = s.regions ++ [r] := rfl
@[simp] theorem State.addRegion_wire : (s.addRegion r).wire = s.wire := rfl
@[simp] theorem State.addRegion_out : (s.addRegion r).out = s.out := rfl
@[simp] theorem State.addRegion_epoch : (s.addRegion r).epoch = s.epoch := rfl
@[simp] theorem State.addRegion_agenda : (s.addRegion r).agenda = s.agenda := rfl
@[simp] theorem State.addRegion_tape : (s.addRegion r).tape = s.tape := rfl
@[simp] theorem State.addRegion_drawn : (s.addRegion r).drawn = s.drawn := rfl

end

/-! ### `appendWire` -/

section

variable (s : State) (p : WirePacket)

@[simp] theorem State.appendWire_par : (s.appendWire p).par = s.par := rfl
@[simp] theorem State.appendWire_cmd : (s.appendWire p).cmd = s.cmd := rfl
@[simp] theorem State.appendWire_arg0 : (s.appendWire p).arg0 = s.arg0 := rfl
@[simp] theorem State.appendWire_arg1 : (s.appendWire p).arg1 = s.arg1 := rfl
@[simp] theorem State.appendWire_arg2 : (s.appendWire p).arg2 = s.arg2 := rfl
@[simp] theorem State.appendWire_arg3 : (s.appendWire p).arg3 = s.arg3 := rfl
@[simp] theorem State.appendWire_res0 : (s.appendWire p).res0 = s.res0 := rfl
@[simp] theorem State.appendWire_res1 : (s.appendWire p).res1 = s.res1 := rfl
@[simp] theorem State.appendWire_res2 : (s.appendWire p).res2 = s.res2 := rfl
@[simp] theorem State.appendWire_res3 : (s.appendWire p).res3 = s.res3 := rfl
@[simp] theorem State.appendWire_status : (s.appendWire p).status = s.status := rfl
@[simp] theorem State.appendWire_faults : (s.appendWire p).faults = s.faults := rfl
@[simp] theorem State.appendWire_halted : (s.appendWire p).halted = s.halted := rfl
@[simp] theorem State.appendWire_faultInfo : (s.appendWire p).faultInfo = s.faultInfo := rfl
@[simp] theorem State.appendWire_inCallback : (s.appendWire p).inCallback = s.inCallback := rfl
@[simp] theorem State.appendWire_inst : (s.appendWire p).inst = s.inst := rfl
@[simp] theorem State.appendWire_buf : (s.appendWire p).buf = s.buf := rfl
@[simp] theorem State.appendWire_regions : (s.appendWire p).regions = s.regions := rfl
@[simp] theorem State.appendWire_wire : (s.appendWire p).wire = s.wire ++ [p] := rfl
@[simp] theorem State.appendWire_out : (s.appendWire p).out = s.out := rfl
@[simp] theorem State.appendWire_epoch : (s.appendWire p).epoch = s.epoch := rfl
@[simp] theorem State.appendWire_agenda : (s.appendWire p).agenda = s.agenda := rfl
@[simp] theorem State.appendWire_tape : (s.appendWire p).tape = s.tape := rfl
@[simp] theorem State.appendWire_drawn : (s.appendWire p).drawn = s.drawn := rfl

end

/-! ### `setInst` -/

section

variable (s : State) (e : Nat) (x : Inst)

@[simp] theorem State.setInst_par : (s.setInst e x).par = s.par := rfl
@[simp] theorem State.setInst_cmd : (s.setInst e x).cmd = s.cmd := rfl
@[simp] theorem State.setInst_arg0 : (s.setInst e x).arg0 = s.arg0 := rfl
@[simp] theorem State.setInst_arg1 : (s.setInst e x).arg1 = s.arg1 := rfl
@[simp] theorem State.setInst_arg2 : (s.setInst e x).arg2 = s.arg2 := rfl
@[simp] theorem State.setInst_arg3 : (s.setInst e x).arg3 = s.arg3 := rfl
@[simp] theorem State.setInst_res0 : (s.setInst e x).res0 = s.res0 := rfl
@[simp] theorem State.setInst_res1 : (s.setInst e x).res1 = s.res1 := rfl
@[simp] theorem State.setInst_res2 : (s.setInst e x).res2 = s.res2 := rfl
@[simp] theorem State.setInst_res3 : (s.setInst e x).res3 = s.res3 := rfl
@[simp] theorem State.setInst_status : (s.setInst e x).status = s.status := rfl
@[simp] theorem State.setInst_faults : (s.setInst e x).faults = s.faults := rfl
@[simp] theorem State.setInst_halted : (s.setInst e x).halted = s.halted := rfl
@[simp] theorem State.setInst_faultInfo : (s.setInst e x).faultInfo = s.faultInfo := rfl
@[simp] theorem State.setInst_inCallback : (s.setInst e x).inCallback = s.inCallback := rfl
@[simp] theorem State.setInst_inst : (s.setInst e x).inst = s.inst.set e x := rfl
@[simp] theorem State.setInst_buf : (s.setInst e x).buf = s.buf := rfl
@[simp] theorem State.setInst_regions : (s.setInst e x).regions = s.regions := rfl
@[simp] theorem State.setInst_wire : (s.setInst e x).wire = s.wire := rfl
@[simp] theorem State.setInst_out : (s.setInst e x).out = s.out := rfl
@[simp] theorem State.setInst_epoch : (s.setInst e x).epoch = s.epoch := rfl
@[simp] theorem State.setInst_agenda : (s.setInst e x).agenda = s.agenda := rfl
@[simp] theorem State.setInst_tape : (s.setInst e x).tape = s.tape := rfl
@[simp] theorem State.setInst_drawn : (s.setInst e x).drawn = s.drawn := rfl

end

/-! ### `modEng` -/

section

variable (s : State) (e : Nat) (f : Eng → Eng)

@[simp] theorem State.modEng_par : (s.modEng e f).par = s.par := rfl
@[simp] theorem State.modEng_cmd : (s.modEng e f).cmd = s.cmd := rfl
@[simp] theorem State.modEng_arg0 : (s.modEng e f).arg0 = s.arg0 := rfl
@[simp] theorem State.modEng_arg1 : (s.modEng e f).arg1 = s.arg1 := rfl
@[simp] theorem State.modEng_arg2 : (s.modEng e f).arg2 = s.arg2 := rfl
@[simp] theorem State.modEng_arg3 : (s.modEng e f).arg3 = s.arg3 := rfl
@[simp] theorem State.modEng_res0 : (s.modEng e f).res0 = s.res0 := rfl
@[simp] theorem State.modEng_res1 : (s.modEng e f).res1 = s.res1 := rfl
@[simp] theorem State.modEng_res2 : (s.modEng e f).res2 = s.res2 := rfl
@[simp] theorem State.modEng_res3 : (s.modEng e f).res3 = s.res3 := rfl
@[simp] theorem State.modEng_status : (s.modEng e f).status = s.status := rfl
@[simp] theorem State.modEng_faults : (s.modEng e f).faults = s.faults := rfl
@[simp] theorem State.modEng_halted : (s.modEng e f).halted = s.halted := rfl
@[simp] theorem State.modEng_faultInfo : (s.modEng e f).faultInfo = s.faultInfo := rfl
@[simp] theorem State.modEng_inCallback : (s.modEng e f).inCallback = s.inCallback := rfl
@[simp] theorem State.modEng_inst : (s.modEng e f).inst = s.inst.set e { s.instAt e with eng := f (s.eng e) } := rfl
@[simp] theorem State.modEng_buf : (s.modEng e f).buf = s.buf := rfl
@[simp] theorem State.modEng_regions : (s.modEng e f).regions = s.regions := rfl
@[simp] theorem State.modEng_wire : (s.modEng e f).wire = s.wire := rfl
@[simp] theorem State.modEng_out : (s.modEng e f).out = s.out := rfl
@[simp] theorem State.modEng_epoch : (s.modEng e f).epoch = s.epoch := rfl
@[simp] theorem State.modEng_agenda : (s.modEng e f).agenda = s.agenda := rfl
@[simp] theorem State.modEng_tape : (s.modEng e f).tape = s.tape := rfl
@[simp] theorem State.modEng_drawn : (s.modEng e f).drawn = s.drawn := rfl

end

/-! ### `modDvr` -/

section

variable (s : State) (e : Nat) (f : Dvr → Dvr)

@[simp] theorem State.modDvr_par : (s.modDvr e f).par = s.par := rfl
@[simp] theorem State.modDvr_cmd : (s.modDvr e f).cmd = s.cmd := rfl
@[simp] theorem State.modDvr_arg0 : (s.modDvr e f).arg0 = s.arg0 := rfl
@[simp] theorem State.modDvr_arg1 : (s.modDvr e f).arg1 = s.arg1 := rfl
@[simp] theorem State.modDvr_arg2 : (s.modDvr e f).arg2 = s.arg2 := rfl
@[simp] theorem State.modDvr_arg3 : (s.modDvr e f).arg3 = s.arg3 := rfl
@[simp] theorem State.modDvr_res0 : (s.modDvr e f).res0 = s.res0 := rfl
@[simp] theorem State.modDvr_res1 : (s.modDvr e f).res1 = s.res1 := rfl
@[simp] theorem State.modDvr_res2 : (s.modDvr e f).res2 = s.res2 := rfl
@[simp] theorem State.modDvr_res3 : (s.modDvr e f).res3 = s.res3 := rfl
@[simp] theorem State.modDvr_status : (s.modDvr e f).status = s.status := rfl
@[simp] theorem State.modDvr_faults : (s.modDvr e f).faults = s.faults := rfl
@[simp] theorem State.modDvr_halted : (s.modDvr e f).halted = s.halted := rfl
@[simp] theorem State.modDvr_faultInfo : (s.modDvr e f).faultInfo = s.faultInfo := rfl
@[simp] theorem State.modDvr_inCallback : (s.modDvr e f).inCallback = s.inCallback := rfl
@[simp] theorem State.modDvr_inst : (s.modDvr e f).inst = s.inst.set e { s.instAt e with dvr := f (s.dvr e) } := rfl
@[simp] theorem State.modDvr_buf : (s.modDvr e f).buf = s.buf := rfl
@[simp] theorem State.modDvr_regions : (s.modDvr e f).regions = s.regions := rfl
@[simp] theorem State.modDvr_wire : (s.modDvr e f).wire = s.wire := rfl
@[simp] theorem State.modDvr_out : (s.modDvr e f).out = s.out := rfl
@[simp] theorem State.modDvr_epoch : (s.modDvr e f).epoch = s.epoch := rfl
@[simp] theorem State.modDvr_agenda : (s.modDvr e f).agenda = s.agenda := rfl
@[simp] theorem State.modDvr_tape : (s.modDvr e f).tape = s.tape := rfl
@[simp] theorem State.modDvr_drawn : (s.modDvr e f).drawn = s.drawn := rfl

end

/-! ### `modDvt` -/

section

variable (s : State) (e : Nat) (f : Dvt → Dvt)

@[simp] theorem State.modDvt_par : (s.modDvt e f).par = s.par := rfl
@[simp] theorem State.modDvt_cmd : (s.modDvt e f).cmd = s.cmd := rfl
@[simp] theorem State.modDvt_arg0 : (s.modDvt e f).arg0 = s.arg0 := rfl
@[simp] theorem State.modDvt_arg1 : (s.modDvt e f).arg1 = s.arg1 := rfl
@[simp] theorem State.modDvt_arg2 : (s.modDvt e f).arg2 = s.arg2 := rfl
@[simp] theorem State.modDvt_arg3 : (s.modDvt e f).arg3 = s.arg3 := rfl
@[simp] theorem State.modDvt_res0 : (s.modDvt e f).res0 = s.res0 := rfl
@[simp] theorem State.modDvt_res1 : (s.modDvt e f).res1 = s.res1 := rfl
@[simp] theorem State.modDvt_res2 : (s.modDvt e f).res2 = s.res2 := rfl
@[simp] theorem State.modDvt_res3 : (s.modDvt e f).res3 = s.res3 := rfl
@[simp] theorem State.modDvt_status : (s.modDvt e f).status = s.status := rfl
@[simp] theorem State.modDvt_faults : (s.modDvt e f).faults = s.faults := rfl
@[simp] theorem State.modDvt_halted : (s.modDvt e f).halted = s.halted := rfl
@[simp] theorem State.modDvt_faultInfo : (s.modDvt e f).faultInfo = s.faultInfo := rfl
@[simp] theorem State.modDvt_inCallback : (s.modDvt e f).inCallback = s.inCallback := rfl
@[simp] theorem State.modDvt_inst : (s.modDvt e f).inst = s.inst.set e { s.instAt e with dvt := f (s.dvt e) } := rfl
@[simp] theorem State.modDvt_buf : (s.modDvt e f).buf = s.buf := rfl
@[simp] theorem State.modDvt_regions : (s.modDvt e f).regions = s.regions := rfl
@[simp] theorem State.modDvt_wire : (s.modDvt e f).wire = s.wire := rfl
@[simp] theorem State.modDvt_out : (s.modDvt e f).out = s.out := rfl
@[simp] theorem State.modDvt_epoch : (s.modDvt e f).epoch = s.epoch := rfl
@[simp] theorem State.modDvt_agenda : (s.modDvt e f).agenda = s.agenda := rfl
@[simp] theorem State.modDvt_tape : (s.modDvt e f).tape = s.tape := rfl
@[simp] theorem State.modDvt_drawn : (s.modDvt e f).drawn = s.drawn := rfl

end

/-! ### `modTs` -/

section

variable (s : State) (e : Nat) (f : Ts → Ts)

@[simp] theorem State.modTs_par : (s.modTs e f).par = s.par := rfl
@[simp] theorem State.modTs_cmd : (s.modTs e f).cmd = s.cmd := rfl
@[simp] theorem State.modTs_arg0 : (s.modTs e f).arg0 = s.arg0 := rfl
@[simp] theorem State.modTs_arg1 : (s.modTs e f).arg1 = s.arg1 := rfl
@[simp] theorem State.modTs_arg2 : (s.modTs e f).arg2 = s.arg2 := rfl
@[simp] theorem State.modTs_arg3 : (s.modTs e f).arg3 = s.arg3 := rfl
@[simp] theorem State.modTs_res0 : (s.modTs e f).res0 = s.res0 := rfl
@[simp] theorem State.modTs_res1 : (s.modTs e f).res1 = s.res1 := rfl
@[simp] theorem State.modTs_res2 : (s.modTs e f).res2 = s.res2 := rfl
@[simp] theorem State.modTs_res3 : (s.modTs e f).res3 = s.res3 := rfl
@[simp] theorem State.modTs_status : (s.modTs e f).status = s.status := rfl
@[simp] theorem State.modTs_faults : (s.modTs e f).faults = s.faults := rfl
@[simp] theorem State.modTs_halted : (s.modTs e f).halted = s.halted := rfl
@[simp] theorem State.modTs_faultInfo : (s.modTs e f).faultInfo = s.faultInfo := rfl
@[simp] theorem State.modTs_inCallback : (s.modTs e f).inCallback = s.inCallback := rfl
@[simp] theorem State.modTs_inst : (s.modTs e f).inst = s.inst.set e { s.instAt e with ts := f (s.ts e) } := rfl
@[simp] theorem State.modTs_buf : (s.modTs e f).buf = s.buf := rfl
@[simp] theorem State.modTs_regions : (s.modTs e f).regions = s.regions := rfl
@[simp] theorem State.modTs_wire : (s.modTs e f).wire = s.wire := rfl
@[simp] theorem State.modTs_out : (s.modTs e f).out = s.out := rfl
@[simp] theorem State.modTs_epoch : (s.modTs e f).epoch = s.epoch := rfl
@[simp] theorem State.modTs_agenda : (s.modTs e f).agenda = s.agenda := rfl
@[simp] theorem State.modTs_tape : (s.modTs e f).tape = s.tape := rfl
@[simp] theorem State.modTs_drawn : (s.modTs e f).drawn = s.drawn := rfl

end

end Sys2Proof.Machine
end

