-- ==== Sys2Proof/Laws/Run.lean ====
section
/-! SUPPORT. How a step's computation runs: one equation for each way to put computations together and
for each shared operation, so that no later proof unfolds them. -/

namespace Sys2Proof.Machine

section

variable {α β : Type} (s : State)

@[simp] theorem run_bind (m : M α) (k : α → M β) :
    (m >>= k) s = match m s with
      | .ok a t => k a t
      | .error r t => .error r t := by
  show EStateM.bind m k s = _
  unfold EStateM.bind
  cases m s <;> rfl

@[simp] theorem run_map (g : α → β) (m : M α) :
    (g <$> m) s = match m s with
      | .ok a t => .ok (g a) t
      | .error r t => .error r t := by
  show EStateM.map g m s = _
  unfold EStateM.map
  cases m s <;> rfl

@[simp] theorem run_pure (a : α) : (pure a : M α) s = .ok a s := rfl

@[simp] theorem run_getState : getState s = .ok s s := rfl
@[simp] theorem run_getEng (e : Nat) : getEng e s = .ok (s.eng e) s := rfl
@[simp] theorem run_getDvr (e : Nat) : getDvr e s = .ok (s.dvr e) s := rfl
@[simp] theorem run_getDvt (e : Nat) : getDvt e s = .ok (s.dvt e) s := rfl
@[simp] theorem run_getTs (e : Nat) : getTs e s = .ok (s.ts e) s := rfl
@[simp] theorem run_getPar : getPar s = .ok s.par s := rfl
@[simp] theorem run_update (f : State → State) : update f s = .ok () (f s) := rfl
@[simp] theorem run_modEng (e : Nat) (f : Eng → Eng) : modEng e f s = .ok () (s.modEng e f) := rfl
@[simp] theorem run_modDvr (e : Nat) (f : Dvr → Dvr) : modDvr e f s = .ok () (s.modDvr e f) := rfl
@[simp] theorem run_modDvt (e : Nat) (f : Dvt → Dvt) : modDvt e f s = .ok () (s.modDvt e f) := rfl
@[simp] theorem run_modTs (e : Nat) (f : Ts → Ts) : modTs e f s = .ok () (s.modTs e f) := rfl
@[simp] theorem run_writeRes0 (v : Word) : writeRes0 v s = .ok () (s.setRes0 v) := rfl
@[simp] theorem run_writeRes1 (v : Word) : writeRes1 v s = .ok () (s.setRes1 v) := rfl
@[simp] theorem run_writeRes2 (v : Word) : writeRes2 v s = .ok () (s.setRes2 v) := rfl
@[simp] theorem run_writeRes3 (v : Word) : writeRes3 v s = .ok () (s.setRes3 v) := rfl
@[simp] theorem run_answer (c : Status) : answer c s = .ok (some c) s := rfl
@[simp] theorem run_raise (f : BlockFault) : (raise f : M α) s = .error .fault (s.takeFault f) := rfl

@[simp] theorem run_ite (c : Prop) [Decidable c] (m n : M α) :
    (if c then m else n) s = if c then m s else n s := by split <;> rfl

@[simp] theorem finalState_ok (a : α) (t : State) : finalState (.ok a t) = t := rfl
@[simp] theorem finalState_error (r : Cut) (t : State) :
    finalState (.error r t : EStateM.Result Cut State α) = t := rfl
@[simp] theorem run_checkReset_true : checkReset true s = .error .reset s := rfl
@[simp] theorem run_checkReset_false : checkReset false s = .ok () s := rfl
@[simp] theorem stepEnd_ok (a : α) (t : State) : stepEnd (.ok a t) = t := rfl
@[simp] theorem stepEnd_fault (t : State) :
    stepEnd (.error .fault t : EStateM.Result Cut State α) = t := rfl
@[simp] theorem stepEnd_reset (t : State) :
    stepEnd (.error .reset t : EStateM.Result Cut State α) = t.resetBlock := rfl

end

/-- A read of BUF: the bytes, when the whole range is inside BUF (20_memory.md R62). -/
theorem run_memRead_ok {a n : Nat} {s : State} (h : a + n ≤ s.par.bufBytes) :
    memRead a n s = .ok (s.readBytes a n) s := by simp [memRead, h]

/-- A read of BUF that leaves it raises before anything is read (R62). -/
theorem run_memRead_bad {a n : Nat} {s : State} (h : ¬ a + n ≤ s.par.bufBytes) :
    memRead a n s = .error .fault (s.takeFault (.badAddress a n)) := by simp [memRead, h]

/-- A write to BUF, when the whole range is inside BUF (R62). -/
theorem run_memWrite_ok {a : Nat} {bs : List Byte} {s : State}
    (h : a + bs.length ≤ s.par.bufBytes) :
    memWrite a bs s = .ok () (s.writeBytes a bs) := by simp [memWrite, h]

/-- A write to BUF that leaves it raises before any byte is written (R62). -/
theorem run_memWrite_bad {a : Nat} {bs : List Byte} {s : State}
    (h : ¬ a + bs.length ≤ s.par.bufBytes) :
    memWrite a bs s = .error .fault (s.takeFault (.badAddress a bs.length)) := by simp [memWrite, h]

/-- A memory-port write of one byte (20_memory.md R62, R67). -/
theorem run_portWrite (a : Nat) (b : Byte) (s : State) :
    portWrite a b s = if a < s.par.bufBytes then .ok () (s.writeBytes a [b])
      else .error .fault (s.takeFault (.badAddress a 1)) := by
  unfold portWrite
  split
  · next h => exact run_memWrite_ok (by simpa using h)
  · next h => exact run_memWrite_bad (by simpa using h)

/-- A memory-port read of one byte (20_memory.md R62, R67). -/
theorem run_portRead (a : Nat) (s : State) :
    portRead a s = if a < s.par.bufBytes then .ok () s
      else .error .fault (s.takeFault (.badAddress a 1)) := by
  unfold portRead
  rw [run_bind]
  by_cases h : a < s.par.bufBytes
  · rw [run_memRead_ok (by omega), if_pos h]
    rfl
  · rw [run_memRead_bad (by omega), if_neg h]

/-- A draw answered by the tape (log 2). -/
theorem run_draw_tape {s : State} {d : Draw} {ds : List Draw} (h : s.tape = d :: ds) :
    draw s = .ok d (s.takeDraw ds) := by simp [draw, h]

/-- A draw beyond the tape is a free value (log 2). -/
theorem run_draw_free {s : State} (h : s.tape = []) :
    draw s = .ok (Config.draw s.drawn) (s.takeDraw []) := by simp [draw, h]

/-- A legal cycle time passes its check (41_cycle_time.md R141). -/
theorem run_chk_ok {t : Word} {s : State} (h : ctLegal t) : chk t s = .ok () s := by
  simp only [chk, if_pos h, run_pure]

/-- An illegal cycle time raises (R141). -/
theorem run_chk_bad {t : Word} {s : State} (h : ¬ ctLegal t) :
    chk t s = .error .fault (s.takeFault (.ctRange t)) := by
  simp only [chk, if_neg h, run_raise]

/-- A quiet callback: the call goes out and one answer is taken
(60_exceptions.md R318). -/
theorem run_callback_quiet {s : State} {o : Out} {d : Draw} {ds : List Draw}
    (h : s.tape = d :: ds) (hd : d.quiet) :
    callback o s = .ok d ((s.emit o).takeDraw ds) := by
  simp [callback, run_draw_tape (s := s.enterCallback o) (d := d) (ds := ds) (by simpa using h),
    hd.1, hd.2, clientActs]
  rfl

/-- The same for a callback whose answer is not used. -/
theorem run_notify_quiet {s : State} {o : Out} {d : Draw} {ds : List Draw}
    (h : s.tape = d :: ds) (hd : d.quiet) :
    notify o s = .ok () ((s.emit o).takeDraw ds) := by
  simp [notify, run_callback_quiet h hd]

/-- The same for a message callback (47_control.md R304). -/
theorem run_engMsg_quiet {s : State} {e : Nat} {info : Option Nat} {m : Msg} {d : Draw} {ds : List Draw}
    (h : s.tape = d :: ds) (hd : d.quiet) :
    engMsg e m info s = .ok () ((s.emit (.engMsg e m info)).takeDraw ds) :=
  run_notify_quiet h hd

/-- A request takes one answer. -/
theorem run_request_tape {s : State} {o : Out} {d : Draw} {ds : List Draw} (h : s.tape = d :: ds) :
    request o s = .ok d ((s.emit o).takeDraw ds) := by
  simp [request, run_draw_tape (s := s.emit o) (d := d) (ds := ds) (by simpa using h)]

/-- The allocator's answer: a region as 20_memory.md R69 describes it, or `fail` (log 10). -/
theorem run_alloc {s : State} {e size : Nat} {d : Draw} {ds : List Draw} (h : s.tape = d :: ds) :
    alloc e size s =
      if d.status = 0 ∧ s.allocatable (d.word.toNat, size) = true then
        .ok (some d.word) (((s.emit (.alloc e size)).takeDraw ds).addRegion (d.word.toNat, size))
      else .ok none ((s.emit (.alloc e size)).takeDraw ds) := by
  simp only [alloc, run_bind, run_request_tape h, run_getState, drawAgrees, beq_iff_eq]
  have ha : ((s.emit (.alloc e size)).takeDraw ds).allocatable (d.word.toNat, size) =
      s.allocatable (d.word.toNat, size) := rfl
  rw [ha]
  split <;> simp

/-- The Port Engine starts (20_memory.md R71). -/
theorem run_peStart_ok {s : State} {e : Nat} {d : Draw} {ds : List Draw} (h : s.tape = d :: ds)
    (hd : d.status = 0) :
    peStart e s = .ok (some d.word) (((s.emit (.peStart e (s.eng e).channel)).takeDraw ds).modEng e
      (fun g => { g with peRunning := true, peSeg := 0 })) := by
  simp [peStart, run_request_tape h, drawAgrees, hd]

/-- The Port Engine refuses to start (R71). -/
theorem run_peStart_fail {s : State} {e : Nat} {d : Draw} {ds : List Draw} (h : s.tape = d :: ds)
    (hd : d.status ≠ 0) :
    peStart e s = .ok none ((s.emit (.peStart e (s.eng e).channel)).takeDraw ds) := by
  have hd' : drawAgrees d = false := by simpa [drawAgrees] using hd
  simp [peStart, run_request_tape h, hd']

/-- The Port Engine stops and owes a FINALIZE (R71). -/
theorem run_peStop (s : State) (e : Nat) :
    peStop e s = .ok () ((s.emit (.peStop e)).modEng e (fun g =>
      { g with peRunning := false, peStops := g.peStops + 1, finalizeOwed := g.finalizeOwed + 1 })) := by
  simp [peStop]

/-- A legal cycle time advanced by some cycles (41_cycle_time.md R146). -/
theorem run_addCycles_ok {t : Word} {s : State} (h : ctLegal t) (k : Nat) :
    addCycles t k s = .ok (ctSum t (ctCycles k)) s := by
  simp [addCycles, run_chk_ok h]

/-- An illegal cycle time raises before it is advanced (R141, R146). -/
theorem run_addCycles_bad {t : Word} {s : State} (h : ¬ ctLegal t) (k : Nat) :
    addCycles t k s = .error .fault (s.takeFault (.ctRange t)) := by
  simp [addCycles, run_chk_bad h]

end Sys2Proof.Machine
end

