-- ==== Sys2Proof/Laws/Command.lean ====
section
/-! SUPPORT. How an instruction runs around its own pseudocode: the checks of the decode order, then the
body, then the status (spec/60_exceptions.md R320, R311). -/

namespace Sys2Proof.Machine

/-- The state in which a command that has passed its checks ends. -/
def endCommand : EStateM.Result Cut State (Option Status) → State
  | .ok (some c) t => t.setStatus c
  | .ok none t => t
  | .error .fault t => t
  | .error .reset t => t.resetBlock

@[simp] theorem endCommand_some (c : Status) (t : State) :
    endCommand (.ok (some c) t) = t.setStatus c := rfl
@[simp] theorem endCommand_none (t : State) : endCommand (.ok none t) = t := rfl
@[simp] theorem endCommand_fault (t : State) : endCommand (.error .fault t) = t := rfl
@[simp] theorem endCommand_reset (t : State) :
    endCommand (.error .reset t) = t.resetBlock := rfl

section

variable {i : Instr} {body : M (Option Status)} {s : State}

/-- A halted block ignores a command (R320 check 1). -/
theorem asCommand_halted (h : s.halted = true) : asCommand i body s = .next s := by
  simp [asCommand, h]

/-- A command that names no existing instance answers BadArgument (check 3). -/
theorem asCommand_noInstance (h : s.halted = false) (hi : s.hasInstance i = false) :
    asCommand i body s = .next (s.setStatus .badArgument) := by
  simp [asCommand, runCommand, h, hi]

/-- A command that may not run inside a callback raises there (check 4). -/
theorem asCommand_reentrant (h : s.halted = false) (hi : s.hasInstance i = true)
    (hc : 0 < s.inCallback) (hn : nestable i = false) :
    asCommand i body s = .next (s.takeFault (.reentrant (encodeWord i))) := by
  simp [asCommand, runCommand, h, hi, hc, hn]

/-- A command that passes the checks runs its pseudocode and ends with its status (check 5). -/
theorem asCommand_run (h : s.halted = false) (hi : s.hasInstance i = true)
    (hn : s.inCallback = 0 ∨ nestable i = true) :
    asCommand i body s = .next (endCommand (body s)) := by
  have h4 : ¬ (0 < s.inCallback ∧ nestable i = false) := by
    rcases hn with hn | hn <;> simp [hn]
  simp only [asCommand, h, runCommand, hi, if_neg h4]
  cases body s with
  | ok a t => cases a <;> rfl
  | error r t => cases r <;> rfl

/-- The same for a command of a unit whose commands name an instance. -/
theorem asCommand_run_instance {e : Nat} (hname : namedInstance i = some e) (h : s.halted = false)
    (he : e < s.inst.length) (hn : s.inCallback = 0 ∨ nestable i = true) :
    asCommand i body s = .next (endCommand (body s)) :=
  asCommand_run h (by simp [State.hasInstance, hname, State.eInst, he]) hn

end

/-- A halted block consumes no event (R314). -/
theorem asEvent_halted {e : Nat} {body : M Unit} {s : State} (h : s.halted = true) :
    asEvent e body s = .next s := by
  simp [asEvent, h]

/-- An event of an existing instance runs its pseudocode (R320). -/
theorem asEvent_run {e : Nat} {body : M Unit} {s : State} (h : s.halted = false)
    (he : e < s.inst.length) : asEvent e body s = .next (stepEnd (body s)) := by
  simp [asEvent, h, State.eInst, he]

/-- Every command's meaning is its pseudocode behind the checks of the decode order. -/
theorem exec_command {i : Instr} (h : i.isEvent = false) :
    ∃ body, ∀ s, exec i s = asCommand i body s := by
  cases i <;> first | (simp [Instr.isEvent] at h; done) | exact ⟨_, fun _ => rfl⟩

/-- Every event's meaning is its pseudocode on its own instance. -/
theorem exec_event {i : Instr} (h : i.isEvent = true) :
    ∃ e body, namedInstance i = some e ∧ ∀ s, exec i s = asEvent e body s := by
  cases i <;> first | (simp [Instr.isEvent] at h; done) | exact ⟨_, _, rfl, fun _ => rfl⟩

end Sys2Proof.Machine
end

