-- ==== Sys2Proof/Laws/Instances.lean ====
section
/-! SUPPORT. Reading the instances after one of them is changed. -/

namespace Sys2Proof.Machine

/-- The instances of an index, after one index is replaced. -/
theorem instAt_setInst (s : State) (e : Nat) (x : Inst) (e' : Nat) :
    (s.setInst e x).instAt e' = if e = e' ∧ e < s.inst.length then x else s.instAt e' := by
  simp only [State.instAt, State.setInst_inst, State.setInst_par, List.getD_eq_getElem?_getD,
    List.getElem?_set]
  by_cases h : e = e'
  · subst h
    by_cases h2 : e < s.inst.length <;> simp [h2]
  · simp [h]

@[simp] theorem instAt_setInst_same (s : State) {e : Nat} (x : Inst) (h : e < s.inst.length) :
    (s.setInst e x).instAt e = x := by simp [instAt_setInst, h]

@[simp] theorem instAt_setInst_ne (s : State) {e e' : Nat} (x : Inst) (h : e ≠ e') :
    (s.setInst e x).instAt e' = s.instAt e' := by simp [instAt_setInst, h]

/-- Writing the instances an index already holds changes nothing. -/
theorem setInst_self (s : State) (e : Nat) : s.setInst e (s.instAt e) = s := by
  have : s.inst.set e (s.instAt e) = s.inst := by
    apply List.ext_getElem
    · simp
    · intro n h1 h2
      by_cases h : e = n
      · subst h; simp [State.instAt, h2]
      · simp [h]
  simp only [State.setInst, this]

theorem setInst_setInst (s : State) (e : Nat) (x y : Inst) :
    (s.setInst e x).setInst e y = s.setInst e y := by
  simp [State.setInst, List.set_set]

/-- A listed record is the record of its index. -/
theorem mem_inst {s : State} {x : Inst} (h : x ∈ s.inst) : ∃ e, e < s.inst.length ∧ s.instAt e = x := by
  obtain ⟨e, he, rfl⟩ := List.getElem_of_mem h
  exact ⟨e, he, by simp [State.instAt, he]⟩

theorem instAt_mem {s : State} {e : Nat} (h : e < s.inst.length) : s.instAt e ∈ s.inst := by
  simp [State.instAt, h]

/-- The records after index `e` is replaced: the new one, or one that was there before. -/
theorem mem_setInst {s : State} {e : Nat} {x y : Inst} (h : y ∈ (s.setInst e x).inst) :
    y = x ∨ y ∈ s.inst := by
  rw [State.setInst_inst] at h
  exact (List.mem_or_eq_of_mem_set h).symm

/-! ### Changing the Eng record -/

theorem modEng_eq (s : State) (e : Nat) (f : Eng → Eng) :
    s.modEng e f = s.setInst e { s.instAt e with eng := f (s.eng e) } := rfl

@[simp] theorem eng_modEng_same (s : State) {e : Nat} (f : Eng → Eng) (h : e < s.inst.length) :
    (s.modEng e f).eng e = f (s.eng e) := by
  simp [State.eng, modEng_eq, h]

@[simp] theorem eng_modEng_ne (s : State) {e e' : Nat} (f : Eng → Eng) (h : e ≠ e') :
    (s.modEng e f).eng e' = s.eng e' := by
  simp [State.eng, modEng_eq, h]

@[simp] theorem modEng_modEng (s : State) (e : Nat) (f g : Eng → Eng) :
    (s.modEng e f).modEng e g = s.modEng e (fun x => g (f x)) := by
  by_cases h : e < s.inst.length
  · rw [modEng_eq _ e g, modEng_eq _ e f, modEng_eq, setInst_setInst]
    simp [State.eng, h]
  · simp only [modEng_eq, State.setInst, List.set_eq_of_length_le (Nat.not_lt.mp h)]

theorem modEng_self (s : State) (e : Nat) (f : Eng → Eng) (h : f (s.eng e) = s.eng e) :
    s.modEng e f = s := by
  rw [modEng_eq, h]
  exact setInst_self s e

@[simp] theorem dvr_modEng (s : State) (e e' : Nat) (f : Eng → Eng) :
    (s.modEng e f).dvr e' = s.dvr e' := by
  simp only [State.dvr, modEng_eq, instAt_setInst]
  split
  · next h => rw [h.1]
  · rfl

@[simp] theorem dvt_modEng (s : State) (e e' : Nat) (f : Eng → Eng) :
    (s.modEng e f).dvt e' = s.dvt e' := by
  simp only [State.dvt, modEng_eq, instAt_setInst]
  split
  · next h => rw [h.1]
  · rfl

@[simp] theorem ts_modEng (s : State) (e e' : Nat) (f : Eng → Eng) :
    (s.modEng e f).ts e' = s.ts e' := by
  simp only [State.ts, modEng_eq, instAt_setInst]
  split
  · next h => rw [h.1]
  · rfl

/-! ### Changing the Dvr record -/

theorem modDvr_eq (s : State) (e : Nat) (f : Dvr → Dvr) :
    s.modDvr e f = s.setInst e { s.instAt e with dvr := f (s.dvr e) } := rfl

@[simp] theorem dvr_modDvr_same (s : State) {e : Nat} (f : Dvr → Dvr) (h : e < s.inst.length) :
    (s.modDvr e f).dvr e = f (s.dvr e) := by
  simp [State.dvr, modDvr_eq, h]

@[simp] theorem dvr_modDvr_ne (s : State) {e e' : Nat} (f : Dvr → Dvr) (h : e ≠ e') :
    (s.modDvr e f).dvr e' = s.dvr e' := by
  simp [State.dvr, modDvr_eq, h]

@[simp] theorem modDvr_modDvr (s : State) (e : Nat) (f g : Dvr → Dvr) :
    (s.modDvr e f).modDvr e g = s.modDvr e (fun x => g (f x)) := by
  by_cases h : e < s.inst.length
  · rw [modDvr_eq _ e g, modDvr_eq _ e f, modDvr_eq, setInst_setInst]
    simp [State.dvr, h]
  · simp only [modDvr_eq, State.setInst, List.set_eq_of_length_le (Nat.not_lt.mp h)]

theorem modDvr_self (s : State) (e : Nat) (f : Dvr → Dvr) (h : f (s.dvr e) = s.dvr e) :
    s.modDvr e f = s := by
  rw [modDvr_eq, h]
  exact setInst_self s e

@[simp] theorem eng_modDvr (s : State) (e e' : Nat) (f : Dvr → Dvr) :
    (s.modDvr e f).eng e' = s.eng e' := by
  simp only [State.eng, modDvr_eq, instAt_setInst]
  split
  · next h => rw [h.1]
  · rfl

@[simp] theorem dvt_modDvr (s : State) (e e' : Nat) (f : Dvr → Dvr) :
    (s.modDvr e f).dvt e' = s.dvt e' := by
  simp only [State.dvt, modDvr_eq, instAt_setInst]
  split
  · next h => rw [h.1]
  · rfl

@[simp] theorem ts_modDvr (s : State) (e e' : Nat) (f : Dvr → Dvr) :
    (s.modDvr e f).ts e' = s.ts e' := by
  simp only [State.ts, modDvr_eq, instAt_setInst]
  split
  · next h => rw [h.1]
  · rfl

/-! ### Changing the Dvt record -/

theorem modDvt_eq (s : State) (e : Nat) (f : Dvt → Dvt) :
    s.modDvt e f = s.setInst e { s.instAt e with dvt := f (s.dvt e) } := rfl

@[simp] theorem dvt_modDvt_same (s : State) {e : Nat} (f : Dvt → Dvt) (h : e < s.inst.length) :
    (s.modDvt e f).dvt e = f (s.dvt e) := by
  simp [State.dvt, modDvt_eq, h]

@[simp] theorem dvt_modDvt_ne (s : State) {e e' : Nat} (f : Dvt → Dvt) (h : e ≠ e') :
    (s.modDvt e f).dvt e' = s.dvt e' := by
  simp [State.dvt, modDvt_eq, h]

@[simp] theorem modDvt_modDvt (s : State) (e : Nat) (f g : Dvt → Dvt) :
    (s.modDvt e f).modDvt e g = s.modDvt e (fun x => g (f x)) := by
  by_cases h : e < s.inst.length
  · rw [modDvt_eq _ e g, modDvt_eq _ e f, modDvt_eq, setInst_setInst]
    simp [State.dvt, h]
  · simp only [modDvt_eq, State.setInst, List.set_eq_of_length_le (Nat.not_lt.mp h)]

theorem modDvt_self (s : State) (e : Nat) (f : Dvt → Dvt) (h : f (s.dvt e) = s.dvt e) :
    s.modDvt e f = s := by
  rw [modDvt_eq, h]
  exact setInst_self s e

@[simp] theorem eng_modDvt (s : State) (e e' : Nat) (f : Dvt → Dvt) :
    (s.modDvt e f).eng e' = s.eng e' := by
  simp only [State.eng, modDvt_eq, instAt_setInst]
  split
  · next h => rw [h.1]
  · rfl

@[simp] theorem dvr_modDvt (s : State) (e e' : Nat) (f : Dvt → Dvt) :
    (s.modDvt e f).dvr e' = s.dvr e' := by
  simp only [State.dvr, modDvt_eq, instAt_setInst]
  split
  · next h => rw [h.1]
  · rfl

@[simp] theorem ts_modDvt (s : State) (e e' : Nat) (f : Dvt → Dvt) :
    (s.modDvt e f).ts e' = s.ts e' := by
  simp only [State.ts, modDvt_eq, instAt_setInst]
  split
  · next h => rw [h.1]
  · rfl

/-! ### Changing the Ts record -/

theorem modTs_eq (s : State) (e : Nat) (f : Ts → Ts) :
    s.modTs e f = s.setInst e { s.instAt e with ts := f (s.ts e) } := rfl

@[simp] theorem ts_modTs_same (s : State) {e : Nat} (f : Ts → Ts) (h : e < s.inst.length) :
    (s.modTs e f).ts e = f (s.ts e) := by
  simp [State.ts, modTs_eq, h]

@[simp] theorem ts_modTs_ne (s : State) {e e' : Nat} (f : Ts → Ts) (h : e ≠ e') :
    (s.modTs e f).ts e' = s.ts e' := by
  simp [State.ts, modTs_eq, h]

@[simp] theorem modTs_modTs (s : State) (e : Nat) (f g : Ts → Ts) :
    (s.modTs e f).modTs e g = s.modTs e (fun x => g (f x)) := by
  by_cases h : e < s.inst.length
  · rw [modTs_eq _ e g, modTs_eq _ e f, modTs_eq, setInst_setInst]
    simp [State.ts, h]
  · simp only [modTs_eq, State.setInst, List.set_eq_of_length_le (Nat.not_lt.mp h)]

theorem modTs_self (s : State) (e : Nat) (f : Ts → Ts) (h : f (s.ts e) = s.ts e) :
    s.modTs e f = s := by
  rw [modTs_eq, h]
  exact setInst_self s e

@[simp] theorem eng_modTs (s : State) (e e' : Nat) (f : Ts → Ts) :
    (s.modTs e f).eng e' = s.eng e' := by
  simp only [State.eng, modTs_eq, instAt_setInst]
  split
  · next h => rw [h.1]
  · rfl

@[simp] theorem dvr_modTs (s : State) (e e' : Nat) (f : Ts → Ts) :
    (s.modTs e f).dvr e' = s.dvr e' := by
  simp only [State.dvr, modTs_eq, instAt_setInst]
  split
  · next h => rw [h.1]
  · rfl

@[simp] theorem dvt_modTs (s : State) (e e' : Nat) (f : Ts → Ts) :
    (s.modTs e f).dvt e' = s.dvt e' := by
  simp only [State.dvt, modTs_eq, instAt_setInst]
  split
  · next h => rw [h.1]
  · rfl

/-! ### Updates that leave the instances -/

section

variable (s : State) (e : Nat)

@[simp] theorem instAt_setRes0 (v : Word) : (s.setRes0 v).instAt e = s.instAt e := rfl
@[simp] theorem eng_setRes0 (v : Word) : (s.setRes0 v).eng e = s.eng e := rfl
@[simp] theorem dvr_setRes0 (v : Word) : (s.setRes0 v).dvr e = s.dvr e := rfl
@[simp] theorem dvt_setRes0 (v : Word) : (s.setRes0 v).dvt e = s.dvt e := rfl
@[simp] theorem ts_setRes0 (v : Word) : (s.setRes0 v).ts e = s.ts e := rfl
@[simp] theorem instAt_setRes1 (v : Word) : (s.setRes1 v).instAt e = s.instAt e := rfl
@[simp] theorem eng_setRes1 (v : Word) : (s.setRes1 v).eng e = s.eng e := rfl
@[simp] theorem dvr_setRes1 (v : Word) : (s.setRes1 v).dvr e = s.dvr e := rfl
@[simp] theorem dvt_setRes1 (v : Word) : (s.setRes1 v).dvt e = s.dvt e := rfl
@[simp] theorem ts_setRes1 (v : Word) : (s.setRes1 v).ts e = s.ts e := rfl
@[simp] theorem instAt_setRes2 (v : Word) : (s.setRes2 v).instAt e = s.instAt e := rfl
@[simp] theorem eng_setRes2 (v : Word) : (s.setRes2 v).eng e = s.eng e := rfl
@[simp] theorem dvr_setRes2 (v : Word) : (s.setRes2 v).dvr e = s.dvr e := rfl
@[simp] theorem dvt_setRes2 (v : Word) : (s.setRes2 v).dvt e = s.dvt e := rfl
@[simp] theorem ts_setRes2 (v : Word) : (s.setRes2 v).ts e = s.ts e := rfl
@[simp] theorem instAt_setRes3 (v : Word) : (s.setRes3 v).instAt e = s.instAt e := rfl
@[simp] theorem eng_setRes3 (v : Word) : (s.setRes3 v).eng e = s.eng e := rfl
@[simp] theorem dvr_setRes3 (v : Word) : (s.setRes3 v).dvr e = s.dvr e := rfl
@[simp] theorem dvt_setRes3 (v : Word) : (s.setRes3 v).dvt e = s.dvt e := rfl
@[simp] theorem ts_setRes3 (v : Word) : (s.setRes3 v).ts e = s.ts e := rfl
@[simp] theorem instAt_setStatus (v : Status) : (s.setStatus v).instAt e = s.instAt e := rfl
@[simp] theorem eng_setStatus (v : Status) : (s.setStatus v).eng e = s.eng e := rfl
@[simp] theorem dvr_setStatus (v : Status) : (s.setStatus v).dvr e = s.dvr e := rfl
@[simp] theorem dvt_setStatus (v : Status) : (s.setStatus v).dvt e = s.dvt e := rfl
@[simp] theorem ts_setStatus (v : Status) : (s.setStatus v).ts e = s.ts e := rfl
@[simp] theorem instAt_setCmd (v : Word) : (s.setCmd v).instAt e = s.instAt e := rfl
@[simp] theorem eng_setCmd (v : Word) : (s.setCmd v).eng e = s.eng e := rfl
@[simp] theorem dvr_setCmd (v : Word) : (s.setCmd v).dvr e = s.dvr e := rfl
@[simp] theorem dvt_setCmd (v : Word) : (s.setCmd v).dvt e = s.dvt e := rfl
@[simp] theorem ts_setCmd (v : Word) : (s.setCmd v).ts e = s.ts e := rfl
@[simp] theorem instAt_takeDraw (v : List Draw) : (s.takeDraw v).instAt e = s.instAt e := rfl
@[simp] theorem eng_takeDraw (v : List Draw) : (s.takeDraw v).eng e = s.eng e := rfl
@[simp] theorem dvr_takeDraw (v : List Draw) : (s.takeDraw v).dvr e = s.dvr e := rfl
@[simp] theorem dvt_takeDraw (v : List Draw) : (s.takeDraw v).dvt e = s.dvt e := rfl
@[simp] theorem ts_takeDraw (v : List Draw) : (s.takeDraw v).ts e = s.ts e := rfl
@[simp] theorem instAt_takeFault (v : BlockFault) : (s.takeFault v).instAt e = s.instAt e := rfl
@[simp] theorem eng_takeFault (v : BlockFault) : (s.takeFault v).eng e = s.eng e := rfl
@[simp] theorem dvr_takeFault (v : BlockFault) : (s.takeFault v).dvr e = s.dvr e := rfl
@[simp] theorem dvt_takeFault (v : BlockFault) : (s.takeFault v).dvt e = s.dvt e := rfl
@[simp] theorem ts_takeFault (v : BlockFault) : (s.takeFault v).ts e = s.ts e := rfl
@[simp] theorem instAt_emit (v : Out) : (s.emit v).instAt e = s.instAt e := rfl
@[simp] theorem eng_emit (v : Out) : (s.emit v).eng e = s.eng e := rfl
@[simp] theorem dvr_emit (v : Out) : (s.emit v).dvr e = s.dvr e := rfl
@[simp] theorem dvt_emit (v : Out) : (s.emit v).dvt e = s.dvt e := rfl
@[simp] theorem ts_emit (v : Out) : (s.emit v).ts e = s.ts e := rfl
@[simp] theorem instAt_enterCallback (v : Out) : (s.enterCallback v).instAt e = s.instAt e := rfl
@[simp] theorem eng_enterCallback (v : Out) : (s.enterCallback v).eng e = s.eng e := rfl
@[simp] theorem dvr_enterCallback (v : Out) : (s.enterCallback v).dvr e = s.dvr e := rfl
@[simp] theorem dvt_enterCallback (v : Out) : (s.enterCallback v).dvt e = s.dvt e := rfl
@[simp] theorem ts_enterCallback (v : Out) : (s.enterCallback v).ts e = s.ts e := rfl
@[simp] theorem instAt_addRegion (v : Nat × Nat) : (s.addRegion v).instAt e = s.instAt e := rfl
@[simp] theorem eng_addRegion (v : Nat × Nat) : (s.addRegion v).eng e = s.eng e := rfl
@[simp] theorem dvr_addRegion (v : Nat × Nat) : (s.addRegion v).dvr e = s.dvr e := rfl
@[simp] theorem dvt_addRegion (v : Nat × Nat) : (s.addRegion v).dvt e = s.dvt e := rfl
@[simp] theorem ts_addRegion (v : Nat × Nat) : (s.addRegion v).ts e = s.ts e := rfl
@[simp] theorem instAt_leaveCallback : s.leaveCallback.instAt e = s.instAt e := rfl
@[simp] theorem eng_leaveCallback : s.leaveCallback.eng e = s.eng e := rfl
@[simp] theorem dvr_leaveCallback : s.leaveCallback.dvr e = s.dvr e := rfl
@[simp] theorem dvt_leaveCallback : s.leaveCallback.dvt e = s.dvt e := rfl
@[simp] theorem ts_leaveCallback : s.leaveCallback.ts e = s.ts e := rfl
@[simp] theorem instAt_appendWire (v : WirePacket) : (s.appendWire v).instAt e = s.instAt e := rfl
@[simp] theorem eng_appendWire (v : WirePacket) : (s.appendWire v).eng e = s.eng e := rfl
@[simp] theorem dvr_appendWire (v : WirePacket) : (s.appendWire v).dvr e = s.dvr e := rfl
@[simp] theorem dvt_appendWire (v : WirePacket) : (s.appendWire v).dvt e = s.dvt e := rfl
@[simp] theorem ts_appendWire (v : WirePacket) : (s.appendWire v).ts e = s.ts e := rfl
@[simp] theorem instAt_writeBytes (v : Nat) (bs : List Byte) : (s.writeBytes v bs).instAt e = s.instAt e := rfl
@[simp] theorem eng_writeBytes (v : Nat) (bs : List Byte) : (s.writeBytes v bs).eng e = s.eng e := rfl
@[simp] theorem dvr_writeBytes (v : Nat) (bs : List Byte) : (s.writeBytes v bs).dvr e = s.dvr e := rfl
@[simp] theorem dvt_writeBytes (v : Nat) (bs : List Byte) : (s.writeBytes v bs).dvt e = s.dvt e := rfl
@[simp] theorem ts_writeBytes (v : Nat) (bs : List Byte) : (s.writeBytes v bs).ts e = s.ts e := rfl

end

end Sys2Proof.Machine
end

