-- ==== Sys2Proof/Laws/Commute.lean ====
section
/-! SUPPORT. Changes of instance records commute with changes of anything else: a normal form in which the
records change first, in the order ENG, DVR, DVT, TS. -/

namespace Sys2Proof.Machine

/-! ### Records of different units of one index -/

@[simp] theorem modDvr_modEng (s : State) (e : Nat) (f : Dvr → Dvr) (g : Eng → Eng) :
    (s.modDvr e f).modEng e g = (s.modEng e g).modDvr e f := by
  by_cases h : e < s.inst.length
  · simp [modDvr_eq, modEng_eq, setInst_setInst, h, State.eng, State.dvr]
  · simp only [modDvr_eq, modEng_eq, State.setInst, List.set_eq_of_length_le (Nat.not_lt.mp h)]

@[simp] theorem modDvt_modEng (s : State) (e : Nat) (f : Dvt → Dvt) (g : Eng → Eng) :
    (s.modDvt e f).modEng e g = (s.modEng e g).modDvt e f := by
  by_cases h : e < s.inst.length
  · simp [modDvt_eq, modEng_eq, setInst_setInst, h, State.eng, State.dvt]
  · simp only [modDvt_eq, modEng_eq, State.setInst, List.set_eq_of_length_le (Nat.not_lt.mp h)]

@[simp] theorem modDvt_modDvr (s : State) (e : Nat) (f : Dvt → Dvt) (g : Dvr → Dvr) :
    (s.modDvt e f).modDvr e g = (s.modDvr e g).modDvt e f := by
  by_cases h : e < s.inst.length
  · simp [modDvt_eq, modDvr_eq, setInst_setInst, h, State.dvr, State.dvt]
  · simp only [modDvt_eq, modDvr_eq, State.setInst, List.set_eq_of_length_le (Nat.not_lt.mp h)]

@[simp] theorem modTs_modEng (s : State) (e : Nat) (f : Ts → Ts) (g : Eng → Eng) :
    (s.modTs e f).modEng e g = (s.modEng e g).modTs e f := by
  by_cases h : e < s.inst.length
  · simp [modTs_eq, modEng_eq, setInst_setInst, h, State.eng, State.ts]
  · simp only [modTs_eq, modEng_eq, State.setInst, List.set_eq_of_length_le (Nat.not_lt.mp h)]

@[simp] theorem modTs_modDvr (s : State) (e : Nat) (f : Ts → Ts) (g : Dvr → Dvr) :
    (s.modTs e f).modDvr e g = (s.modDvr e g).modTs e f := by
  by_cases h : e < s.inst.length
  · simp [modTs_eq, modDvr_eq, setInst_setInst, h, State.dvr, State.ts]
  · simp only [modTs_eq, modDvr_eq, State.setInst, List.set_eq_of_length_le (Nat.not_lt.mp h)]

@[simp] theorem modTs_modDvt (s : State) (e : Nat) (f : Ts → Ts) (g : Dvt → Dvt) :
    (s.modTs e f).modDvt e g = (s.modDvt e g).modTs e f := by
  by_cases h : e < s.inst.length
  · simp [modTs_eq, modDvt_eq, setInst_setInst, h, State.dvt, State.ts]
  · simp only [modTs_eq, modDvt_eq, State.setInst, List.set_eq_of_length_le (Nat.not_lt.mp h)]

/-! ### Records and the rest of the state -/

section

variable (s : State) (e : Nat)

@[simp] theorem modEng_setRes0 (v : Word) (f : Eng → Eng) :
    (s.setRes0 v).modEng e f = (s.modEng e f).setRes0 v := rfl
@[simp] theorem modDvr_setRes0 (v : Word) (f : Dvr → Dvr) :
    (s.setRes0 v).modDvr e f = (s.modDvr e f).setRes0 v := rfl
@[simp] theorem modDvt_setRes0 (v : Word) (f : Dvt → Dvt) :
    (s.setRes0 v).modDvt e f = (s.modDvt e f).setRes0 v := rfl
@[simp] theorem modTs_setRes0 (v : Word) (f : Ts → Ts) :
    (s.setRes0 v).modTs e f = (s.modTs e f).setRes0 v := rfl
@[simp] theorem modEng_setRes1 (v : Word) (f : Eng → Eng) :
    (s.setRes1 v).modEng e f = (s.modEng e f).setRes1 v := rfl
@[simp] theorem modDvr_setRes1 (v : Word) (f : Dvr → Dvr) :
    (s.setRes1 v).modDvr e f = (s.modDvr e f).setRes1 v := rfl
@[simp] theorem modDvt_setRes1 (v : Word) (f : Dvt → Dvt) :
    (s.setRes1 v).modDvt e f = (s.modDvt e f).setRes1 v := rfl
@[simp] theorem modTs_setRes1 (v : Word) (f : Ts → Ts) :
    (s.setRes1 v).modTs e f = (s.modTs e f).setRes1 v := rfl
@[simp] theorem modEng_setRes2 (v : Word) (f : Eng → Eng) :
    (s.setRes2 v).modEng e f = (s.modEng e f).setRes2 v := rfl
@[simp] theorem modDvr_setRes2 (v : Word) (f : Dvr → Dvr) :
    (s.setRes2 v).modDvr e f = (s.modDvr e f).setRes2 v := rfl
@[simp] theorem modDvt_setRes2 (v : Word) (f : Dvt → Dvt) :
    (s.setRes2 v).modDvt e f = (s.modDvt e f).setRes2 v := rfl
@[simp] theorem modTs_setRes2 (v : Word) (f : Ts → Ts) :
    (s.setRes2 v).modTs e f = (s.modTs e f).setRes2 v := rfl
@[simp] theorem modEng_setRes3 (v : Word) (f : Eng → Eng) :
    (s.setRes3 v).modEng e f = (s.modEng e f).setRes3 v := rfl
@[simp] theorem modDvr_setRes3 (v : Word) (f : Dvr → Dvr) :
    (s.setRes3 v).modDvr e f = (s.modDvr e f).setRes3 v := rfl
@[simp] theorem modDvt_setRes3 (v : Word) (f : Dvt → Dvt) :
    (s.setRes3 v).modDvt e f = (s.modDvt e f).setRes3 v := rfl
@[simp] theorem modTs_setRes3 (v : Word) (f : Ts → Ts) :
    (s.setRes3 v).modTs e f = (s.modTs e f).setRes3 v := rfl
@[simp] theorem modEng_setStatus (c : Status) (f : Eng → Eng) :
    (s.setStatus c).modEng e f = (s.modEng e f).setStatus c := rfl
@[simp] theorem modDvr_setStatus (c : Status) (f : Dvr → Dvr) :
    (s.setStatus c).modDvr e f = (s.modDvr e f).setStatus c := rfl
@[simp] theorem modDvt_setStatus (c : Status) (f : Dvt → Dvt) :
    (s.setStatus c).modDvt e f = (s.modDvt e f).setStatus c := rfl
@[simp] theorem modTs_setStatus (c : Status) (f : Ts → Ts) :
    (s.setStatus c).modTs e f = (s.modTs e f).setStatus c := rfl
@[simp] theorem modEng_setCmd (v : Word) (f : Eng → Eng) :
    (s.setCmd v).modEng e f = (s.modEng e f).setCmd v := rfl
@[simp] theorem modDvr_setCmd (v : Word) (f : Dvr → Dvr) :
    (s.setCmd v).modDvr e f = (s.modDvr e f).setCmd v := rfl
@[simp] theorem modDvt_setCmd (v : Word) (f : Dvt → Dvt) :
    (s.setCmd v).modDvt e f = (s.modDvt e f).setCmd v := rfl
@[simp] theorem modTs_setCmd (v : Word) (f : Ts → Ts) :
    (s.setCmd v).modTs e f = (s.modTs e f).setCmd v := rfl
@[simp] theorem modEng_takeDraw (ds : List Draw) (f : Eng → Eng) :
    (s.takeDraw ds).modEng e f = (s.modEng e f).takeDraw ds := rfl
@[simp] theorem modDvr_takeDraw (ds : List Draw) (f : Dvr → Dvr) :
    (s.takeDraw ds).modDvr e f = (s.modDvr e f).takeDraw ds := rfl
@[simp] theorem modDvt_takeDraw (ds : List Draw) (f : Dvt → Dvt) :
    (s.takeDraw ds).modDvt e f = (s.modDvt e f).takeDraw ds := rfl
@[simp] theorem modTs_takeDraw (ds : List Draw) (f : Ts → Ts) :
    (s.takeDraw ds).modTs e f = (s.modTs e f).takeDraw ds := rfl
@[simp] theorem modEng_takeFault (x : BlockFault) (f : Eng → Eng) :
    (s.takeFault x).modEng e f = (s.modEng e f).takeFault x := rfl
@[simp] theorem modDvr_takeFault (x : BlockFault) (f : Dvr → Dvr) :
    (s.takeFault x).modDvr e f = (s.modDvr e f).takeFault x := rfl
@[simp] theorem modDvt_takeFault (x : BlockFault) (f : Dvt → Dvt) :
    (s.takeFault x).modDvt e f = (s.modDvt e f).takeFault x := rfl
@[simp] theorem modTs_takeFault (x : BlockFault) (f : Ts → Ts) :
    (s.takeFault x).modTs e f = (s.modTs e f).takeFault x := rfl
@[simp] theorem modEng_emit (o : Out) (f : Eng → Eng) :
    (s.emit o).modEng e f = (s.modEng e f).emit o := rfl
@[simp] theorem modDvr_emit (o : Out) (f : Dvr → Dvr) :
    (s.emit o).modDvr e f = (s.modDvr e f).emit o := rfl
@[simp] theorem modDvt_emit (o : Out) (f : Dvt → Dvt) :
    (s.emit o).modDvt e f = (s.modDvt e f).emit o := rfl
@[simp] theorem modTs_emit (o : Out) (f : Ts → Ts) :
    (s.emit o).modTs e f = (s.modTs e f).emit o := rfl
@[simp] theorem modEng_enterCallback (o : Out) (f : Eng → Eng) :
    (s.enterCallback o).modEng e f = (s.modEng e f).enterCallback o := rfl
@[simp] theorem modDvr_enterCallback (o : Out) (f : Dvr → Dvr) :
    (s.enterCallback o).modDvr e f = (s.modDvr e f).enterCallback o := rfl
@[simp] theorem modDvt_enterCallback (o : Out) (f : Dvt → Dvt) :
    (s.enterCallback o).modDvt e f = (s.modDvt e f).enterCallback o := rfl
@[simp] theorem modTs_enterCallback (o : Out) (f : Ts → Ts) :
    (s.enterCallback o).modTs e f = (s.modTs e f).enterCallback o := rfl
@[simp] theorem modEng_leaveCallback (f : Eng → Eng) :
    (s.leaveCallback).modEng e f = (s.modEng e f).leaveCallback := rfl
@[simp] theorem modDvr_leaveCallback (f : Dvr → Dvr) :
    (s.leaveCallback).modDvr e f = (s.modDvr e f).leaveCallback := rfl
@[simp] theorem modDvt_leaveCallback (f : Dvt → Dvt) :
    (s.leaveCallback).modDvt e f = (s.modDvt e f).leaveCallback := rfl
@[simp] theorem modTs_leaveCallback (f : Ts → Ts) :
    (s.leaveCallback).modTs e f = (s.modTs e f).leaveCallback := rfl
@[simp] theorem modEng_addRegion (r : Nat × Nat) (f : Eng → Eng) :
    (s.addRegion r).modEng e f = (s.modEng e f).addRegion r := rfl
@[simp] theorem modDvr_addRegion (r : Nat × Nat) (f : Dvr → Dvr) :
    (s.addRegion r).modDvr e f = (s.modDvr e f).addRegion r := rfl
@[simp] theorem modDvt_addRegion (r : Nat × Nat) (f : Dvt → Dvt) :
    (s.addRegion r).modDvt e f = (s.modDvt e f).addRegion r := rfl
@[simp] theorem modTs_addRegion (r : Nat × Nat) (f : Ts → Ts) :
    (s.addRegion r).modTs e f = (s.modTs e f).addRegion r := rfl
@[simp] theorem modEng_appendWire (p : WirePacket) (f : Eng → Eng) :
    (s.appendWire p).modEng e f = (s.modEng e f).appendWire p := rfl
@[simp] theorem modDvr_appendWire (p : WirePacket) (f : Dvr → Dvr) :
    (s.appendWire p).modDvr e f = (s.modDvr e f).appendWire p := rfl
@[simp] theorem modDvt_appendWire (p : WirePacket) (f : Dvt → Dvt) :
    (s.appendWire p).modDvt e f = (s.modDvt e f).appendWire p := rfl
@[simp] theorem modTs_appendWire (p : WirePacket) (f : Ts → Ts) :
    (s.appendWire p).modTs e f = (s.modTs e f).appendWire p := rfl
@[simp] theorem modEng_writeBytes (a : Nat) (bs : List Byte) (f : Eng → Eng) :
    (s.writeBytes a bs).modEng e f = (s.modEng e f).writeBytes a bs := rfl
@[simp] theorem modDvr_writeBytes (a : Nat) (bs : List Byte) (f : Dvr → Dvr) :
    (s.writeBytes a bs).modDvr e f = (s.modDvr e f).writeBytes a bs := rfl
@[simp] theorem modDvt_writeBytes (a : Nat) (bs : List Byte) (f : Dvt → Dvt) :
    (s.writeBytes a bs).modDvt e f = (s.modDvt e f).writeBytes a bs := rfl
@[simp] theorem modTs_writeBytes (a : Nat) (bs : List Byte) (f : Ts → Ts) :
    (s.writeBytes a bs).modTs e f = (s.modTs e f).writeBytes a bs := rfl

end

end Sys2Proof.Machine
end

