-- ==== Sys2Proof/Laws/Sparse.lean ====
section
/-! SUPPORT. Reading a sparse value after it is written or erased, and the canonical form that every
operation on one keeps. -/

namespace Sys2Proof.Machine

variable {α : Type}

theorem lookup_append (l₁ l₂ : Sparse α) (k : Nat) :
    (l₁ ++ l₂).lookup k = (l₁.lookup k).or (l₂.lookup k) := by
  induction l₁ with
  | nil => simp
  | cons c cs ih => obtain ⟨a, v⟩ := c; simp only [List.cons_append, List.lookup_cons, ih]; split <;> simp

theorem lookup_filter (m : Sparse α) (p : Nat → Bool) (k : Nat) :
    (m.filter (fun c => p c.1)).lookup k = if p k then m.lookup k else none := by
  induction m with
  | nil => simp
  | cons c cs ih =>
    obtain ⟨a, v⟩ := c
    by_cases hk : k = a
    · subst hk
      by_cases hp : p k <;> simp [hp, ih]
    · have hk' : (k == a) = false := by simp [hk]
      by_cases hp : p a <;> simp [List.lookup_cons, hp, ih, hk']

theorem lookup_runFrom (vs : List α) (a k : Nat) :
    (runFrom a vs).lookup k = if a ≤ k then vs[k - a]? else none := by
  induction vs generalizing a with
  | nil => simp [runFrom]
  | cons v vs ih =>
    by_cases hk : k = a
    · subst hk; simp [runFrom]
    · have hk' : (k == a) = false := by simp [hk]
      simp only [runFrom, List.lookup_cons, hk', ih]
      by_cases h : a ≤ k
      · have e : k - a = (k - (a + 1)) + 1 := by omega
        rw [if_pos (by omega), if_pos h, e, List.getElem?_cons_succ]
      · rw [if_neg (by omega), if_neg h]

/-- What a key reads as after a run is stored: the stored value inside the run, else as before. -/
theorem sparseGet_setRun (m : Sparse α) (a : Nat) (vs : List α) (k : Nat) :
    sparseGet (sparseSetRun m a vs) k =
      if a ≤ k ∧ k < a + vs.length then vs[k - a]? else sparseGet m k := by
  unfold sparseGet sparseSetRun
  rw [lookup_append, lookup_append, lookup_filter m (fun x => decide (x < a)),
    lookup_filter m (fun x => decide (a + vs.length ≤ x)), lookup_runFrom]
  by_cases h1 : k < a
  · simp [h1, Nat.not_le.mpr h1, show ¬ (a + vs.length ≤ k) by omega]
  · by_cases h2 : k < a + vs.length
    · have : (vs[k - a]?).isSome := by simp; omega
      obtain ⟨v, hv⟩ := Option.isSome_iff_exists.mp this
      simp [h1, h2, Nat.not_lt.mp h1, hv]
    · have : vs[k - a]? = none := by simp; omega
      simp [h1, h2, Nat.not_lt.mp h1, Nat.not_lt.mp h2, this]

/-- What a key reads as after one value is stored. -/
theorem sparseGet_set (m : Sparse α) (j : Nat) (v : α) (k : Nat) :
    sparseGet (sparseSet m j v) k = if k = j then some v else sparseGet m k := by
  rw [sparseSet, sparseGet_setRun]
  by_cases h : k = j
  · subst h; simp
  · rw [if_neg (by simp; omega), if_neg h]

/-- What a key reads as after one is erased. -/
theorem sparseGet_erase (m : Sparse α) (j k : Nat) :
    sparseGet (sparseErase m j) k = if k = j then none else sparseGet m k := by
  unfold sparseGet sparseErase
  rw [lookup_filter m (fun x => decide (x ≠ j))]
  by_cases h : k = j <;> simp [h]

theorem mem_runFrom {vs : List α} {a : Nat} {c : Nat × α} (h : c ∈ runFrom a vs) :
    a ≤ c.1 ∧ c.1 < a + vs.length := by
  induction vs generalizing a with
  | nil => simp [runFrom] at h
  | cons v vs ih =>
    simp only [runFrom, List.mem_cons] at h
    rcases h with rfl | h
    · simp
    · have := ih h; simp only [List.length_cons]; omega

theorem runFrom_wf (vs : List α) (a : Nat) : Sparse.wf (runFrom a vs) := by
  induction vs generalizing a with
  | nil => simp [runFrom]
  | cons v vs ih =>
    simp only [runFrom, Sparse.wf, List.pairwise_cons]
    exact ⟨fun c hc => by have := mem_runFrom hc; omega, ih _⟩

/-- Storing a run keeps the canonical form. -/
theorem sparseSetRun_wf {m : Sparse α} (h : Sparse.wf m) (a : Nat) (vs : List α) :
    Sparse.wf (sparseSetRun m a vs) := by
  unfold sparseSetRun
  simp only [Sparse.wf, List.pairwise_append, List.mem_append, List.mem_filter, decide_eq_true_eq]
  refine ⟨⟨h.filter _, runFrom_wf vs a, ?_⟩, h.filter _, ?_⟩
  · rintro c ⟨-, hc⟩ d hd
    have := mem_runFrom hd; omega
  · rintro c (⟨-, hc⟩ | hc) d ⟨-, hd⟩
    · omega
    · have := mem_runFrom hc; omega

/-- Erasing a key keeps the canonical form. -/
theorem sparseErase_wf {m : Sparse α} (h : Sparse.wf m) (k : Nat) : Sparse.wf (sparseErase m k) :=
  h.filter _

/-- Storing a run inside BUF keeps BUF in canonical form (20_memory.md R61). -/
theorem memory_wf_setRun {m : Mem} {n a : Nat} {bs : List Byte} (h : Memory.wf n m)
    (hb : a + bs.length ≤ n) : Memory.wf n (sparseSetRun m a bs) := by
  refine ⟨sparseSetRun_wf h.1 _ _, fun c hc => ?_⟩
  simp only [sparseSetRun, List.mem_append, List.mem_filter] at hc
  rcases hc with (⟨hc, -⟩ | hc) | ⟨hc, -⟩
  · exact h.2 c hc
  · have := mem_runFrom hc; omega
  · exact h.2 c hc

end Sys2Proof.Machine
end

