-- ==== Sys2Proof/Laws/Memory.lean ====
section
/-! SUPPORT. Reading BUF after a write, and that every operation on BUF keeps its canonical form
(spec/20_memory.md R61, R62). -/

namespace Sys2Proof.Machine

/-- A byte read after a write: the written byte inside the written range, else as before. -/
theorem readByte_writeBytes (s : State) (a : Nat) (bs : List Byte) (k : Nat) :
    (s.writeBytes a bs).readByte k =
      if a ≤ k ∧ k < a + bs.length then bs.getD (k - a) 0 else s.readByte k := by
  unfold State.readByte
  rw [State.writeBytes_buf, sparseGet_setRun]
  by_cases h : a ≤ k ∧ k < a + bs.length
  · have : k - a < bs.length := by omega
    simp [h, this]
  · simp [h]

/-- Byte `j` of a block read from BUF. -/
theorem byteAt_readBytes (s : State) (a n j : Nat) (h : j < n) :
    byteAt (s.readBytes a n) j = s.readByte (a + j) := by
  simp [byteAt, State.readBytes, h]

@[simp] theorem readBytes_length (s : State) (a n : Nat) : (s.readBytes a n).length = n := by
  simp [State.readBytes]

/-- A block read back right after it was written. -/
theorem readBytes_writeBytes_same (s : State) (a : Nat) (bs : List Byte) :
    (s.writeBytes a bs).readBytes a bs.length = bs := by
  apply List.ext_getElem
  · simp
  · intro j h1 h2
    simp only [State.readBytes, List.getElem_map, List.getElem_range, readByte_writeBytes]
    rw [if_pos (by omega)]
    simp [h2]

/-- A block outside a written range reads as before the write. -/
theorem readBytes_writeBytes_other (s : State) (a : Nat) (bs : List Byte) (b n : Nat)
    (h : b + n ≤ a ∨ a + bs.length ≤ b) :
    (s.writeBytes a bs).readBytes b n = s.readBytes b n := by
  apply List.ext_getElem
  · simp
  · intro j h1 h2
    simp only [readBytes_length] at h1
    simp only [State.readBytes, List.getElem_map, List.getElem_range, readByte_writeBytes]
    rw [if_neg (by omega)]

/-- A write inside BUF keeps its canonical form. -/
theorem writeBytes_wf {s : State} {a : Nat} {bs : List Byte} (h : Memory.wf s.par.bufBytes s.buf)
    (hb : a + bs.length ≤ s.par.bufBytes) :
    Memory.wf (s.writeBytes a bs).par.bufBytes (s.writeBytes a bs).buf := memory_wf_setRun h hb

/-- `MemWrite` keeps the canonical form, whether it stores or raises. -/
theorem memWrite_wf {s : State} (h : Memory.wf s.par.bufBytes s.buf) (a : Nat) (bs : List Byte) :
    Memory.wf (finalState (memWrite a bs s)).par.bufBytes (finalState (memWrite a bs s)).buf := by
  by_cases hb : a + bs.length ≤ s.par.bufBytes
  · rw [run_memWrite_ok hb]; exact writeBytes_wf h hb
  · rw [run_memWrite_bad hb]; exact h

/-- A memory-port write keeps the canonical form, wherever it points. -/
theorem portWrite_wf {s : State} (h : Memory.wf s.par.bufBytes s.buf) (a : Nat) (b : Byte) :
    Memory.wf (finalState (portWrite a b s)).par.bufBytes (finalState (portWrite a b s)).buf :=
  memWrite_wf h a [b]

/-- Right after power-on BUF is in canonical form: nothing is listed. -/
theorem powerOn_buf_wf (p : Params) :
    Memory.wf (State.powerOn p).par.bufBytes (State.powerOn p).buf :=
  ⟨List.Pairwise.nil, by intro c hc; cases hc⟩

/-- Right after reset BUF is in canonical form. -/
theorem reset_buf_wf : Memory.wf State.reset.par.bufBytes State.reset.buf := powerOn_buf_wf _

@[simp] theorem be32Bytes_length (w : Word) : (be32Bytes w).length = 4 := rfl

/-- The four bytes of a value, put together again, are the value (20_memory.md R64). -/
theorem be32_be32Bytes (w : Word) (rest : List Byte) : be32 (be32Bytes w ++ rest) 0 = w := by
  simp only [be32, byteAt, be32Bytes, List.cons_append, List.nil_append, List.getD_cons_zero,
    List.getD_cons_succ]
  apply BitVec.eq_of_getLsbD_eq
  intro i hi
  simp only [BitVec.getLsbD_append, BitVec.getLsbD_extractLsb']
  by_cases h1 : i < 8
  · simp [h1]
  · by_cases h2 : i - 8 < 8
    · simp [h1, h2, show 8 + (i - 8) = i by omega]
    · by_cases h3 : i - 8 - 8 < 8
      · simp [h1, h2, h3, show 16 + (i - 8 - 8) = i by omega]
      · simp [h1, h2, h3, show 24 + (i - 8 - 8 - 8) = i by omega, show i - 8 - 8 - 8 < 8 by omega]

end Sys2Proof.Machine
end

