-- ==== Sys2Proof/Laws/Leads.lean ====
section
/-! SUPPORT. Relations between the state a computation starts in and the one it ends in, whether it ends or
raises: how they compose, and what they need of a callback, whose client may run commands
(spec/60_exceptions.md R315, R318, R319). -/

namespace Sys2Proof.Machine

/-- The relation can be put together from its pieces. -/
structure Travels (R : State → State → Prop) : Prop where
  refl : ∀ s, R s s
  trans : ∀ {s t u}, R s t → R t u → R s u

/-- Wherever the computation starts, it ends in a state in relation `R` to it. -/
def Leads {α : Type} (R : State → State → Prop) (m : M α) : Prop := ∀ s, R s (finalState (m s))

section

variable {α β : Type} {R : State → State → Prop}

theorem leads_pure (hR : Travels R) (a : α) : Leads R (pure a : M α) := fun s => hR.refl s
theorem leads_getState (hR : Travels R) : Leads R getState := fun s => hR.refl s
theorem leads_getEng (hR : Travels R) (e : Nat) : Leads R (getEng e) := fun s => hR.refl s
theorem leads_getDvr (hR : Travels R) (e : Nat) : Leads R (getDvr e) := fun s => hR.refl s
theorem leads_getDvt (hR : Travels R) (e : Nat) : Leads R (getDvt e) := fun s => hR.refl s
theorem leads_getTs (hR : Travels R) (e : Nat) : Leads R (getTs e) := fun s => hR.refl s
theorem leads_getPar (hR : Travels R) : Leads R getPar := fun s => hR.refl s
theorem leads_answer (hR : Travels R) (c : Status) : Leads R (answer c) := fun s => hR.refl s

/-- A sequence, from the state in which it starts: the first part, and the second from where the first
ends. -/
theorem leads_bind_at (hR : Travels R) {m : M α} {k : α → M β} {s : State}
    (hm : R s (finalState (m s))) (hk : ∀ a t, m s = .ok a t → R t (finalState (k a t))) :
    R s (finalState ((m >>= k) s)) := by
  rw [run_bind]
  cases h : m s with
  | ok a t =>
    rw [h] at hm
    exact hR.trans hm (hk a t h)
  | error r t =>
    rw [h] at hm
    exact hm

theorem leads_bind (hR : Travels R) {m : M α} {k : α → M β} (hm : Leads R m)
    (hk : ∀ a, Leads R (k a)) : Leads R (m >>= k) :=
  fun s => leads_bind_at hR (hm s) (fun a t _ => hk a t)

theorem leads_update {f : State → State} (h : ∀ s, R s (f s)) : Leads R (update f) := h

theorem leads_raise {f : BlockFault} (h : ∀ s, R s (s.takeFault f)) :
    Leads R (raise f : M α) := h

theorem leads_ite {c : Prop} [Decidable c] {m n : M α} (hm : Leads R m) (hn : Leads R n) :
    Leads R (if c then m else n) := by split <;> assumption

end

/-- A whole step: the relation holds across the reset that may cut it short, too. -/
theorem leads_stepEnd {α : Type} {R : State → State → Prop} (hR : Travels R)
    (hr : ∀ s, R s (State.resetBlock s)) {m : M α} {r s : State} (h : R r (finalState (m s))) :
    R r (stepEnd (m s)) := by
  cases hm : m s with
  | ok a t => rw [hm] at h; exact h
  | error c t =>
    rw [hm] at h
    cases c with
    | fault => exact h
    | reset => exact hR.trans h (hr t)

/-! ### What a client does inside a callback -/

/-- The relation survives everything a client can do inside a callback (60_exceptions.md R318, R319):
register writes, bytes poked into BUF, the commands that touch registers and BUF only, and the three that
release a frame or a PES buffer or set a watchdog. -/
structure ClientStable (R : State → State → Prop) : Prop extends Travels R where
  setCmd : ∀ s w, R s (State.setCmd s w)
  setStatus : ∀ s c, R s (State.setStatus s c)
  setRes0 : ∀ s v, R s (State.setRes0 s v)
  setRes1 : ∀ s v, R s (State.setRes1 s v)
  setRes2 : ∀ s v, R s (State.setRes2 s v)
  setRes3 : ∀ s v, R s (State.setRes3 s v)
  hostWrite : ∀ s r v, R s (State.hostWrite s r v)
  writeBytes : ∀ s a bs, a + List.length bs ≤ s.par.bufBytes → R s (State.writeBytes s a bs)
  takeFault : ∀ s f, R s (State.takeFault s f)
  release : ∀ s e f, f < (State.dvr s e).frames.length →
    ((State.dvr s e).frame f).state = .dispatched → ((State.dvr s e).frame f).refCount ≠ 0 →
    R s (State.modDvr s e (·.release f))
  releaseBuf : ∀ s e id, id < (State.ts s e).nextPesId →
    ((State.ts s e).buf id).state = .delivered → R s (State.modTs s e (·.releaseBuf id))
  setWatchdog : ∀ s e b, R s (State.modEng s e (·.setWatchdog b))

section

variable {R : State → State → Prop}

theorem leads_memRead (hR : Travels R) (hf : ∀ s f, R s (State.takeFault s f)) (a n : Nat) :
    Leads R (memRead a n) := by
  intro s
  by_cases h : a + n ≤ s.par.bufBytes
  · rw [run_memRead_ok h]; exact hR.refl s
  · rw [run_memRead_bad h]; exact hf s _

theorem leads_memWrite (hf : ∀ s f, R s (State.takeFault s f))
    (hw : ∀ s a bs, a + List.length bs ≤ s.par.bufBytes → R s (State.writeBytes s a bs))
    (a : Nat) (bs : List Byte) : Leads R (memWrite a bs) := by
  intro s
  by_cases h : a + bs.length ≤ s.par.bufBytes
  · rw [run_memWrite_ok h]; exact hw s a bs h
  · rw [run_memWrite_bad h]; exact hf s _

theorem leads_chk (hR : Travels R) (hf : ∀ s f, R s (State.takeFault s f)) (t : Word) :
    Leads R (chk t) := by
  intro s
  by_cases h : ctLegal t
  · rw [run_chk_ok h]; exact hR.refl s
  · rw [run_chk_bad h]; exact hf s _

theorem leads_portWrite (h : ClientStable R) (a : Nat) (b : Byte) : Leads R (portWrite a b) :=
  leads_memWrite h.takeFault h.writeBytes a [b]

theorem leads_portRead (h : ClientStable R) (a : Nat) : Leads R (portRead a) :=
  leads_bind h.toTravels (leads_memRead h.toTravels h.takeFault a 1) fun _ =>
    leads_pure h.toTravels _

/-- A command's body and its status, behind the checks of the decode order. -/
theorem leads_runCommand (h : Travels R) (hs : ∀ s c, R s (State.setStatus s c))
    (hf : ∀ s f, R s (State.takeFault s f)) (i : Instr) {body : M (Option Status)} {s : State}
    (hb : R s (finalState (body s))) : R s (finalState (runCommand i body s)) := by
  simp only [runCommand]
  split
  · exact hs s _
  split
  · exact hf s _
  · cases hm : body s with
    | ok a t =>
      rw [hm] at hb
      cases a with
      | none => exact hb
      | some c => exact h.trans hb (hs t c)
    | error r t =>
      rw [hm] at hb
      exact hb

theorem leads_ctBody (h : ClientStable R) :
    Leads R ctAddBody ∧ Leads R ctDeltaBody ∧ Leads R ctIndexBody := by
  have hc := leads_chk h.toTravels h.takeFault
  refine ⟨?_, ?_, ?_⟩ <;>
  · refine leads_bind h.toTravels (leads_getState h.toTravels) fun s => ?_
    refine leads_bind h.toTravels (hc _) fun _ => ?_
    try refine leads_bind h.toTravels (hc _) fun _ => ?_
    exact leads_bind h.toTravels (leads_update fun s => h.setRes0 s _) fun _ =>
      leads_answer h.toTravels _

theorem leads_cipBody (h : ClientStable R) :
    Leads R isCipBody ∧ Leads R parseCipBody ∧ Leads R buildCipBody := by
  have hR := h.toTravels
  have hr := leads_memRead hR h.takeFault
  have hw := leads_memWrite h.takeFault h.writeBytes
  refine ⟨?_, ?_, ?_⟩
  · exact leads_bind hR (leads_getState hR) fun s =>
      leads_bind hR (leads_update fun s => h.setRes0 s _) fun _ => leads_answer hR _
  · refine leads_bind hR (leads_getState hR) fun s => ?_
    refine leads_ite (leads_raise fun s => h.takeFault s _) ?_
    refine leads_bind hR (hr _ _) fun p => ?_
    split
    · exact leads_answer hR _
    · refine leads_bind hR (hw _ _) fun _ => ?_
      refine leads_bind hR (leads_update fun s => h.setRes0 s _) fun _ => ?_
      refine leads_bind hR (leads_update fun s => h.setRes1 s _) fun _ => ?_
      refine leads_bind hR (leads_update fun s => h.setRes2 s _) fun _ => ?_
      refine leads_bind hR (leads_update fun s => h.setRes3 s _) fun _ => ?_
      exact leads_answer hR _
  · refine leads_bind hR (leads_getState hR) fun s => ?_
    split
    · exact leads_answer hR _
    · refine leads_bind hR (hw _ _) fun _ => ?_
      refine leads_bind hR (leads_update fun s => h.setRes0 s _) fun _ => ?_
      refine leads_bind hR (leads_update fun s => h.setRes1 s _) fun _ => ?_
      exact leads_answer hR _

theorem leads_csrReadBody (hR : Travels R) (h0 : ∀ s v, R s (State.setRes0 s v)) (u i x : Nat) :
    Leads R (csrReadBody u i x) := by
  refine leads_bind hR (leads_getState hR) fun s => ?_
  split
  · exact leads_answer hR _
  · exact leads_bind hR (leads_update fun s => h0 s _) fun _ => leads_answer hR _

theorem leads_dvrReleaseBody (h : ClientStable R) (e : Nat) : Leads R (dvrReleaseBody e) := by
  intro s
  refine leads_bind_at h.toTravels (h.refl s) fun a t ht => ?_
  obtain ⟨rfl, rfl⟩ : a = s ∧ t = s := by simpa [eq_comm] using ht
  simp only [run_ite]
  split
  · exact h.refl _
  · next hf =>
    split
    · exact h.refl _
    · next hd =>
      rw [not_or, not_not] at hd
      exact leads_bind_at h.toTravels (h.release _ e _ (by omega) hd.1 hd.2)
        (fun _ t _ => h.refl t)

theorem leads_tsReleasePesBody (h : ClientStable R) (e : Nat) : Leads R (tsReleasePesBody e) := by
  intro s
  refine leads_bind_at h.toTravels (h.refl s) fun a t ht => ?_
  obtain ⟨rfl, rfl⟩ : a = s ∧ t = s := by simpa [eq_comm] using ht
  simp only [run_ite]
  split
  · exact h.refl _
  · next hf =>
    split
    · exact h.refl _
    · next hd =>
      rw [not_not] at hd
      exact leads_bind_at h.toTravels (h.releaseBuf _ e _ (by omega) hd) (fun _ t _ => h.refl t)

theorem leads_engSetWatchdogBody (h : ClientStable R) (e : Nat) :
    Leads R (engSetWatchdogBody e) := by
  refine leads_bind h.toTravels (leads_getState h.toTravels) fun s => ?_
  refine leads_ite (leads_answer h.toTravels _) ?_
  exact leads_bind h.toTravels (leads_update fun s => h.setWatchdog s e _) fun _ =>
    leads_answer h.toTravels _

/-- A nested command (60_exceptions.md R319). -/
theorem leads_nestedBody (h : ClientStable R) (i : Instr) : Leads R (nestedBody i) := by
  unfold nestedBody
  split
  · exact (leads_cipBody h).1
  · exact (leads_cipBody h).2.1
  · exact (leads_cipBody h).2.2
  · exact (leads_ctBody h).1
  · exact (leads_ctBody h).2.1
  · exact (leads_ctBody h).2.2
  · exact leads_csrReadBody h.toTravels h.setRes0 _ _ _
  · exact leads_dvrReleaseBody h _
  · exact leads_tsReleasePesBody h _
  · exact leads_engSetWatchdogBody h _
  · exact leads_answer h.toTravels _

/-- One thing a client does inside a callback. -/
theorem leads_clientAct (h : ClientStable R) (a : HostAct) : Leads R (clientAct a) := by
  unfold clientAct
  split
  · next w =>
    refine leads_bind h.toTravels (leads_update fun s => h.setCmd s w) fun _ => ?_
    split
    · next i _ =>
      exact fun s => leads_runCommand h.toTravels h.setStatus h.takeFault i
        (leads_nestedBody h i s)
    · exact leads_update fun s => h.setStatus s _
  · exact leads_update fun s => h.hostWrite s _ _
  · exact leads_portWrite h _ _
  · exact leads_portRead h _
  · exact leads_pure h.toTravels _

/-- Everything a client does inside a callback. -/
theorem leads_clientActs (h : ClientStable R) : ∀ as, Leads R (clientActs as)
  | [] => leads_pure h.toTravels _
  | a :: as => leads_bind h.toTravels (leads_clientAct h a) fun _ => leads_clientActs h as

end

/-- The relation survives whole callbacks: what a client does, the call and the return, and the answer. -/
structure CallStable (R : State → State → Prop) : Prop extends ClientStable R where
  enterCallback : ∀ s o, R s (State.enterCallback s o)
  leaveCallback : ∀ s, R s (State.leaveCallback s)
  emit : ∀ s o, R s (State.emit s o)
  takeDraw : ∀ s ds, s.tape.tail = ds → R s (State.takeDraw s ds)

section

variable {R : State → State → Prop}

theorem leads_draw (h : ∀ s ds, s.tape.tail = ds → R s (State.takeDraw s ds)) : Leads R draw := by
  intro s
  cases ht : s.tape with
  | nil => rw [run_draw_free ht]; exact h s _ (by simp [ht])
  | cons d ds => rw [run_draw_tape ht]; exact h s _ (by simp [ht])

/-- A callback (60_exceptions.md R318). -/
theorem leads_callback (h : CallStable R) (o : Out) : Leads R (callback o) := by
  refine leads_bind h.toTravels (leads_update fun s => h.enterCallback s o) fun _ => ?_
  refine leads_bind h.toTravels (leads_draw h.takeDraw) fun d => ?_
  refine leads_bind h.toTravels (leads_clientActs h.toClientStable _) fun _ => ?_
  refine leads_bind h.toTravels ?_ fun _ =>
    leads_bind h.toTravels (leads_update h.leaveCallback) fun _ => leads_pure h.toTravels _
  intro s
  cases d.reset <;> exact h.refl s

theorem leads_notify (h : CallStable R) (o : Out) : Leads R (notify o) :=
  leads_bind h.toTravels (leads_callback h o) fun _ => leads_pure h.toTravels _

theorem leads_request (h : CallStable R) (o : Out) : Leads R (request o) :=
  leads_bind h.toTravels (leads_update fun s => h.emit s o) fun _ => leads_draw h.takeDraw

end

end Sys2Proof.Machine
end

