-- ==== Sys2Proof/Laws/Streams.lean ====
section
/-! SUPPORT. The streams and PES buffers over each change of the TS record, and the buffer-conservation law
over each of them (45_ts_demux.md R279 to R283, R289, R290, R293). -/

namespace Sys2Proof.Machine

/-! ### Reading one record after another is changed -/

@[simp] theorem Ts.stream_setStream (t : Ts) (y z : StreamType) (x : Stream) :
    (t.setStream y x).stream z = if y = z then x else t.stream z := by
  cases y <;> cases z <;> rfl

@[simp] theorem Ts.stream_modStream (t : Ts) (y z : StreamType) (g : Stream → Stream) :
    (t.modStream y g).stream z = if y = z then g (t.stream y) else t.stream z :=
  Ts.stream_setStream t y z _

@[simp] theorem Ts.stream_modBuf (t : Ts) (b : Nat) (g : PesBuf → PesBuf) (z : StreamType) :
    (t.modBuf b g).stream z = t.stream z := by cases z <;> rfl

@[simp] theorem Ts.stream_setPesFree (t : Ts) (y : StreamType) (q : List Nat) (z : StreamType) :
    (t.setPesFree y q).stream z = t.stream z := by cases y <;> cases z <;> rfl

@[simp] theorem Ts.pesFree_setPesFree (t : Ts) (y z : StreamType) (q : List Nat) :
    (t.setPesFree y q).pesFree z = if y = z then q else t.pesFree z := by
  cases y <;> cases z <;> rfl

@[simp] theorem Ts.pesFree_modStream (t : Ts) (y z : StreamType) (g : Stream → Stream) :
    (t.modStream y g).pesFree z = t.pesFree z := by cases y <;> cases z <;> rfl

@[simp] theorem Ts.pesFree_modBuf (t : Ts) (b : Nat) (g : PesBuf → PesBuf) (z : StreamType) :
    (t.modBuf b g).pesFree z = t.pesFree z := by cases z <;> rfl

@[simp] theorem Ts.bufs_modStream (t : Ts) (y : StreamType) (g : Stream → Stream) :
    (t.modStream y g).bufs = t.bufs := by cases y <;> rfl

@[simp] theorem Ts.bufs_setPesFree (t : Ts) (y : StreamType) (q : List Nat) :
    (t.setPesFree y q).bufs = t.bufs := by cases y <;> rfl

@[simp] theorem Ts.buf_modStream (t : Ts) (y : StreamType) (g : Stream → Stream) (b : Nat) :
    (t.modStream y g).buf b = t.buf b := by rw [Ts.buf, Ts.bufs_modStream, Ts.buf]

@[simp] theorem Ts.buf_setPesFree (t : Ts) (y : StreamType) (q : List Nat) (b : Nat) :
    (t.setPesFree y q).buf b = t.buf b := by rw [Ts.buf, Ts.bufs_setPesFree, Ts.buf]

@[simp] theorem Ts.nextPesId_modStream (t : Ts) (y : StreamType) (g : Stream → Stream) :
    (t.modStream y g).nextPesId = t.nextPesId := by rw [Ts.nextPesId, Ts.bufs_modStream, Ts.nextPesId]

@[simp] theorem Ts.nextPesId_setPesFree (t : Ts) (y : StreamType) (q : List Nat) :
    (t.setPesFree y q).nextPesId = t.nextPesId := by
  rw [Ts.nextPesId, Ts.bufs_setPesFree, Ts.nextPesId]

@[simp] theorem Ts.nextPesId_modBuf (t : Ts) (b : Nat) (g : PesBuf → PesBuf) :
    (t.modBuf b g).nextPesId = t.nextPesId := by simp [Ts.nextPesId, Ts.modBuf]

theorem Ts.buf_modBuf (t : Ts) (b : Nat) (g : PesBuf → PesBuf) (j : Nat) :
    (t.modBuf b g).buf j = if b = j ∧ b < t.nextPesId then g (t.buf b) else t.buf j := by
  simp only [Ts.modBuf, Ts.buf, Ts.nextPesId, List.getD_eq_getElem?_getD, List.getElem?_set]
  by_cases h : b = j
  · subst h
    by_cases h2 : b < t.bufs.length <;> simp [h2]
  · simp [h]

@[simp] theorem Ts.buf_modBuf_same {t : Ts} {b : Nat} (g : PesBuf → PesBuf) (h : b < t.nextPesId) :
    (t.modBuf b g).buf b = g (t.buf b) := by simp [Ts.buf_modBuf, h]

/-! ### The buffer-conservation law -/

/-- A change that moves no buffer between the sets of R293 keeps the law. -/
theorem Ts.law_same {t t' : Ts} (h : t.law) (hq : ∀ y, t'.pesFree y = t.pesFree y)
    (hc : ∀ y, (t'.stream y).curBuf = (t.stream y).curBuf) (hn : t'.nextPesId = t.nextPesId)
    (hb : ∀ b, (t'.buf b).state = (t.buf b).state ∧ (t'.buf b).stype = (t.buf b).stype) :
    t'.law := by
  intro y
  obtain ⟨h1, h2, h3⟩ := h y
  refine ⟨by rw [hq]; exact h1, fun b => ?_, fun b => ?_⟩
  · rw [hq, hn, (hb b).1, (hb b).2]; exact h2 b
  · rw [hc, hn, (hb b).1, (hb b).2]; exact h3 b

theorem Ts.law_modStream {t : Ts} (h : t.law) (y : StreamType) {g : Stream → Stream}
    (hg : ∀ x, (g x).curBuf = x.curBuf) : (t.modStream y g).law := by
  refine Ts.law_same h (by simp) (fun z => ?_) (by simp) (by simp)
  rw [Ts.stream_modStream]
  split
  · next hz => rw [hg, hz]
  · rfl

theorem Ts.law_modBuf {t : Ts} (h : t.law) (b : Nat) {g : PesBuf → PesBuf}
    (hg : ∀ r, (g r).state = r.state ∧ (g r).stype = r.stype) : (t.modBuf b g).law := by
  refine Ts.law_same h (by simp) (by simp) (by simp) (fun j => ?_)
  rw [Ts.buf_modBuf]
  split
  · next hj => rw [← hj.1]; exact hg _
  · exact ⟨rfl, rfl⟩

theorem Ts.law_emptyCurrent {t : Ts} (h : t.law) (y : StreamType) : (t.emptyCurrent y).law := by
  unfold Ts.emptyCurrent
  split
  · exact Ts.law_modBuf h _ fun _ => ⟨rfl, rfl⟩
  · exact h

theorem Ts.law_resetStream {t : Ts} (h : t.law) (y : StreamType) : (t.resetStream y).law :=
  Ts.law_modStream (Ts.law_emptyCurrent h y) y fun _ => rfl

theorem Ts.law_dropPartial {t : Ts} (h : t.law) (y : StreamType) : (t.dropPartial y).law :=
  Ts.law_modStream (Ts.law_emptyCurrent h y) y fun _ => rfl

theorem Ts.law_beginPes {t : Ts} (h : t.law) (y : StreamType) (ts : Word) : (t.beginPes y ts).law := by
  unfold Ts.beginPes
  split
  · refine Ts.law_modStream (Ts.law_modBuf h _ ?_) y ?_
    · exact fun _ => ⟨rfl, rfl⟩
    · exact fun _ => rfl
  · exact h

theorem Ts.law_appendBuf {t : Ts} (h : t.law) (b : Nat) (bytes : List Byte) :
    (t.appendBuf b bytes).law := Ts.law_modBuf h _ fun _ => ⟨rfl, rfl⟩

theorem Ts.law_notePosition {t : Ts} (h : t.law) (y : StreamType) : (t.notePosition y).law :=
  Ts.law_modStream h y fun _ => rfl

/-- A stream that has no buffer takes one from its free queue, or a fresh one (R280, R282). -/
theorem Ts.law_allocCurrent {t : Ts} (h : t.law) {y : StreamType}
    (hc : (t.stream y).curBuf = none) : (t.allocCurrent y).law := by
  unfold Ts.allocCurrent
  obtain ⟨h1, h2, h3⟩ := h y
  have hnone : ∀ b, ¬ (b < t.nextPesId ∧ (t.buf b).state = .filling ∧ (t.buf b).stype = y) := by
    intro b hb
    have := (h3 b).2 hb
    rw [hc] at this; cases this
  split
  · next b q hq =>
    have hb := (h2 b).1 (by rw [hq]; exact List.mem_cons_self)
    rw [hq, List.nodup_cons] at h1
    intro z
    simp only [Ts.pesFree_modStream, Ts.pesFree_modBuf, Ts.pesFree_setPesFree,
      Ts.nextPesId_modStream, Ts.nextPesId_modBuf, Ts.nextPesId_setPesFree, Ts.buf_modStream,
      Ts.buf_modBuf, Ts.buf_setPesFree, Ts.stream_modStream, Ts.stream_modBuf, Ts.stream_setPesFree]
    by_cases hz : y = z
    · subst hz
      simp only [if_true]
      refine ⟨h1.2, fun j => ?_, fun j => ?_⟩
      · have hj := h2 j
        rw [hq, List.mem_cons] at hj
        by_cases hbj : b = j
        · subst hbj; simp [hb.1, h1.1]
        · simp only [hbj, false_and, if_false]
          rw [← hj]; simp [Ne.symm hbj]
      · by_cases hbj : b = j
        · subst hbj; simp [hb.1, hb.2.2]
        · simp only [hbj, false_and, if_false]
          constructor
          · intro hx; exact absurd (Option.some.inj hx) hbj
          · intro hx; exact absurd hx (hnone j)
    · obtain ⟨g1, g2, g3⟩ := h z
      simp only [if_neg hz]
      refine ⟨g1, fun j => ?_, fun j => ?_⟩
      · by_cases hbj : b = j
        · subst hbj
          simp only [hb.1, and_self, if_true, true_and]
          rw [g2 b, hb.2.2]; simp [hz]
        · simp only [hbj, false_and, if_false]; exact g2 j
      · by_cases hbj : b = j
        · subst hbj
          simp only [hb.1, and_self, if_true, true_and]
          rw [g3 b, hb.2.2]; simp [hz]
        · simp only [hbj, false_and, if_false]; exact g3 j
  · next hq =>
    have hbuf : ∀ j, ({ t with bufs := t.bufs ++ [{ PesBuf.reset y with state := .filling }] } :
        Ts).buf j = if t.nextPesId = j then { PesBuf.reset y with state := .filling } else t.buf j := by
      intro j
      simp only [Ts.buf, Ts.nextPesId, List.getD_eq_getElem?_getD]
      rcases Nat.lt_trichotomy j t.bufs.length with hj | hj | hj
      · rw [List.getElem?_append_left hj, if_neg (by omega)]
      · subst hj; simp
      · rw [List.getElem?_eq_none (by simp; omega), if_neg (by omega),
          List.getElem?_eq_none (by omega)]
    have hn : ({ t with bufs := t.bufs ++ [{ PesBuf.reset y with state := .filling }] } :
        Ts).nextPesId = t.nextPesId + 1 := by simp [Ts.nextPesId]
    intro z
    simp only [Ts.pesFree_modStream, Ts.nextPesId_modStream, Ts.buf_modStream, hbuf, hn,
      Ts.stream_modStream]
    have hpf : ({ t with bufs := t.bufs ++ [{ PesBuf.reset y with state := .filling }] } :
        Ts).pesFree z = t.pesFree z := by cases z <;> rfl
    have hst : ({ t with bufs := t.bufs ++ [{ PesBuf.reset y with state := .filling }] } :
        Ts).stream z = t.stream z := by cases z <;> rfl
    rw [hpf, hst]
    obtain ⟨g1, g2, g3⟩ := h z
    refine ⟨g1, fun j => ?_, fun j => ?_⟩
    · rw [g2 j]
      by_cases hj : t.nextPesId = j
      · subst hj; simp
      · rw [if_neg hj]
        constructor
        · rintro ⟨a, b⟩; exact ⟨by omega, b⟩
        · rintro ⟨a, b⟩; exact ⟨by omega, b⟩
    · by_cases hj : t.nextPesId = j
      · subst hj
        simp only [if_true]
        by_cases hz : y = z
        · subst hz; simp [PesBuf.reset]
        · simp only [if_neg hz, g3]
          simp [PesBuf.reset, hz]
      · rw [if_neg hj]
        by_cases hz : y = z
        · subst hz
          simp only [if_true]
          constructor
          · intro hx; exact absurd (Option.some.inj hx) hj
          · rintro ⟨a, b⟩; exact absurd ⟨by omega, b⟩ (hnone j)
        · simp only [if_neg hz, g3]
          constructor
          · rintro ⟨a, b⟩; exact ⟨by omega, b⟩
          · rintro ⟨a, b⟩; exact ⟨by omega, b⟩

/-- The current buffer of a stream is delivered (R283). -/
theorem Ts.law_deliverBuf {t : Ts} (h : t.law) {y : StreamType} {b : Nat}
    (hc : (t.stream y).curBuf = some b) : (t.deliverBuf y b).law := by
  have hb := ((h y).2.2 b).1 hc
  intro z
  obtain ⟨g1, g2, g3⟩ := h z
  simp only [Ts.deliverBuf, Ts.pesFree_modStream, Ts.pesFree_modBuf, Ts.nextPesId_modStream,
    Ts.nextPesId_modBuf, Ts.buf_modStream, Ts.buf_modBuf, Ts.stream_modStream, Ts.stream_modBuf]
  refine ⟨g1, fun j => ?_, fun j => ?_⟩
  · rw [g2 j]
    by_cases hbj : b = j
    · subst hbj; simp [hb.1, hb.2.1]
    · simp [hbj]
  · by_cases hbj : b = j
    · subst hbj
      by_cases hz : y = z
      · subst hz; simp [hb.1]
      · simp only [if_neg hz, g3 b, hb.2.2]; simp [hz, hb.1]
    · simp only [hbj, false_and, if_false]
      by_cases hz : y = z
      · subst hz
        simp only [if_true]
        constructor
        · intro hx; cases hx
        · intro hx
          have := (g3 j).2 hx
          rw [hc] at this; exact absurd (Option.some.inj this) hbj
      · simp only [if_neg hz]; exact g3 j

/-- A delivered buffer goes back to the free queue of its type (R289). -/
theorem Ts.law_releaseBuf {t : Ts} (h : t.law) {id : Nat} (hi : id < t.nextPesId)
    (hs : (t.buf id).state = .delivered) : (t.releaseBuf id).law := by
  intro z
  obtain ⟨g1, g2, g3⟩ := h z
  have hnq : id ∉ t.pesFree z := fun hx => by
    have := ((g2 id).1 hx).2.1
    rw [hs] at this; cases this
  simp only [Ts.releaseBuf, Ts.pesFree_setPesFree, Ts.pesFree_modBuf, Ts.nextPesId_setPesFree,
    Ts.nextPesId_modBuf, Ts.buf_setPesFree, Ts.buf_modBuf, Ts.stream_setPesFree, Ts.stream_modBuf]
  refine ⟨?_, fun j => ?_, fun j => ?_⟩
  · split
    · next hz =>
      rw [hz]
      exact List.nodup_append.2 ⟨g1, by simp, by
        intro a ha b hb; simp only [List.mem_singleton] at hb; subst hb; rintro rfl; exact hnq ha⟩
    · exact g1
  · by_cases hij : id = j
    · subst hij
      simp only [hi, and_self, if_true, true_and]
      by_cases hz : (t.buf id).stype = z
      · simp [hz]
      · simp [hz, hnq]
    · simp only [hij, false_and, if_false]
      rw [← g2 j]
      split
      · next hz => simp [hz, Ne.symm hij]
      · rfl
  · rw [g3 j]
    by_cases hij : id = j
    · subst hij; simp [hi, hs]
    · simp [hij]

end Sys2Proof.Machine
end

