-- ==== Sys2Proof/Laws/Cycles.lean ====
section
/-! SUPPORT. What the per-cycle functions of the units can do to the state: each is a sequence of moves, and
a relation that every move of a unit keeps holds between the state a cycle starts in and the one it ends in
(spec/43_dv_receive.md, spec/44_dv_transmit.md, spec/45_ts_demux.md, spec/42_buffer_engine.md R180,
R182). -/

namespace Sys2Proof.Machine

/-- The relation survives what every unit does: a raise, a draw, a request and a whole callback. -/
structure Shared (R : State → State → Prop) : Prop extends Travels R where
  takeFault : ∀ s f, R s (State.takeFault s f)
  draw : Leads R draw
  request : ∀ o, Leads R (request o)
  callback : ∀ o, Leads R (callback o)

theorem CallStable.shared {R : State → State → Prop} (h : CallStable R) : Shared R where
  toTravels := h.toTravels
  takeFault := h.takeFault
  draw := leads_draw h.takeDraw
  request := leads_request h
  callback := leads_callback h

/-- The parts that every unit's pseudocode is put together from, beside its own moves. -/
inductive Part : {α : Type} → M α → Prop where
  | pure {α : Type} (a : α) : Part (pure a : M α)
  | answer (c : Status) : Part (answer c)
  | getState : Part getState
  | getEng (e : Nat) : Part (getEng e)
  | getDvr (e : Nat) : Part (getDvr e)
  | getDvt (e : Nat) : Part (getDvt e)
  | getTs (e : Nat) : Part (getTs e)
  | getPar : Part getPar
  | draw : Part draw
  | request (o : Out) : Part (request o)
  | callback (o : Out) : Part (callback o)
  | notify (o : Out) : Part (notify o)
  | chk (t : Word) : Part (chk t)
  | memRead (a n : Nat) : Part (memRead a n)
  | raise {α : Type} (f : BlockFault) : Part (raise f : M α)

theorem Shared.part {R : State → State → Prop} (h : Shared R) {α : Type} {m : M α} (p : Part m) :
    Leads R m := by
  cases p with
  | pure a => exact leads_pure h.toTravels a
  | answer c => exact leads_answer h.toTravels c
  | getState => exact leads_getState h.toTravels
  | getEng e => exact leads_getEng h.toTravels e
  | getDvr e => exact leads_getDvr h.toTravels e
  | getDvt e => exact leads_getDvt h.toTravels e
  | getTs e => exact leads_getTs h.toTravels e
  | getPar => exact leads_getPar h.toTravels
  | draw => exact h.draw
  | request o => exact h.request o
  | callback o => exact h.callback o
  | notify o => exact leads_bind h.toTravels (h.callback o) fun _ => leads_pure h.toTravels _
  | chk t => exact leads_chk h.toTravels h.takeFault t
  | memRead a n => exact leads_memRead h.toTravels h.takeFault a n
  | raise f => exact leads_raise fun s => h.takeFault s f

variable {R : State → State → Prop} {e : Nat}

theorem leads_addCycles (h : Shared R) (t : Word) (k : Nat) : Leads R (addCycles t k) :=
  leads_bind h.toTravels (h.part (.chk t)) fun _ => h.part (.pure _)

/-! ### Unit DVR -/

/-- The moves of the DV frame reassembler of instance `e` (43_dv_receive.md R206 to R210). -/
structure DvrMoves (R : State → State → Prop) (e : Nat) : Prop extends Shared R where
  abandonFrame : ∀ s f, (State.dvr s e).currentFrame = some f →
    R s (State.modDvr s e (·.abandonFrame f))
  beginFrame : ∀ s f rest len syt ts, (State.dvr s e).freeQueue = f :: rest →
    (State.dvr s e).currentFrame = none → R s (State.modDvr s e (·.beginFrame f rest len syt ts))
  fillFrame : ∀ s f bytes, (State.dvr s e).currentFrame = some f →
    R s (State.modDvr s e (·.fillFrame f bytes))
  dispatchFrame : ∀ s f, (State.dvr s e).currentFrame = some f →
    R s (State.modDvr s e (·.dispatchFrame f))
  dropReference : ∀ s f, R s (State.modDvr s e (·.dropReference f))
  endDispatch : ∀ s f, R s (State.modDvr s e (·.endDispatch f))

theorem leads_notifyConsumers (h : Shared R) (e : Nat) (m : Msg) :
    ∀ l, Leads R (notifyConsumers e m l)
  | [] => h.part (.pure _)
  | _ :: cs => leads_bind h.toTravels (h.part (.notify _)) fun _ => leads_notifyConsumers h e m cs

theorem leads_notifyAll (h : Shared R) (e : Nat) (m : Msg) : Leads R (notifyAll e m) :=
  leads_bind h.toTravels (h.part (.getDvr e)) fun _ => leads_notifyConsumers h e m _

theorem leads_abandonCurrent (h : DvrMoves R e) : Leads R (abandonCurrent e) := by
  intro s
  unfold abandonCurrent
  rw [run_bind, run_getDvr]
  rcases hf : (s.dvr e).currentFrame with _ | f
  · simp only [hf]
    exact h.refl s
  · simp only [hf]
    exact leads_bind_at h.toTravels (h.abandonFrame s f hf) fun _ t _ =>
      leads_notifyAll h.toShared e _ t

/-- `startFrame` runs only while no frame is in progress (R203). -/
theorem leads_startFrame_at (h : DvrMoves R e) (row : DvFormat) (syt : Half) (ts : Word) {s : State}
    (hc : (s.dvr e).currentFrame = none) : R s (finalState (startFrame e row syt ts s)) := by
  unfold startFrame
  rw [run_bind, run_getDvr]
  rcases hq : (s.dvr e).freeQueue with _ | ⟨f, rest⟩
  · simp only [hq]
    exact leads_bind h.toTravels (leads_notifyAll h.toShared e _) (fun _ => h.part (.pure _)) s
  · simp only [hq]
    exact leads_bind_at h.toTravels (h.beginFrame s f rest row.frameSize syt ts hq hc) fun _ t _ => h.refl t

theorem leads_offerFrame (h : DvrMoves R e) (f : Nat) : ∀ l, Leads R (offerFrame e f l)
  | [] => h.part (.pure _)
  | _ :: cs => by
    have ih := leads_offerFrame h f cs
    have hd : Leads R (modDvr e (·.dropReference f)) := fun s => h.dropReference s f
    unfold offerFrame
    dsimp only
    repeat first
      | assumption
      | with_reducible exact h.part (by constructor)
      | with_reducible refine leads_ite ?_ ?_
      | with_reducible refine leads_bind h.toTravels ?_ fun _ => ?_

/-- An instance with a frame in progress is one of the block's. -/
theorem instance_of_currentFrame {s : State} {e f : Nat} (hf : (s.dvr e).currentFrame = some f) :
    e < s.inst.length := by
  by_contra hl
  have hr : s.dvr e = Dvr.reset s.par := by
    simp [State.dvr, State.instAt, Nat.not_lt.mp hl, Inst.reset]
  rw [hr] at hf
  cases hf

theorem leads_dispatch_at (h : DvrMoves R e) (f : Nat) {s : State}
    (hf : (s.dvr e).currentFrame = some f) : R s (finalState (dispatch e f s)) := by
  refine leads_bind_at h.toTravels (h.dispatchFrame s f hf) fun _ t _ => ?_
  have hd : Leads R (modDvr e (·.endDispatch f)) := fun s => h.endDispatch s f
  exact leads_bind h.toTravels (h.part (.getDvr e)) (fun _ =>
    leads_bind h.toTravels (leads_offerFrame h f _) fun _ => hd) t

theorem leads_copyBlock_at (h : DvrMoves R e) (f : Nat) (row : DvFormat) (p : List Byte) (o : Nat)
    {s : State} (hf : (s.dvr e).currentFrame = some f) :
    R s (finalState (copyBlock e f row p o s)) := by
  refine leads_bind_at h.toTravels (h.fillFrame s f _ hf) fun _ t ht => ?_
  have ht' : t = s.modDvr e (·.fillFrame f ((p.drop o).take row.blk)) := by cases ht; rfl
  rw [run_bind, run_getDvr]
  simp only [run_ite]
  split
  · apply leads_dispatch_at h
    rw [ht', dvr_modDvr_same _ _ (instance_of_currentFrame hf)]
    exact hf
  · exact h.refl _

theorem leads_cycleBlocks (h : DvrMoves R e) (row : DvFormat) (p : List Byte) (syt : Half)
    (ts : Word) : ∀ n b, Leads R (cycleBlocks e row p syt ts n b)
  | 0, _ => h.part (.pure _)
  | n + 1, b => by
    intro s
    have ih := leads_cycleBlocks h row p syt ts n
    unfold cycleBlocks
    rw [run_bind, run_getDvr]
    rcases hf : (s.dvr e).currentFrame with _ | f
    · simp only [hf]
      refine leads_bind_at h.toTravels (leads_startFrame_at h row syt ts hf) fun ok t _ => ?_
      simp only [run_ite]
      split
      · rw [run_bind, run_getDvr]
        rcases hf : (t.dvr e).currentFrame with _ | f
        · simp only [hf]
          exact h.refl _
        · simp only [hf]
          exact leads_bind_at h.toTravels (leads_copyBlock_at h f row p _ hf) fun _ t _ => ih _ t
      · exact h.refl _
    · simp only [hf]
      exact leads_bind_at h.toTravels (leads_copyBlock_at h f row p _ hf) fun _ t _ => ih _ t

theorem leads_cycleData (h : DvrMoves R e) (row : DvFormat) (p : List Byte) (len : Nat)
    (ts : Word) : Leads R (cycleData e row p len ts) := by
  intro s
  unfold cycleData
  rw [run_bind, run_getDvr]
  rcases hf : (s.dvr e).currentFrame with _ | f
  · simp only [hf]
    exact h.refl _
  · simp only [hf, run_ite]
    split
    · exact leads_cycleBlocks h row p _ _ _ _ s
    · exact leads_bind_at h.toTravels (h.abandonFrame s f hf) fun _ t _ =>
        leads_notifyAll h.toShared e _ t

/-- No frame comes to be in progress in instance `e`. -/
def StaysWithoutFrame (e : Nat) (s t : State) : Prop :=
  (s.dvr e).currentFrame = none → (t.dvr e).currentFrame = none

theorem staysWithoutFrame_calls (e : Nat) : CallStable (StaysWithoutFrame e) where
  refl _ := id
  trans h1 h2 h := h2 (h1 h)
  setCmd _ _ := id
  setStatus _ _ := id
  setRes0 _ _ := id
  setRes1 _ _ := id
  setRes2 _ _ := id
  setRes3 _ _ := id
  hostWrite s r v := by cases r <;> exact id
  writeBytes _ _ _ _ := id
  takeFault _ _ := id
  release s j f _ _ _ := by
    intro h
    by_cases he : j = e
    · subst he
      by_cases hl : j < s.inst.length
      · rw [dvr_modDvr_same _ _ hl]
        unfold Dvr.release
        simp only
        split <;> exact h
      · simpa [modDvr_eq, State.setInst, List.set_eq_of_length_le (Nat.not_lt.mp hl)] using h
    · rwa [dvr_modDvr_ne _ _ he]
  releaseBuf s j _ _ _ := by
    intro h
    rwa [dvr_modTs]
  setWatchdog s j _ := by
    intro h
    rwa [dvr_modEng]
  enterCallback _ _ := id
  leaveCallback _ := id
  emit _ _ := id
  takeDraw _ _ _ := id

/-- After `abandonCurrent` no frame is in progress, whatever the consumers did. -/
theorem abandonCurrent_currentFrame {e : Nat} {s t : State} (h : abandonCurrent e s = .ok () t) :
    (t.dvr e).currentFrame = none := by
  unfold abandonCurrent at h
  rw [run_bind, run_getDvr] at h
  rcases hf : (s.dvr e).currentFrame with _ | f
  · simp only [hf] at h
    cases h
    exact hf
  · simp only [hf] at h
    unfold abandon at h
    rw [run_bind, run_modDvr] at h
    simp only at h
    have hn := leads_notifyAll (staysWithoutFrame_calls e).shared e .frameCorrupted
      (s.modDvr e (·.abandonFrame f))
    rw [h] at hn
    exact hn (by rw [dvr_modDvr_same _ _ (instance_of_currentFrame hf)]; rfl)

/-- DVR_CYCLE semantics (R203). -/
theorem leads_dvrCycle (h : DvrMoves R e) (hdr : Word) (pa : Nat) (ts : Word) :
    Leads R (dvrCycle e hdr pa ts) := by
  intro s
  unfold dvrCycle
  rw [run_bind, run_getState]
  rcases hr : s.par.dvRow (s.dvr e).dvMode with _ | row
  · simp only [hr]
    exact h.refl _
  simp only [hr, run_ite]
  split
  · exact h.refl _
  refine leads_bind_at h.toTravels (h.part (.memRead _ _) s) fun p t _ => ?_
  simp only [run_ite]
  split
  · refine leads_bind_at h.toTravels (leads_abandonCurrent h t) fun _ u hu => ?_
    have hn := abandonCurrent_currentFrame hu
    simp only [run_ite]
    split
    · exact leads_bind h.toTravels (leads_notifyAll h.toShared e _) (fun _ => h.part (.pure _)) u
    · refine leads_bind_at h.toTravels (leads_startFrame_at h _ _ _ hn) fun ok v _ => ?_
      simp only [run_ite]
      split
      · exact leads_bind h.toTravels (leads_cycleData h _ _ _ _) (fun _ => h.part (.pure _)) v
      · exact h.refl _
  · exact leads_bind h.toTravels (leads_cycleData h _ _ _ _) (fun _ => h.part (.pure _)) t

/-! ### Unit TS -/

/-- The moves of the demultiplexer of instance `e`: a change of its record under which the
buffer-conservation law holds on, a buffer taken for a stream that has none, and a delivery
(45_ts_demux.md R271 to R290). -/
structure TsMoves (R : State → State → Prop) (e : Nat) : Prop extends Shared R where
  lawful : ∀ s (g : Ts → Ts), (∀ t : Ts, t.law → (g t).law) → R s (State.modTs s e g)
  allocCurrent : ∀ s y, ((State.ts s e).stream y).curBuf = none →
    R s (State.modTs s e (·.allocCurrent y))
  deliverBuf : ∀ s y b, ((State.ts s e).stream y).curBuf = some b →
    R s (State.modTs s e (·.deliverBuf y b))

theorem TsMoves.leads (h : TsMoves R e) {g : Ts → Ts} (hg : ∀ t, t.law → (g t).law) :
    Leads R (modTs e g) := fun s => h.lawful s g hg

theorem TsMoves.leads_stream (h : TsMoves R e) (y : StreamType) {g : Stream → Stream}
    (hg : ∀ x, (g x).curBuf = x.curBuf) : Leads R (modTs e (·.modStream y g)) :=
  h.leads fun _ ht => Ts.law_modStream ht y hg

/-- A change of the record that leaves streams, buffers and free queues keeps the law. -/
theorem Ts.law_registers {t u : Ts} (ht : t.law) (hv : u.video = t.video) (ha : u.audio = t.audio)
    (hb : u.bufs = t.bufs) (h1 : u.pesFreeV = t.pesFreeV) (h2 : u.pesFreeA = t.pesFreeA) : u.law :=
  Ts.law_same ht (fun y => by cases y <;> simp [Ts.pesFree, *])
    (fun y => by cases y <;> simp [Ts.stream, *]) (by simp [Ts.nextPesId, hb])
    (fun j => by simp [Ts.buf, hb])

theorem leads_notifyPes (h : TsMoves R e) (m : Msg) (b : Option Nat) : Leads R (notifyPes e m b) :=
  leads_bind h.toTravels (h.leads fun _ ht => Ts.law_registers ht rfl rfl rfl rfl rfl)
    fun _ => h.part (.notify _)

theorem leads_deliver (h : TsMoves R e) (y : StreamType) (m : Msg) : Leads R (deliver e y m) := by
  intro s
  unfold deliver
  rw [run_bind, run_getTs]
  rcases hb : ((s.ts e).stream y).curBuf with _ | b
  · simp only [hb]
    exact h.refl _
  · simp only [hb]
    exact leads_bind_at h.toTravels (h.deliverBuf s y b hb) fun _ t _ => leads_notifyPes h _ _ t

theorem leads_packetError (h : TsMoves R e) (y : StreamType) : Leads R (packetError e y) := by
  refine leads_bind h.toTravels (h.part (.getTs e)) fun t => ?_
  have hn : Leads R (modTs e (·.modStream y (fun x =>
      { x with foundFirst := false, streamCont := none, truncated := false }))) :=
    h.leads_stream y fun _ => rfl
  dsimp only
  exact leads_ite (leads_bind h.toTravels (leads_deliver h y _) fun _ => hn)
    (leads_bind h.toTravels (leads_notifyPes h _ _) fun _ => hn)

theorem leads_discontinuity (h : TsMoves R e) (y : StreamType) : Leads R (discontinuity e y) :=
  leads_bind h.toTravels (h.leads fun _ ht => Ts.law_dropPartial ht y) fun _ =>
    leads_notifyPes h _ _

theorem leads_startPes (h : TsMoves R e) (y : StreamType) (ts : Word) :
    Leads R (startPes e y ts) := by
  have h2 : Leads R (modTs e (·.beginPes y ts)) := h.leads fun _ ht => Ts.law_beginPes ht y ts
  have h3 : Leads R (do
      let t ← getTs e
      if (t.stream y).curBuf.isNone then modTs e (·.allocCurrent y) else pure ()
      modTs e (·.beginPes y ts)) := by
    intro s
    dsimp only
    rw [run_bind, run_getTs]
    dsimp only
    rw [run_ite]
    split
    · next hn =>
      exact leads_bind_at h.toTravels (h.allocCurrent s y (by simpa using hn)) fun _ t _ => h2 t
    · exact h2 s
  unfold startPes
  dsimp only at h3 ⊢
  refine leads_bind h.toTravels (h.part (.getTs e)) fun _ => leads_ite ?_ h3
  exact leads_bind h.toTravels (leads_deliver h y _) fun _ => h3

theorem leads_accumulate (h : TsMoves R e) (y : StreamType) (bytes : List Byte) :
    Leads R (accumulate e y bytes) := by
  refine leads_bind h.toTravels (h.part .getPar) fun p =>
    leads_bind h.toTravels (h.part (.getTs e)) fun t => ?_
  split
  · exact h.part (.pure _)
  refine leads_ite ?_ (leads_ite ?_ ?_)
  · exact h.leads fun _ ht => Ts.law_notePosition (Ts.law_appendBuf ht _ _) y
  · exact h.leads fun _ ht =>
      Ts.law_notePosition (Ts.law_modStream (Ts.law_appendBuf ht _ _) y (by exact fun _ => rfl)) y
  · exact leads_bind h.toTravels (leads_deliver h y _) fun _ =>
      h.leads fun _ ht => Ts.law_notePosition (Ts.law_modStream ht y (by exact fun _ => rfl)) y

theorem leads_streamPacket (h : TsMoves R e) (y : StreamType) (t : List Byte) (ts : Word) :
    Leads R (streamPacket e y t ts) := by
  have h1 := leads_packetError h y
  have h2 := leads_discontinuity h y
  have h3 := leads_startPes h y ts
  have h4 := leads_accumulate h y (tsPayload (tsHeader t) t)
  have h5 : Leads R (modTs e (·.modStream y (fun x => { x with streamCont := some (tsHeader t).cc }))) :=
    h.leads_stream y fun _ => rfl
  unfold streamPacket
  dsimp only
  repeat first
    | assumption
    | with_reducible exact h.part (by constructor)
    | with_reducible refine leads_ite ?_ ?_
    | with_reducible refine leads_bind h.toTravels ?_ fun _ => ?_
    | split

theorem Ts.law_applyVideoPid {t : Ts} (ht : t.law) (o : Option Pid) : (t.applyVideoPid o).law := by
  unfold Ts.applyVideoPid
  split
  · exact ht
  · next v =>
    have hu : ({ t with videoPid := ⟨true, v⟩ } : Ts).law := Ts.law_registers ht rfl rfl rfl rfl rfl
    simp only
    split
    · exact hu
    · exact Ts.law_resetStream hu _

theorem Ts.law_applyAudioPid {t : Ts} (ht : t.law) (o : Option Pid) : (t.applyAudioPid o).law := by
  unfold Ts.applyAudioPid
  split
  · exact ht
  · next v =>
    have hu : ({ t with audioPid := ⟨true, v⟩ } : Ts).law := Ts.law_registers ht rfl rfl rfl rfl rfl
    simp only
    split
    · exact hu
    · exact Ts.law_resetStream hu _

theorem Ts.law_applyPmtPid {t : Ts} (ht : t.law) (o : Option Pid) : (t.applyPmtPid o).law := by
  unfold Ts.applyPmtPid
  split
  · exact ht
  · exact Ts.law_registers ht rfl rfl rfl rfl rfl

theorem Ts.law_forgetPids {t : Ts} (ht : t.law) : t.forgetPids.law := by
  unfold Ts.forgetPids
  refine Ts.law_resetStream (Ts.law_resetStream ?_ _) _
  exact Ts.law_registers ht rfl rfl rfl rfl rfl

theorem leads_psiPacket (h : TsMoves R e) (t : List Byte) : Leads R (psiPacket e t) := by
  have h1 : ∀ d : Draw, Leads R (modTs e (fun t =>
      ((t.applyVideoPid d.videoPid).applyAudioPid d.audioPid).applyPmtPid d.pmtPid)) := fun d =>
    h.leads fun _ ht => Ts.law_applyPmtPid (Ts.law_applyAudioPid (Ts.law_applyVideoPid ht _) _) _
  unfold psiPacket
  dsimp only
  repeat first
    | assumption
    | with_reducible exact h.part (by constructor)
    | with_reducible exact h1 _
    | with_reducible refine leads_ite ?_ ?_
    | with_reducible refine leads_bind h.toTravels ?_ fun _ => ?_

theorem leads_psiWatchdog (h : TsMoves R e) : Leads R (psiWatchdog e) :=
  leads_bind h.toTravels (h.part (.getTs e)) fun _ => leads_ite
    (leads_bind h.toTravels (h.leads fun _ ht => Ts.law_forgetPids ht) fun _ => leads_notifyPes h _ _)
    (h.part (.pure _))

/-- TS_PACKET semantics (R271). -/
theorem leads_tsPacket (h : TsMoves R e) (addr : Nat) (ts : Word) : Leads R (tsPacket e addr ts) := by
  have h1 := leads_streamPacket h
  have h2 := leads_psiPacket h
  have h3 := leads_psiWatchdog h
  have h4 : Leads R (modTs e (fun u => { u with pktSinceCb := countPacket u.pktSinceCb })) :=
    h.leads fun _ ht => Ts.law_registers ht rfl rfl rfl rfl rfl
  unfold tsPacket
  dsimp only
  repeat first
    | assumption
    | with_reducible exact h.part (by constructor)
    | with_reducible exact h1 _ _ _
    | with_reducible exact h2 _
    | with_reducible refine leads_ite ?_ ?_
    | with_reducible refine leads_bind h.toTravels ?_ fun _ => ?_
    | split

theorem leads_flushStream (h : TsMoves R e) (y : StreamType) : Leads R (flushStream e y) := by
  have hn : Leads R (modTs e (·.modStream y (fun x =>
      { x with foundFirst := false, streamCont := none, truncated := false, pesPacketPos := 0 }))) :=
    h.leads_stream y fun _ => rfl
  unfold flushStream
  dsimp only
  exact leads_bind h.toTravels (h.part (.getTs e)) fun _ => leads_ite
    (leads_bind h.toTravels (leads_deliver h y _) fun _ => hn) hn

/-- TS_FLUSH semantics (R287). -/
theorem leads_tsFlush (h : TsMoves R e) : Leads R (tsFlush e) :=
  leads_bind h.toTravels (leads_flushStream h _) fun _ => leads_flushStream h _

/-! ### Unit UNI -/

/-- The moves of the universal receiver of instance `e` (42_buffer_engine.md R180). -/
structure UrxMoves (R : State → State → Prop) (e : Nat) : Prop extends TsMoves R e where
  lastFmt : ∀ s f, R s (State.modEng s e (fun g => { g with lastFmt := f }))

theorem leads_feedPackets (h : TsMoves R e) (pa : Nat) : ∀ n i, Leads R (feedPackets e pa n i)
  | 0, _ => h.part (.pure _)
  | n + 1, i => leads_bind h.toTravels (h.part (.memRead _ _)) fun _ =>
      leads_bind h.toTravels (leads_tsPacket h _ _) fun _ => leads_feedPackets h pa n (i + 1)

/-- URX_CYCLE semantics (R180). -/
theorem leads_urxCycle (h : UrxMoves R e) (hdr : Word) (pa : Nat) (ts : Word) :
    Leads R (urxCycle e hdr pa ts) := by
  have h1 := leads_feedPackets h.toTsMoves pa
  have h2 := leads_tsFlush h.toTsMoves
  have h3 : ∀ f, Leads R (modEng e (fun g => { g with lastFmt := f })) := fun f s => h.lastFmt s f
  unfold urxCycle
  dsimp only
  repeat first
    | assumption
    | with_reducible exact h.part (by constructor)
    | with_reducible exact h1 _ _
    | with_reducible exact h3 _
    | with_reducible refine leads_ite ?_ ?_
    | with_reducible refine leads_bind h.toTravels ?_ fun _ => ?_
    | split

/-- The one move of the transmitters of instance `e` on the engine's slots (42_buffer_engine.md R182;
44_dv_transmit.md R245). -/
structure SlotMoves (R : State → State → Prop) (e : Nat) : Prop extends Shared R where
  slotHdr : ∀ s k w, R s (State.modEng s e (·.setSlotHdr k w))

/-- UTX_CYCLE semantics (R182). -/
theorem leads_utxCycle (h : SlotMoves R e) (k : Nat) : Leads R (utxCycle e k) := by
  have h1 : ∀ w, Leads R (modEng e (·.setSlotHdr k w)) := fun w s => h.slotHdr s k w
  unfold utxCycle
  repeat first
    | with_reducible exact h.part (by constructor)
    | with_reducible exact h1 _
    | with_reducible refine leads_ite ?_ ?_
    | with_reducible refine leads_bind h.toTravels ?_ fun _ => ?_

/-! ### Unit DVT -/

@[simp] theorem Dvt.modFrame_length (d : Dvt) (f : Nat) (g : TxFrame → TxFrame) :
    (d.modFrame f g).frames.length = d.frames.length := by simp [Dvt.modFrame]

@[simp] theorem Dvt.clearRefs_length (d : Dvt) (k : Nat) :
    (d.clearRefs k).frames.length = d.frames.length := rfl

@[simp] theorem Dvt.beginFrame_length (d : Dvt) (f : Nat) (syt : Half) :
    (d.beginFrame f syt).frames.length = d.frames.length := by simp [Dvt.beginFrame]

@[simp] theorem Dvt.addRef_length (d : Dvt) (k f : Nat) :
    (d.addRef k f).frames.length = d.frames.length := by
  unfold Dvt.addRef
  split <;> simp

@[simp] theorem Dvt.blockCopied_length (d : Dvt) (k f blk len : Nat) :
    (d.blockCopied k f blk len).frames.length = d.frames.length := by
  unfold Dvt.blockCopied
  dsimp only
  split <;> simp

/-- The moves of the DV producer of instance `e` (44_dv_transmit.md R242 to R248). No record is added to the
frame store, and none is taken from it. -/
structure DvtMoves (R : State → State → Prop) (e : Nat) : Prop extends SlotMoves R e where
  record : ∀ s g, (∀ d : Dvt, (g d).frames.length = d.frames.length) → R s (State.modDvt s e g)
  steal : ∀ s, R s (State.modEng s e (fun g => { g with stealCount := g.stealCount - 1 }))
  writeBytes : ∀ s a bytes, a + List.length bytes ≤ s.par.bufBytes → R s (State.writeBytes s a bytes)

theorem DvtMoves.leads (h : DvtMoves R e) {g : Dvt → Dvt}
    (hg : ∀ d, (g d).frames.length = d.frames.length) : Leads R (modDvt e g) :=
  fun s => h.record s g hg

theorem leads_releaseFrame (h : DvtMoves R e) (f : Nat) : Leads R (releaseFrame e f) :=
  leads_bind h.toTravels (h.leads (by simp)) fun _ => h.part (.notify _)

theorem leads_dropRefs (h : DvtMoves R e) : ∀ l, Leads R (dropRefs e l)
  | [] => h.part (.pure _)
  | f :: fs => by
    have h1 := leads_releaseFrame h f
    have h2 := leads_dropRefs h fs
    unfold dropRefs
    dsimp only
    repeat first
      | assumption
      | with_reducible exact h.part (by constructor)
      | ((with_reducible refine h.leads ?_); simp)
      | with_reducible refine leads_ite ?_ ?_
      | with_reducible refine leads_bind h.toTravels ?_ fun _ => ?_

theorem leads_releaseSlotRefs (h : DvtMoves R e) (k : Nat) : Leads R (releaseSlotRefs e k) :=
  leads_bind h.toTravels (h.part (.getDvt e)) fun _ =>
    leads_bind h.toTravels (leads_dropRefs h _) fun _ => h.leads (by simp)

theorem leads_pullFrame (h : DvtMoves R e) (row : DvFormat) : Leads R (pullFrame e row) := by
  unfold pullFrame
  dsimp only
  repeat first
    | with_reducible exact h.part (by constructor)
    | ((with_reducible refine h.leads ?_); simp)
    | with_reducible refine leads_ite ?_ ?_
    | with_reducible refine leads_bind h.toTravels ?_ fun _ => ?_

theorem leads_copyOut (h : DvtMoves R e) (k : Nat) (row : DvFormat) (nb f : Nat) :
    Leads R (copyOut e k row nb f) := by
  have h1 := leads_memWrite h.takeFault h.writeBytes
  unfold copyOut
  repeat first
    | with_reducible exact h.part (by constructor)
    | ((with_reducible refine h.leads ?_); simp)
    | with_reducible exact h1 _ _
    | with_reducible refine leads_bind h.toTravels ?_ fun _ => ?_

theorem leads_fillSlot (h : DvtMoves R e) (k : Nat) (row : DvFormat) :
    ∀ n nb syt, Leads R (fillSlot e k row n nb syt)
  | 0, _, _ => h.part (.pure _)
  | n + 1, nb, syt => by
    have ih := leads_fillSlot h k row n
    have h1 := leads_copyOut h k row
    have h2 := leads_pullFrame h row
    unfold fillSlot
    repeat first
      | assumption
      | with_reducible exact h.part (by constructor)
      | with_reducible exact h1 _ _
      | with_reducible exact ih _ _
      | with_reducible refine leads_ite ?_ ?_
      | with_reducible refine leads_bind h.toTravels ?_ fun _ => ?_
      | split

theorem leads_writeHeader (h : DvtMoves R e) (k : Nat) (row : DvFormat) (nb : Nat) (syt : Half) :
    Leads R (writeHeader e k row nb syt) := by
  have h1 := leads_memWrite h.takeFault h.writeBytes
  have h2 : ∀ w, Leads R (modEng e (·.setSlotHdr k w)) := fun w s => h.slotHdr s k w
  unfold writeHeader
  repeat first
    | with_reducible exact h.part (by constructor)
    | with_reducible exact h1 _ _
    | with_reducible exact h2 _
    | with_reducible refine leads_bind h.toTravels ?_ fun _ => ?_

/-- DVT_CYCLE semantics (R243). -/
theorem leads_dvtCycle (h : DvtMoves R e) (k : Nat) : Leads R (dvtCycle e k) := by
  have h1 := leads_releaseSlotRefs h k
  have h2 := leads_fillSlot h k
  have h3 := leads_writeHeader h k
  have h4 := leads_addCycles h.toShared
  have h5 : Leads R (modEng e (fun g => { g with stealCount := g.stealCount - 1 })) := h.steal
  unfold dvtCycle
  dsimp only
  repeat first
    | assumption
    | with_reducible exact h.part (by constructor)
    | ((with_reducible refine h.leads ?_); simp)
    | with_reducible exact h2 _ _ _ _
    | with_reducible exact h3 _ _ _
    | with_reducible exact h4 _ _
    | with_reducible refine leads_ite ?_ ?_
    | with_reducible refine leads_bind h.toTravels ?_ fun _ => ?_
    | split

theorem leads_drainFrom (h : DvtMoves R e) : ∀ n k, Leads R (drainFrom e n k)
  | 0, _ => h.part (.pure _)
  | n + 1, k => leads_bind h.toTravels (leads_releaseSlotRefs h k) fun _ =>
      leads_drainFrom h n (k + 1)

end Sys2Proof.Machine
end

