-- ==== Sys2Proof/Laws/Encoding.lean ====
section
/-! SUPPORT. The fields of a command word, read back from the word that concatenates them
(spec/30_encoding.md R86, R88). -/

namespace Sys2Proof

section

variable {a b c : Nat} (x : BitVec a) (y : BitVec b)

theorem extract_high : (x ++ y).extractLsb' b a = x := by
  apply BitVec.eq_of_getLsbD_eq
  intro i hi
  simp [BitVec.getLsbD_append, hi]

theorem extract_low : (x ++ y).extractLsb' 0 b = y := by
  apply BitVec.eq_of_getLsbD_eq
  intro i hi
  simp [BitVec.getLsbD_append, hi]

end

/-- The three fields of a word built from them. -/
theorem fields_of_append (u o : Byte) (m : Half) :
    unitField (u ++ o ++ m) = u ∧ opField (u ++ o ++ m) = o ∧ immField (u ++ o ++ m) = m := by
  refine ⟨?_, ?_, extract_low _ _⟩
  · apply BitVec.eq_of_getLsbD_eq
    intro i hi
    simp only [unitField, BitVec.getLsbD_extractLsb', BitVec.getLsbD_append]
    simp [hi, show ¬ 24 + i < 16 by omega, show ¬ 24 + i - 16 < 8 by omega,
      show 24 + i - 16 - 8 = i by omega]
  · apply BitVec.eq_of_getLsbD_eq
    intro i hi
    simp only [opField, BitVec.getLsbD_extractLsb', BitVec.getLsbD_append]
    simp [hi, show ¬ 16 + i < 16 by omega, show 16 + i - 16 = i by omega]

/-- A word is the concatenation of its three fields (R86). -/
theorem append_of_fields (w : Word) : unitField w ++ opField w ++ immField w = w := by
  apply BitVec.eq_of_getLsbD_eq
  intro i hi
  simp only [unitField, opField, immField, BitVec.getLsbD_append, BitVec.getLsbD_extractLsb']
  by_cases h1 : i < 16
  · simp [h1]
  · by_cases h2 : i - 16 < 8
    · simp [h1, h2, show 16 + (i - 16) = i by omega]
    · simp [h1, h2, show i - 16 - 8 < 8 by omega, show 24 + (i - 16 - 8) = i by omega]

/-- The fields of an encoded instruction (R86 to R88). -/
theorem fields_of_encode (i : Instr) :
    unitField (encodeWord i) = i.opcode.1 ∧ opField (encodeWord i) = i.opcode.2 ∧
      immField (encodeWord i) = i.imm := fields_of_append _ _ _

/-- An instance index in `imm`: bits [15:8] are 0 and bits [7:0] are the index (R88). -/
theorem instance_imm {e : Nat} (h : e < 256) :
    (BitVec.ofNat 16 e).extractLsb' 8 8 = 0 ∧
      ((BitVec.ofNat 16 e).extractLsb' 0 8).toNat = e := by
  constructor
  · apply BitVec.eq_of_toNat_eq
    simp only [BitVec.extractLsb'_toNat, BitVec.toNat_ofNat, Nat.shiftRight_eq_div_pow]
    simp
    omega
  · simp only [BitVec.extractLsb'_toNat, BitVec.toNat_ofNat]
    omega

/-- The three fields of a CTL `imm` (R88). -/
theorem ctl_imm {u i x : Nat} (hu : u < 16) (hi : i < 16) (hx : x < 256) :
    let m : Half := BitVec.ofNat 4 u ++ BitVec.ofNat 4 i ++ BitVec.ofNat 8 x
    (m.extractLsb' 12 4).toNat = u ∧ (m.extractLsb' 8 4).toNat = i ∧
      (m.extractLsb' 0 8).toNat = x := by
  have e : ((BitVec.ofNat 4 u ++ BitVec.ofNat 4 i ++ BitVec.ofNat 8 x : Half)).toNat =
      u * 4096 + i * 256 + x := by
    rw [BitVec.toNat_append, BitVec.toNat_append, ← Nat.shiftLeft_add_eq_or_of_lt,
      ← Nat.shiftLeft_add_eq_or_of_lt]
    · simp only [BitVec.toNat_ofNat, Nat.shiftLeft_eq]; omega
    · simp only [BitVec.toNat_ofNat]; omega
    · exact (BitVec.ofNat 8 x).isLt
  simp only [BitVec.extractLsb'_toNat, e, Nat.shiftRight_eq_div_pow]
  refine ⟨?_, ?_, ?_⟩ <;> omega

/-- An `imm` whose bits [15:8] are 0 is the instance index of its bits [7:0] (R88). -/
theorem imm_of_instance {m : Half} (h : m.extractLsb' 8 8 = 0) :
    BitVec.ofNat 16 (m.extractLsb' 0 8).toNat = m ∧ (m.extractLsb' 0 8).toNat < 256 := by
  have h1 : m.toNat / 256 % 256 = 0 := by
    have := congrArg BitVec.toNat h
    simpa [BitVec.extractLsb'_toNat, Nat.shiftRight_eq_div_pow] using this
  have := m.isLt
  refine ⟨BitVec.eq_of_toNat_eq ?_, (m.extractLsb' 0 8).isLt⟩
  simp [BitVec.extractLsb'_toNat]
  omega

/-- An `imm` is the concatenation of its three CTL fields (R88). -/
theorem imm_of_ctl (m : Half) :
    (BitVec.ofNat 4 (m.extractLsb' 12 4).toNat ++ BitVec.ofNat 4 (m.extractLsb' 8 4).toNat ++
      BitVec.ofNat 8 (m.extractLsb' 0 8).toNat : BitVec 16) = m := by
  apply BitVec.eq_of_getLsbD_eq
  intro i hi
  simp only [BitVec.ofNat_toNat, BitVec.setWidth_eq, BitVec.getLsbD_append,
    BitVec.getLsbD_extractLsb']
  by_cases h1 : i < 8
  · simp [h1]
  · by_cases h2 : i - 8 < 4
    · simp [h1, h2, show 8 + (i - 8) = i by omega]
    · simp [h1, h2, show i - 8 - 4 < 4 by omega, show 12 + (i - 8 - 4) = i by omega]

theorem decodeNoImm_ok {m : Half} {j i : Instr} (h : decodeNoImm m j = .ok i) : m = 0 ∧ j = i := by
  unfold decodeNoImm at h
  split at h
  · exact ⟨by assumption, by injection h⟩
  · contradiction

theorem decodeInstance_ok {m : Half} {f : Nat → Instr} {i : Instr}
    (h : decodeInstance m f = .ok i) : ∃ e, e < 256 ∧ BitVec.ofNat 16 e = m ∧ f e = i := by
  unfold decodeInstance at h
  split at h
  · next hm =>
    have := imm_of_instance hm
    exact ⟨_, this.2, this.1, by injection h⟩
  · contradiction

theorem decodeCtl_ok {m : Half} {f : Nat → Nat → Nat → Instr} {i : Instr}
    (h : decodeCtl m f = .ok i) :
    ∃ u j x, (u < 16 ∧ j < 16 ∧ x < 256) ∧
      BitVec.ofNat 4 u ++ BitVec.ofNat 4 j ++ BitVec.ofNat 8 x = m ∧ f u j x = i :=
  ⟨_, _, _, ⟨(m.extractLsb' 12 4).isLt, (m.extractLsb' 8 4).isLt, (m.extractLsb' 0 8).isLt⟩,
    imm_of_ctl m, by injection h⟩

theorem ite_elim {α : Type} {c P : Prop} [Decidable c] {x y r : α}
    (h : (if c then x else y) = r) (h1 : c → x = r → P) (h2 : ¬ c → y = r → P) : P := by
  split at h
  · exact h1 ‹_› h
  · exact h2 ‹_› h

/-- What the decoder can answer: an instruction whose fields all fit, with the word's opcode and `imm`;
only an event takes the carried argument (R86 to R88). -/
theorem decode_cases {w : Word} {a : Half} {i : Instr} (h : decode w a = .ok i) :
    i.opcode = (unitField w, opField w) ∧ i.imm = immField w ∧ i.wellFormed = true ∧
      (i.isEvent = false → i.carried = 0) ∧ (i.carried = 0 ∨ i.carried = a) := by
  unfold decode decodeFields at h
  generalize unitField w = u at h ⊢
  generalize opField w = o at h ⊢
  generalize immField w = m at h ⊢
  repeat' (first | contradiction | (with_reducible refine ite_elim h ?_ ?_ <;> clear h <;> intro hc h <;> try subst hc))
  all_goals first
    | (obtain ⟨rfl, rfl⟩ := decodeNoImm_ok h
       exact ⟨rfl, rfl, rfl, fun _ => rfl, .inl rfl⟩)
    | (obtain ⟨e, he, rfl, rfl⟩ := decodeInstance_ok h
       exact ⟨rfl, rfl, decide_eq_true he, fun _ => rfl, .inl rfl⟩)
    | (obtain ⟨u, j, x, hf, rfl, rfl⟩ := decodeCtl_ok h
       exact ⟨rfl, rfl, decide_eq_true hf, fun _ => rfl, .inl rfl⟩)
    | (obtain ⟨e, he, rfl, rfl⟩ := decodeInstance_ok h
       refine ⟨rfl, rfl, ?_, fun h => ?_, .inr ?_⟩
       · have := a.isLt
         simp [Instr.wellFormed, instanceFits, segmentFits, he, this]
       · cases h
       · simp [Instr.carried])

/-- The decoder reads an instruction from the word that encodes it only (R86). -/
theorem encodeWord_of_decode {w : Word} {a : Half} {i : Instr} (h : decode w a = .ok i) :
    encodeWord i = w := by
  obtain ⟨h1, h2, -⟩ := decode_cases h
  rw [encodeWord, h1, h2]
  exact append_of_fields w

/-- What a word written to CMD can stand for: a command, never an event (R90). -/
theorem decodeCommand_ok {w : Word} {i : Instr} (h : decodeCommand w = .ok i) :
    decode w 0 = .ok i ∧ i.isEvent = false := by
  unfold decodeCommand at h
  split at h
  · split at h
    · contradiction
    · injection h with h; subst h; simp_all
  · contradiction

end Sys2Proof
end

