-- ==== Sys2Proof/Laws/PerInstr.lean ====
section
/-! SUPPORT. The family TableRow: the word of every well-formed instruction matches its row of
spec/opcode_table.json (30_encoding.md R86 to R88), one lemma per constructor of Instr. -/

namespace Sys2Proof.Laws.TableRow

/-- The (mask, match) pair of the instruction's row. -/
def row : Instr → Word × Word
  | .isCip => (0xFFFFFFFF, 0x01010000)
  | .parseCip => (0xFFFFFFFF, 0x01020000)
  | .buildCip => (0xFFFFFFFF, 0x01030000)
  | .ctAdd => (0xFFFFFFFF, 0x02010000)
  | .ctDelta => (0xFFFFFFFF, 0x02020000)
  | .ctIndex => (0xFFFFFFFF, 0x02030000)
  | .engSetup _ => (0xFFFFFF00, 0x03010000)
  | .engStart _ => (0xFFFFFF00, 0x03020000)
  | .engStop _ => (0xFFFFFF00, 0x03030000)
  | .engSetWatchdog _ => (0xFFFFFF00, 0x03040000)
  | .evSegment _ _ => (0xFFFFFF00, 0x03100000)
  | .evOverrun _ => (0xFFFFFF00, 0x03110000)
  | .evFinalize _ => (0xFFFFFF00, 0x03120000)
  | .evForceStop _ => (0xFFFFFF00, 0x03130000)
  | .evWatchdog _ => (0xFFFFFF00, 0x03140000)
  | .evPollTimeout _ => (0xFFFFFF00, 0x03150000)
  | .dvrCycle _ => (0xFFFFFF00, 0x04010000)
  | .dvrRelease _ => (0xFFFFFF00, 0x04020000)
  | .dvrRegister _ => (0xFFFFFF00, 0x04030000)
  | .dvtCycle _ => (0xFFFFFF00, 0x05010000)
  | .tsPacket _ => (0xFFFFFF00, 0x06010000)
  | .tsFlush _ => (0xFFFFFF00, 0x06020000)
  | .tsReleasePes _ => (0xFFFFFF00, 0x06030000)
  | .urxCycle _ => (0xFFFFFF00, 0x07010000)
  | .utxCycle _ => (0xFFFFFF00, 0x07020000)
  | .csrRead _ _ _ => (0xFFFF0000, 0x0F010000)
  | .csrWrite _ _ _ => (0xFFFF0000, 0x0F020000)

/-- A well-formed instruction's word has the row's fixed bits. -/
def Statement (i : Instr) : Prop :=
  i.wellFormed = true → encodeWord i &&& (row i).1 = (row i).2

theorem byte_bits (e : Nat) (h : e < 256) (hi : Half) :
    (hi ++ BitVec.ofNat 16 e : Word) &&& 0xFFFFFF00#32 = hi ++ 0#16 := by
  apply BitVec.eq_of_getLsbD_eq
  intro j hj
  have ht : ∀ k, 8 ≤ k → e.testBit k = false := fun k hk =>
    Nat.testBit_lt_two_pow (Nat.lt_of_lt_of_le h (Nat.pow_le_pow_right (n := 2) (by decide) hk))
  rw [BitVec.getLsbD_and, BitVec.getLsbD_append, BitVec.getLsbD_append, BitVec.getLsbD_ofNat]
  interval_cases j <;> simp [ht]

theorem half_bits (hi imm : Half) : (hi ++ imm : Word) &&& 0xFFFF0000#32 = hi ++ 0#16 := by
  apply BitVec.eq_of_getLsbD_eq
  intro j hj
  rw [BitVec.getLsbD_and, BitVec.getLsbD_append, BitVec.getLsbD_append]
  interval_cases j <;> simp

theorem isCip : Statement .isCip :=
  fun _ => by decide

theorem parseCip : Statement .parseCip :=
  fun _ => by decide

theorem buildCip : Statement .buildCip :=
  fun _ => by decide

theorem ctAdd : Statement .ctAdd :=
  fun _ => by decide

theorem ctDelta : Statement .ctDelta :=
  fun _ => by decide

theorem ctIndex : Statement .ctIndex :=
  fun _ => by decide

theorem engSetup (e : Nat) : Statement (.engSetup e) :=
  fun h => byte_bits e (of_decide_eq_true h) (0x03#8 ++ 0x01#8)

theorem engStart (e : Nat) : Statement (.engStart e) :=
  fun h => byte_bits e (of_decide_eq_true h) (0x03#8 ++ 0x02#8)

theorem engStop (e : Nat) : Statement (.engStop e) :=
  fun h => byte_bits e (of_decide_eq_true h) (0x03#8 ++ 0x03#8)

theorem engSetWatchdog (e : Nat) : Statement (.engSetWatchdog e) :=
  fun h => byte_bits e (of_decide_eq_true h) (0x03#8 ++ 0x04#8)

theorem evSegment (e seg : Nat) : Statement (.evSegment e seg) :=
  fun h => byte_bits e (of_decide_eq_true h).1 (0x03#8 ++ 0x10#8)

theorem evOverrun (e : Nat) : Statement (.evOverrun e) :=
  fun h => byte_bits e (of_decide_eq_true h) (0x03#8 ++ 0x11#8)

theorem evFinalize (e : Nat) : Statement (.evFinalize e) :=
  fun h => byte_bits e (of_decide_eq_true h) (0x03#8 ++ 0x12#8)

theorem evForceStop (e : Nat) : Statement (.evForceStop e) :=
  fun h => byte_bits e (of_decide_eq_true h) (0x03#8 ++ 0x13#8)

theorem evWatchdog (e : Nat) : Statement (.evWatchdog e) :=
  fun h => byte_bits e (of_decide_eq_true h) (0x03#8 ++ 0x14#8)

theorem evPollTimeout (e : Nat) : Statement (.evPollTimeout e) :=
  fun h => byte_bits e (of_decide_eq_true h) (0x03#8 ++ 0x15#8)

theorem dvrCycle (e : Nat) : Statement (.dvrCycle e) :=
  fun h => byte_bits e (of_decide_eq_true h) (0x04#8 ++ 0x01#8)

theorem dvrRelease (e : Nat) : Statement (.dvrRelease e) :=
  fun h => byte_bits e (of_decide_eq_true h) (0x04#8 ++ 0x02#8)

theorem dvrRegister (e : Nat) : Statement (.dvrRegister e) :=
  fun h => byte_bits e (of_decide_eq_true h) (0x04#8 ++ 0x03#8)

theorem dvtCycle (e : Nat) : Statement (.dvtCycle e) :=
  fun h => byte_bits e (of_decide_eq_true h) (0x05#8 ++ 0x01#8)

theorem tsPacket (e : Nat) : Statement (.tsPacket e) :=
  fun h => byte_bits e (of_decide_eq_true h) (0x06#8 ++ 0x01#8)

theorem tsFlush (e : Nat) : Statement (.tsFlush e) :=
  fun h => byte_bits e (of_decide_eq_true h) (0x06#8 ++ 0x02#8)

theorem tsReleasePes (e : Nat) : Statement (.tsReleasePes e) :=
  fun h => byte_bits e (of_decide_eq_true h) (0x06#8 ++ 0x03#8)

theorem urxCycle (e : Nat) : Statement (.urxCycle e) :=
  fun h => byte_bits e (of_decide_eq_true h) (0x07#8 ++ 0x01#8)

theorem utxCycle (e : Nat) : Statement (.utxCycle e) :=
  fun h => byte_bits e (of_decide_eq_true h) (0x07#8 ++ 0x02#8)

theorem csrRead (unit inst idx : Nat) : Statement (.csrRead unit inst idx) :=
  fun _ => half_bits (0x0F#8 ++ 0x01#8) _

theorem csrWrite (unit inst idx : Nat) : Statement (.csrWrite unit inst idx) :=
  fun _ => half_bits (0x0F#8 ++ 0x02#8) _

end Sys2Proof.Laws.TableRow
end

