-- ==== Sys2Proof/Laws/Records.lean ====
section
/-! SUPPORT. The laws of the unit-owned records over each change of a record (10_state.md R31,
43_dv_receive.md R212, 45_ts_demux.md R293, 42_buffer_engine.md R169). -/

namespace Sys2Proof.Machine

/-! ### DV receive frames -/

@[simp] theorem Dvr.modFrame_length (d : Dvr) (f : Nat) (g : RxFrame → RxFrame) :
    (d.modFrame f g).frames.length = d.frames.length := by simp [Dvr.modFrame]

/-! No change of a record adds one to a frame store or takes one from it (10_state.md R30, R33). -/

@[simp] theorem Dvr.freeFrame_length (d : Dvr) (f : Nat) :
    (d.freeFrame f).frames.length = d.frames.length := by simp [Dvr.freeFrame]

@[simp] theorem Dvr.abandonFrame_length (d : Dvr) (f : Nat) :
    (d.abandonFrame f).frames.length = d.frames.length := by simp [Dvr.abandonFrame]

@[simp] theorem Dvr.beginFrame_length (d : Dvr) (f : Nat) (rest : List Nat) (len : Nat) (syt : Half)
    (ts : Word) : (d.beginFrame f rest len syt ts).frames.length = d.frames.length := by
  simp [Dvr.beginFrame]

@[simp] theorem Dvr.fillFrame_length (d : Dvr) (f : Nat) (bytes : List Byte) :
    (d.fillFrame f bytes).frames.length = d.frames.length := by simp [Dvr.fillFrame]

@[simp] theorem Dvr.dispatchFrame_length (d : Dvr) (f : Nat) :
    (d.dispatchFrame f).frames.length = d.frames.length := by simp [Dvr.dispatchFrame]

@[simp] theorem Dvr.dropReference_length (d : Dvr) (f : Nat) :
    (d.dropReference f).frames.length = d.frames.length := by simp [Dvr.dropReference]

@[simp] theorem Dvr.endDispatch_length (d : Dvr) (f : Nat) :
    (d.endDispatch f).frames.length = d.frames.length := by
  unfold Dvr.endDispatch
  dsimp only
  split <;> simp

@[simp] theorem Dvr.release_length (d : Dvr) (f : Nat) :
    (d.release f).frames.length = d.frames.length := by
  unfold Dvr.release
  dsimp only
  split <;> simp

/-- Nor does a CSR_WRITE. -/
@[simp] theorem Csr.store_frames (x : Inst) (w : Word) (c : Csr) :
    (c.store x w).dvr.frames = x.dvr.frames ∧ (c.store x w).dvt.frames = x.dvt.frames := by
  cases c <;> exact ⟨rfl, rfl⟩

/-- One frame record after another, or the same one, is changed. -/
theorem Dvr.frame_modFrame (d : Dvr) (f : Nat) (g : RxFrame → RxFrame) (j : Nat) :
    (d.modFrame f g).frame j = if f = j ∧ f < d.frames.length then g (d.frame f) else d.frame j := by
  simp only [Dvr.modFrame, Dvr.frame, List.getD_eq_getElem?_getD, List.getElem?_set]
  by_cases h : f = j
  · subst h
    by_cases h2 : f < d.frames.length <;> simp [h2]
  · simp [h]

theorem Dvr.frame_congr {d d' : Dvr} (h : d'.frames = d.frames) (j : Nat) : d'.frame j = d.frame j := by
  rw [Dvr.frame, Dvr.frame, h]

@[simp] theorem Dvr.frame_modFrame_same {d : Dvr} {f : Nat} (g : RxFrame → RxFrame)
    (h : f < d.frames.length) : (d.modFrame f g).frame f = g (d.frame f) := by
  simp [Dvr.frame_modFrame, h]

theorem Dvr.modFrame_self (d : Dvr) (f : Nat) (g : RxFrame → RxFrame) (h : g (d.frame f) = d.frame f) :
    d.modFrame f g = d := by
  have : d.frames.set f (d.frame f) = d.frames := by
    apply List.ext_getElem
    · simp
    · intro n h1 h2
      by_cases hn : f = n
      · subst hn; simp [Dvr.frame, h2]
      · simp [hn]
  simp only [Dvr.modFrame, h, this]

theorem Dvr.modFrame_modFrame (d : Dvr) (f : Nat) (g h : RxFrame → RxFrame) :
    (d.modFrame f g).modFrame f h = d.modFrame f (fun r => h (g r)) := by
  by_cases hf : f < d.frames.length
  · rw [Dvr.modFrame, Dvr.frame_modFrame_same g hf]
    simp [Dvr.modFrame]
  · simp [Dvr.modFrame, List.set_eq_of_length_le (Nat.not_lt.mp hf)]

/-- A change of a frame that keeps its state, and keeps an unheld frame without references, keeps the
free-queue law. -/
theorem Dvr.law_modFrame {d : Dvr} (h : d.law) (f : Nat) {g : RxFrame → RxFrame}
    (hs : ∀ r, (g r).state = r.state)
    (hr : ∀ r, r.state ≠ .dispatched → r.refCount = 0 → (g r).refCount = 0) :
    (d.modFrame f g).law := by
  have hst : ∀ j, ((d.modFrame f g).frame j).state = (d.frame j).state := by
    intro j; rw [Dvr.frame_modFrame]; split
    · next hj => rw [hs, hj.1]
    · rfl
  refine ⟨h.1, ?_, ?_, ?_, ?_⟩
  · intro j; rw [Dvr.modFrame_length, hst]; exact h.2.1 j
  · intro j hj; rw [Dvr.modFrame_length, hst]; exact h.2.2.1 j hj
  · intro j hj; rw [Dvr.modFrame_length] at hj; rw [hst]; exact h.2.2.2.1 j hj
  · intro j hj; rw [Dvr.modFrame_length] at hj; rw [hst]
    intro hn
    rw [Dvr.frame_modFrame]
    split
    · next hjf => exact hr _ (by rw [hjf.1]; exact hn) (by rw [hjf.1]; exact h.2.2.2.2 j hj hn)
    · exact h.2.2.2.2 j hj hn

/-- A frame that is not Free goes to the free queue. `keep` says whether the frame in progress stays. -/
theorem Dvr.law_freeFrame {d : Dvr} (h : d.law) {f : Nat} (hf : f < d.frames.length)
    (hn : (d.frame f).state ≠ .free) (c : Option Nat)
    (hc : c = d.currentFrame ∧ d.currentFrame ≠ some f ∨ c = none ∧ d.currentFrame = some f) :
    { d.freeFrame f with currentFrame := c }.law := by
  have hnq : f ∉ d.freeQueue := fun hq => hn ((h.2.1 f).1 hq).2
  have hfr : ∀ j, ({ d.freeFrame f with currentFrame := c } : Dvr).frame j =
      if f = j then { d.frame f with state := .free, refCount := 0 } else d.frame j := by
    intro j
    rw [Dvr.frame_congr (d' := { d.freeFrame f with currentFrame := c })
      (d := d.modFrame f fun r => { r with state := .free, refCount := 0 }) rfl,
      Dvr.frame_modFrame]
    simp [hf]
  have hlen : ({ d.freeFrame f with currentFrame := c } : Dvr).frames.length = d.frames.length :=
    Dvr.modFrame_length d f (fun r => { r with state := .free, refCount := 0 })
  refine ⟨?_, ?_, ?_, ?_, ?_⟩
  · show (d.freeQueue ++ [f]).Nodup
    exact List.nodup_append.2 ⟨h.1, by simp, by
      intro a ha b hb; simp only [List.mem_singleton] at hb; subst hb; rintro rfl; exact hnq ha⟩
  · intro j
    rw [hfr]
    rw [hlen]
    show j ∈ d.freeQueue ++ [f] ↔ _
    rw [List.mem_append, List.mem_singleton, h.2.1 j]
    by_cases hj : f = j
    · subst hj; simp [hf]
    · simp [hj, Ne.symm hj]
  · intro j hj
    rw [hlen, hfr]
    rcases hc with ⟨rfl, hc⟩ | ⟨rfl, -⟩
    · have hjf : f ≠ j := by rintro rfl; exact hc hj
      rw [if_neg hjf]; exact h.2.2.1 j hj
    · cases hj
  · intro j hj
    rw [hlen] at hj
    rw [hfr]
    split
    · intro hx; cases hx
    · next hjf =>
      intro hx
      have := h.2.2.2.1 j hj hx
      rcases hc with ⟨rfl, -⟩ | ⟨rfl, hc⟩
      · exact this
      · rw [hc] at this; exact absurd (Option.some.inj this) hjf
  · intro j hj
    rw [hlen] at hj
    rw [hfr]
    split
    · intro _; rfl
    · exact h.2.2.2.2 j hj

theorem Dvr.law_abandonFrame {d : Dvr} (h : d.law) {f : Nat} (hc : d.currentFrame = some f) :
    (d.abandonFrame f).law := by
  obtain ⟨hf, hs⟩ := h.2.2.1 f hc
  exact Dvr.law_freeFrame h hf (by rw [hs]; exact fun hx => by cases hx) none (.inr ⟨rfl, hc⟩)

theorem Dvr.law_beginFrame {d : Dvr} (h : d.law) {f : Nat} {rest : List Nat}
    (hq : d.freeQueue = f :: rest) (hc : d.currentFrame = none) (len : Nat) (syt : Half) (ts : Word) :
    (d.beginFrame f rest len syt ts).law := by
  have hmem : f < d.frames.length ∧ (d.frame f).state = .free :=
    (h.2.1 f).1 (by rw [hq]; exact List.mem_cons_self)
  have hnd := h.1
  rw [hq, List.nodup_cons] at hnd
  have hfr : ∀ j, (d.beginFrame f rest len syt ts).frame j =
      if f = j then { d.frame f with
        state := .filling, currentOffset := 0, frameLen := len, refCount := 0
        frameSYTTime := syt, frameReceivedTimeStamp := ts } else d.frame j := by
    intro j
    rw [Dvr.frame_congr (d' := d.beginFrame f rest len syt ts)
      (d := d.modFrame f fun r => { r with
        state := .filling, currentOffset := 0, frameLen := len, refCount := 0, frameSYTTime := syt
        frameReceivedTimeStamp := ts }) rfl, Dvr.frame_modFrame]
    simp [hmem.1]
  have hlen : (d.beginFrame f rest len syt ts).frames.length = d.frames.length :=
    Dvr.modFrame_length d f (fun r => { r with
        state := .filling, currentOffset := 0, frameLen := len, refCount := 0, frameSYTTime := syt
        frameReceivedTimeStamp := ts })
  refine ⟨hnd.2, ?_, ?_, ?_, ?_⟩
  · intro j
    show j ∈ rest ↔ _
    rw [hlen, hfr]
    have := h.2.1 j
    rw [hq, List.mem_cons] at this
    split
    · next hj => subst hj; simp [hnd.1]
    · next hj => rw [← this]; simp [Ne.symm hj]
  · intro j hj
    cases hj
    rw [hlen, hfr, if_pos rfl]
    exact ⟨hmem.1, rfl⟩
  · intro j hj
    rw [hlen] at hj
    rw [hfr]
    split
    · next hj => subst hj; intro _; rfl
    · intro hx
      have := h.2.2.2.1 j hj hx
      rw [hc] at this; cases this
  · intro j hj
    rw [hlen] at hj
    rw [hfr]
    split
    · intro _; rfl
    · exact h.2.2.2.2 j hj

theorem Dvr.law_fillFrame {d : Dvr} (h : d.law) (f : Nat) (bytes : List Byte) :
    (d.fillFrame f bytes).law :=
  Dvr.law_modFrame h f (fun _ => rfl) (fun _ _ hr => hr)

theorem Dvr.law_dropReference {d : Dvr} (h : d.law) (f : Nat) : (d.dropReference f).law :=
  Dvr.law_modFrame h f (fun _ => rfl) (fun _ _ hr => by simp [hr])

theorem Dvr.law_dispatchFrame {d : Dvr} (h : d.law) {f : Nat} (hc : d.currentFrame = some f) :
    (d.dispatchFrame f).law := by
  obtain ⟨hf, hs⟩ := h.2.2.1 f hc
  have hfr : ∀ j, (d.dispatchFrame f).frame j =
      if f = j then { d.frame f with
        state := .dispatched, refCount := d.consumers.length, dispatching := true }
      else d.frame j := by
    intro j
    rw [Dvr.frame_congr (d' := d.dispatchFrame f)
      (d := d.modFrame f fun r => { r with
        state := .dispatched, refCount := d.consumers.length, dispatching := true }) rfl,
      Dvr.frame_modFrame]
    simp [hf]
  have hlen : (d.dispatchFrame f).frames.length = d.frames.length :=
    Dvr.modFrame_length d f (fun r => { r with
        state := .dispatched, refCount := d.consumers.length, dispatching := true })
  refine ⟨h.1, ?_, ?_, ?_, ?_⟩
  · intro j
    show j ∈ d.freeQueue ↔ _
    rw [hlen, hfr, h.2.1 j]
    split
    · next hj => subst hj; simp [hs]
    · rfl
  · intro j hj; cases hj
  · intro j hj
    rw [hlen] at hj
    rw [hfr]
    split
    · intro hx; cases hx
    · next hjf =>
      intro hx
      have := h.2.2.2.1 j hj hx
      rw [hc] at this; exact absurd (Option.some.inj this) hjf
  · intro j hj
    rw [hlen] at hj
    rw [hfr]
    split
    · intro hx; exact absurd rfl hx
    · exact h.2.2.2.2 j hj

theorem Dvr.law_endDispatch {d : Dvr} (h : d.law) (f : Nat) : (d.endDispatch f).law := by
  have h1 : (d.modFrame f (fun r => { r with dispatching := false })).law :=
    Dvr.law_modFrame h f (fun _ => rfl) (fun _ _ hr => hr)
  unfold Dvr.endDispatch
  simp only
  split
  · next hx =>
    by_cases hf : f < d.frames.length
    · exact Dvr.law_freeFrame h1 (by simpa using hf) (by rw [hx.1]; exact fun hx => by cases hx)
        d.currentFrame (.inl ⟨rfl, by
          intro hc
          have := (h1.2.2.1 f hc).2
          rw [hx.1] at this; cases this⟩)
    · have : (d.modFrame f (fun r => { r with dispatching := false })).frame f = RxFrame.reset := by
        rw [Dvr.frame_modFrame, if_neg (by simp [hf])]
        simp [Dvr.frame, Nat.not_lt.mp hf]
      rw [this] at hx; cases hx.1
  · exact h1

theorem Dvr.law_release {d : Dvr} (h : d.law) {f : Nat} (hf : f < d.frames.length)
    (hs : (d.frame f).state = .dispatched) : (d.release f).law := by
  have h1 := Dvr.law_dropReference h f
  have hs1 : ((d.dropReference f).frame f).state = .dispatched := by
    simp only [Dvr.dropReference, Dvr.frame_modFrame_same _ hf, hs]
  unfold Dvr.release
  simp only
  split
  · exact Dvr.law_freeFrame h1 (by simpa [Dvr.dropReference] using hf)
      (by rw [hs1]; exact fun hx => by cases hx) d.currentFrame (.inl ⟨rfl, by
        intro hc
        have := (h1.2.2.1 f hc).2
        rw [hs1] at this; cases this⟩)
  · exact h1

end Sys2Proof.Machine
end

