-- ==== Sys2Proof/Laws/Quiet.lean ====
section
/-! SUPPORT. What the loops that call clients do when the clients do nothing in their callbacks: the calls
made, the answers taken and the records left, in the terms of Safety.lean. -/

namespace Sys2Proof.Machine

/-! ### `told` -/

section

variable (s : State) (outs : List Out) (rest : List Draw)

@[simp] theorem State.told_tape : (s.told outs rest).tape = rest := rfl
@[simp] theorem State.told_out : (s.told outs rest).out = s.out ++ outs := rfl
@[simp] theorem State.told_drawn : (s.told outs rest).drawn = s.drawn + outs.length := rfl
@[simp] theorem State.told_par : (s.told outs rest).par = s.par := rfl
@[simp] theorem State.told_inst : (s.told outs rest).inst = s.inst := rfl
@[simp] theorem State.told_instAt (e : Nat) : (s.told outs rest).instAt e = s.instAt e := rfl
@[simp] theorem State.told_eng (e : Nat) : (s.told outs rest).eng e = s.eng e := rfl
@[simp] theorem State.told_dvr (e : Nat) : (s.told outs rest).dvr e = s.dvr e := rfl
@[simp] theorem State.told_dvt (e : Nat) : (s.told outs rest).dvt e = s.dvt e := rfl
@[simp] theorem State.told_ts (e : Nat) : (s.told outs rest).ts e = s.ts e := rfl
@[simp] theorem State.told_buf : (s.told outs rest).buf = s.buf := rfl
@[simp] theorem State.told_readByte (a : Nat) : (s.told outs rest).readByte a = s.readByte a := rfl
@[simp] theorem State.told_halted : (s.told outs rest).halted = s.halted := rfl
@[simp] theorem State.told_inCallback : (s.told outs rest).inCallback = s.inCallback := rfl
@[simp] theorem State.told_arg0 : (s.told outs rest).arg0 = s.arg0 := rfl
@[simp] theorem State.told_arg1 : (s.told outs rest).arg1 = s.arg1 := rfl
@[simp] theorem State.told_arg2 : (s.told outs rest).arg2 = s.arg2 := rfl
@[simp] theorem State.told_status : (s.told outs rest).status = s.status := rfl
@[simp] theorem modEng_told (e : Nat) (f : Eng → Eng) :
    (s.told outs rest).modEng e f = (s.modEng e f).told outs rest := rfl
@[simp] theorem modDvr_told (e : Nat) (f : Dvr → Dvr) :
    (s.told outs rest).modDvr e f = (s.modDvr e f).told outs rest := rfl
@[simp] theorem modDvt_told (e : Nat) (f : Dvt → Dvt) :
    (s.told outs rest).modDvt e f = (s.modDvt e f).told outs rest := rfl
@[simp] theorem modTs_told (e : Nat) (f : Ts → Ts) :
    (s.told outs rest).modTs e f = (s.modTs e f).told outs rest := rfl

@[simp] theorem State.told_told (more : List Out) (rest' : List Draw) :
    (s.told outs rest).told more rest' = s.told (outs ++ more) rest' := by
  simp [State.told, List.append_assoc, Nat.add_assoc]

end

theorem State.told_nil {s : State} {rest : List Draw} (h : s.tape = rest) : s.told [] rest = s := by
  subst h
  simp [State.told]

/-- A quiet callback whose answer is not used. -/
theorem run_notify_told {s : State} {o : Out} {d : Draw} {ds : List Draw} (h : s.tape = d :: ds)
    (hd : d.quiet) : notify o s = .ok () (s.told [o] ds) := run_notify_quiet h hd

/-- The answers to the first callback and to those after it. -/
theorem State.answers_succ {s : State} {ds rest : List Draw} {n : Nat} (h : s.answers ds rest (n + 1)) :
    ∃ d es, ds = d :: es ∧ d.quiet ∧ s.tape = d :: (es ++ rest) ∧ es.length = n ∧ ∀ x ∈ es, x.quiet := by
  obtain ⟨h1, h2, h3⟩ := h
  match ds, h2 with
  | d :: es, h2 =>
    exact ⟨d, es, rfl, h3 d List.mem_cons_self, by simpa using h1, by simpa using h2,
      fun x hx => h3 x (List.mem_cons_of_mem _ hx)⟩

/-- The answers to some callbacks and to those after them. -/
theorem State.answers_add {s : State} {ds rest : List Draw} {n k : Nat} (h : s.answers ds rest (n + k)) :
    ∃ ds1 ds2, s.answers ds1 (ds2 ++ rest) n ∧ ds2.length = k ∧ ∀ x ∈ ds2, x.quiet := by
  obtain ⟨h1, h2, h3⟩ := h
  refine ⟨ds.take n, ds.drop n, ⟨?_, ?_, fun x hx => h3 x (List.mem_of_mem_take hx)⟩, ?_,
    fun x hx => h3 x (List.mem_of_mem_drop hx)⟩
  · rw [h1, ← List.append_assoc, List.take_append_drop]
  · simp [h2]
  · simp [h2]

/-! ### Consumers (43_dv_receive.md R209, R214) -/

theorem run_notifyConsumers {e : Nat} {m : Msg} : ∀ (cs : List Word) {s : State} {ds rest : List Draw},
    s.answers ds rest cs.length →
    notifyConsumers e m cs s = .ok () (s.told (cs.map (.consumer e · m none)) rest)
  | [], s, ds, rest, h => by
    obtain ⟨h1, h2, -⟩ := h
    obtain rfl : ds = [] := by simpa using h2
    simp [notifyConsumers, State.told_nil (show s.tape = rest by simpa using h1)]
  | c :: cs, s, ds, rest, h => by
    obtain ⟨d, es, rfl, hd, ht, hl, hq⟩ := State.answers_succ (n := cs.length) (by simpa using h)
    simp only [notifyConsumers, run_bind, run_notify_told ht hd]
    rw [run_notifyConsumers cs (s := s.told [.consumer e c m none] (es ++ rest)) (ds := es)
      ⟨rfl, hl, hq⟩]
    simp

/-- Every consumer is told, one answer each (R214). -/
theorem run_notifyAll {e : Nat} {m : Msg} {s : State} {ds rest : List Draw}
    (h : s.answers ds rest (s.dvr e).consumers.length) :
    notifyAll e m s = .ok () (s.told ((s.dvr e).notices e m) rest) := by
  simp only [notifyAll, run_bind, run_getDvr]
  exact run_notifyConsumers _ h

/-- The frame in progress, if there is one, is abandoned, and the consumers are told (R209). -/
theorem run_abandonCurrent {e : Nat} {s : State} {ds rest : List Draw} (he : e < s.inst.length)
    (h : s.answers ds rest ((s.dvr e).abandonNotices e).length) :
    abandonCurrent e s =
      .ok () ((s.told ((s.dvr e).abandonNotices e) rest).modDvr e Dvr.cleared) := by
  simp only [abandonCurrent, run_bind, run_getDvr]
  cases hc : (s.dvr e).currentFrame with
  | none =>
    obtain ⟨h1, h2, -⟩ := h
    simp only [Dvr.abandonNotices, hc, Option.isSome_none, Bool.false_eq_true, if_false,
      List.length_nil, List.length_eq_zero_iff] at h2 ⊢
    subst h2
    rw [State.told_nil (by simpa using h1), modDvr_self _ _ _ (by simp [Dvr.cleared, hc])]
    rfl
  | some f =>
    have hd : (s.modDvr e (·.abandonFrame f)).dvr e = (s.dvr e).abandonFrame f := dvr_modDvr_same _ _ he
    have hcl : (s.dvr e).abandonFrame f = (s.dvr e).cleared := by simp [Dvr.cleared, hc]; rfl
    have hn : ((s.dvr e).abandonFrame f).notices e .frameCorrupted = (s.dvr e).abandonNotices e := by
      simp [Dvr.abandonNotices, hc]; rfl
    simp only [abandon, run_bind, run_modDvr]
    rw [run_notifyAll (ds := ds) (rest := rest), hd, hn, modDvr_told]
    · congr 2
      simp only [modDvr_eq, hcl]
    · rw [hd]
      obtain ⟨h1, h2, h3⟩ := h
      refine ⟨h1, ?_, h3⟩
      rw [h2, ← hn]
      simp [Dvr.notices]

/-! ### Dispatch (43_dv_receive.md R210) -/

/-- Every consumer is asked, one answer each; each refusal gives a reference back (R210). -/
theorem run_offerFrame {e f : Nat} : ∀ (cs : List Word) {s : State} {ds rest : List Draw},
    e < s.inst.length → s.answers ds rest cs.length →
    offerFrame e f cs s =
      .ok () ((s.told (cs.map (.consumer e · .frameReceived (some f))) rest).modDvr e (·.modFrame f
        (fun r => { r with refCount := r.refCount - (ds.filter (fun a => a.status != 0)).length })))
  | [], s, ds, rest, he, h => by
    obtain ⟨h1, h2, -⟩ := h
    obtain rfl : ds = [] := by simpa using h2
    simp only [offerFrame, List.map_nil, run_pure]
    rw [State.told_nil (by simpa using h1), modDvr_self _ _ _ (Dvr.modFrame_self _ _ _ rfl)]
  | c :: cs, s, ds, rest, he, h => by
    obtain ⟨d, es, rfl, hd, ht, hl, hq⟩ := State.answers_succ (n := cs.length) (by simpa using h)
    simp only [offerFrame, run_bind, run_callback_quiet ht hd, run_getDvr, run_ite]
    change (if drawAgrees d = false ∧ 0 < ((s.dvr e).frame f).refCount
      then _ else offerFrame e f cs (s.told [.consumer e c .frameReceived (some f)] (es ++ rest))) = _
    have ih : ∀ {u : State}, e < u.inst.length → u.tape = es ++ rest → _ := fun {u} hu h1 =>
      run_offerFrame (e := e) (f := f) cs (s := u) (ds := es) (rest := rest) hu ⟨h1, hl, hq⟩
    have iht := ih (u := s.told [.consumer e c .frameReceived (some f)] (es ++ rest)) he rfl
    by_cases h0 : d.status = 0
    · rw [if_neg (by simp [drawAgrees, h0]), iht]
      simp [h0]
    · by_cases hr : 0 < ((s.dvr e).frame f).refCount
      · rw [if_pos ⟨by simpa [drawAgrees] using h0, hr⟩]
        change offerFrame e f cs ((s.told [.consumer e c .frameReceived (some f)] (es ++ rest)).modDvr e
          (·.dropReference f)) = _
        rw [ih (by simpa using he) rfl]
        have hb : (d.status != 0) = true := by simpa using h0
        have hn : ∀ n k : Nat, n - 1 - k = n - (k + 1) := fun n k => by omega
        rw [List.filter_cons, if_pos hb, List.length_cons]
        simp [Dvr.dropReference, Dvr.modFrame_modFrame, hn]
      · have h1 : ((s.dvr e).frame f).refCount = 0 := by omega
        have hz : ∀ k, { (s.dvr e).frame f with refCount := ((s.dvr e).frame f).refCount - k } =
            (s.dvr e).frame f := fun k => by
          rw [h1, Nat.zero_sub, ← h1]
        rw [if_neg (fun hh => hr hh.2), iht,
          modDvr_self _ _ _ (Dvr.modFrame_self _ _ _ (hz _)),
          modDvr_self _ _ _ (Dvr.modFrame_self _ _ _ (hz _)), State.told_told]
        rfl

/-! ### Slot references (44_dv_transmit.md R242, R244; 42_buffer_engine.md R157) -/

/-- The frames released so far only grow at the tail. -/
theorem dropRef_foldl (fs : List Nat) (d : Dvt) (gone : List Nat) :
    fs.foldl Dvt.dropRef (d, gone) =
      ((fs.foldl Dvt.dropRef (d, [])).1, gone ++ (fs.foldl Dvt.dropRef (d, [])).2) := by
  induction fs generalizing d gone with
  | nil => simp
  | cons f fs ih =>
    simp only [List.foldl_cons, Dvt.dropRef]
    split
    · rw [ih, ih _ ([] ++ [f])]
      simp
    · exact ih _ _

theorem run_dropRefs {e : Nat} : ∀ (fs : List Nat) {s : State} {ds rest : List Draw},
    e < s.inst.length →
    s.answers ds rest (fs.foldl Dvt.dropRef (s.dvt e, [])).2.length →
    dropRefs e fs s =
      .ok () ((s.told ((fs.foldl Dvt.dropRef (s.dvt e, [])).2.map (.frameRelease e)) rest).modDvt e
        (fun _ => (fs.foldl Dvt.dropRef (s.dvt e, [])).1))
  | [], s, ds, rest, he, h => by
    obtain ⟨h1, h2, -⟩ := h
    obtain rfl : ds = [] := by simpa using h2
    simp only [dropRefs, List.foldl_nil, List.map_nil, run_pure]
    rw [State.told_nil (by simpa using h1), modDvt_self _ _ _ rfl]
  | f :: fs, s, ds, rest, he, h => by
    simp only [dropRefs, run_bind, run_modDvt, run_getDvt, run_ite]
    rw [dvt_modDvt_same _ _ he]
    set d1 := (s.dvt e).modFrame f (fun r => { r with dclProgramRefCount := r.dclProgramRefCount - 1 })
    set s1 := s.modDvt e
      (·.modFrame f (fun r => { r with dclProgramRefCount := r.dclProgramRefCount - 1 })) with hs1
    have he1 : e < s1.inst.length := by simpa [hs1] using he
    have hd1 : s1.dvt e = d1 := by rw [hs1, dvt_modDvt_same _ _ he]
    have hstep : Dvt.dropRef (s.dvt e, []) f =
        if (d1.frame f).dclProgramRefCount = 0 ∧ d1.curFrame ≠ some f then
          (d1.modFrame f (fun r => { r with inUse := false }), [f])
        else (d1, []) := by simp [Dvt.dropRef, d1]
    by_cases hg : (d1.frame f).dclProgramRefCount = 0 ∧ d1.curFrame ≠ some f
    · rw [if_pos hg] at hstep ⊢
      rw [List.foldl_cons, hstep, dropRef_foldl] at h ⊢
      obtain ⟨d, es, rfl, hd, ht, hl, hq⟩ := State.answers_succ
        (n := (fs.foldl Dvt.dropRef (d1.modFrame f (fun r => { r with inUse := false }), [])).2.length)
        (by simpa [Nat.add_comm] using h)
      simp only [releaseFrame, run_bind, run_modDvt]
      rw [run_notify_told (s := s1.modDvt e (·.modFrame f (fun r => { r with inUse := false })))
        (d := d) (ds := es ++ rest) ht hd]
      simp only []
      have hd2 : ((s1.modDvt e (·.modFrame f (fun r => { r with inUse := false }))).told
          [.frameRelease e f] (es ++ rest)).dvt e =
            d1.modFrame f (fun r => { r with inUse := false }) := by
        rw [State.told_dvt, dvt_modDvt_same _ _ he1, hd1]
      rw [run_dropRefs fs (ds := es) (rest := rest) (by simpa using he1) ⟨rfl, by rw [hd2]; exact hl, hq⟩, hd2]
      simp [hs1]
    · rw [if_neg hg] at hstep ⊢
      rw [List.foldl_cons, hstep] at h ⊢
      show dropRefs e fs s1 = _
      rw [run_dropRefs fs (ds := ds) (rest := rest) he1 ⟨h.1, by rw [hd1]; exact h.2.1, h.2.2⟩, hd1]
      simp [hs1]

/-- The frames a buffer refers to lose that reference, and those that lose their last one are released
(44_dv_transmit.md R242). -/
theorem run_releaseSlotRefs {e k : Nat} {s : State} {ds rest : List Draw} (he : e < s.inst.length)
    (h : s.answers ds rest (Dvt.releaseSlot (s.dvt e, []) k).2.length) :
    releaseSlotRefs e k s =
      .ok () ((s.told ((Dvt.releaseSlot (s.dvt e, []) k).2.map (.frameRelease e)) rest).modDvt e
        (fun _ => (Dvt.releaseSlot (s.dvt e, []) k).1)) := by
  simp only [releaseSlotRefs, run_bind, run_getDvt]
  rw [run_dropRefs _ he h]
  simp only [run_modDvt, modDvt_modDvt, modDvt_told]
  rfl

theorem releaseSlot_append (d : Dvt) (gone : List Nat) (k : Nat) :
    Dvt.releaseSlot (d, gone) k =
      ((Dvt.releaseSlot (d, []) k).1, gone ++ (Dvt.releaseSlot (d, []) k).2) := by
  simp only [Dvt.releaseSlot]
  rw [dropRef_foldl]

theorem releaseSlot_foldl (ks : List Nat) (d : Dvt) (gone : List Nat) :
    ks.foldl Dvt.releaseSlot (d, gone) =
      ((ks.foldl Dvt.releaseSlot (d, [])).1, gone ++ (ks.foldl Dvt.releaseSlot (d, [])).2) := by
  induction ks generalizing d gone with
  | nil => simp
  | cons k ks ih =>
    rw [List.foldl_cons, List.foldl_cons, releaseSlot_append, ih, ih _ (Dvt.releaseSlot (d, []) k).2]
    simp

theorem run_drainFrom {e : Nat} : ∀ (n k : Nat) {s : State} {ds rest : List Draw},
    e < s.inst.length →
    s.answers ds rest ((List.range' k n).foldl Dvt.releaseSlot (s.dvt e, [])).2.length →
    drainFrom e n k s =
      .ok () ((s.told (((List.range' k n).foldl Dvt.releaseSlot (s.dvt e, [])).2.map
        (.frameRelease e)) rest).modDvt e
          (fun _ => ((List.range' k n).foldl Dvt.releaseSlot (s.dvt e, [])).1))
  | 0, k, s, ds, rest, he, h => by
    obtain ⟨h1, h2, -⟩ := h
    obtain rfl : ds = [] := by simpa using h2
    simp only [drainFrom, List.range'_zero, List.foldl_nil, List.map_nil, run_pure]
    rw [State.told_nil (by simpa using h1), modDvt_self _ _ _ rfl]
  | n + 1, k, s, ds, rest, he, h => by
    rw [List.range'_succ, List.foldl_cons, releaseSlot_foldl] at h ⊢
    obtain ⟨ds1, ds2, h1, h2, h3⟩ := State.answers_add (by simpa using h)
    simp only [drainFrom, run_bind, run_releaseSlotRefs he h1]
    have hd : ((s.told ((Dvt.releaseSlot (s.dvt e, []) k).2.map (.frameRelease e)) (ds2 ++ rest)).modDvt e
        (fun _ => (Dvt.releaseSlot (s.dvt e, []) k).1)).dvt e = (Dvt.releaseSlot (s.dvt e, []) k).1 :=
      dvt_modDvt_same _ _ he
    rw [run_drainFrom n (k + 1) (ds := ds2) (rest := rest) (by simpa using he)
      ⟨rfl, by rw [hd]; exact h2, h3⟩, hd]
    simp

/-- The cycle buffers drained in increasing order, the overrun buffer with them (42_buffer_engine.md R157;
log 26). -/
theorem run_drain {e n : Nat} {s : State} {ds rest : List Draw} (he : e < s.inst.length)
    (h : s.answers ds rest ((s.dvt e).drained n).2.length) :
    drainFrom e n 0 s =
      .ok () ((s.told (((s.dvt e).drained n).2.map (.frameRelease e)) rest).modDvt e
        (fun _ => ((s.dvt e).drained n).1)) := by
  simp only [Dvt.drained, List.range_eq_range'] at h ⊢
  exact run_drainFrom n 0 he h

theorem dropRef_foldl_curFrame (fs : List Nat) (a : Dvt × List Nat) :
    (fs.foldl Dvt.dropRef a).1.curFrame = a.1.curFrame := by
  induction fs generalizing a with
  | nil => rfl
  | cons f fs ih =>
    rw [List.foldl_cons, ih]
    simp only [Dvt.dropRef]
    split <;> rfl

/-- A drain leaves the frame that is being sent. -/
theorem drained_curFrame (d : Dvt) (n : Nat) : (d.drained n).1.curFrame = d.curFrame := by
  have h : ∀ (ks : List Nat) (a : Dvt × List Nat),
      (ks.foldl Dvt.releaseSlot a).1.curFrame = a.1.curFrame := by
    intro ks
    induction ks with
    | nil => intro a; rfl
    | cons k ks ih =>
      intro a
      rw [List.foldl_cons, ih]
      exact dropRef_foldl_curFrame _ _
  exact h _ _

theorem run_drainSlots_dvtx {e : Nat} {s : State} {ds rest : List Draw} (he : e < s.inst.length)
    (hk : (s.eng e).kind = .dvtx)
    (h : s.answers ds rest ((s.dvt e).drained ((s.eng e).cycles + 1)).2.length) :
    drainSlots e s =
      .ok () ((s.told (((s.dvt e).drained ((s.eng e).cycles + 1)).2.map (.frameRelease e)) rest).modDvt e
        (fun _ => ((s.dvt e).drained ((s.eng e).cycles + 1)).1)) := by
  simp only [drainSlots, run_bind, run_getEng, hk]
  exact run_drain he h

/-- What the end of a held ENG_STOP tears down of a DVTX engine (42_buffer_engine.md R159). -/
theorem run_teardown_dvtx {e : Nat} {s : State} {ds rest : List Draw} (he : e < s.inst.length)
    (hk : (s.eng e).kind = .dvtx)
    (h : s.answers ds rest
      (((s.dvt e).drained ((s.eng e).cycles + 1)).2 ++ (s.dvt e).curFrame.toList).length) :
    teardown e s =
      .ok () ((s.told ((((s.dvt e).drained ((s.eng e).cycles + 1)).2 ++
        (s.dvt e).curFrame.toList).map (.frameRelease e)) rest).modDvt e (fun _ =>
          match (s.dvt e).curFrame with
          | some f =>
            { ((s.dvt e).drained ((s.eng e).cycles + 1)).1.modFrame f (fun x =>
                { x with inUse := false }) with curFrame := none }
          | none => ((s.dvt e).drained ((s.eng e).cycles + 1)).1)) := by
  have hc : ((s.dvt e).drained ((s.eng e).cycles + 1)).1.curFrame = (s.dvt e).curFrame :=
    drained_curFrame _ _
  rw [List.length_append] at h
  obtain ⟨ds1, ds2, h1, h2, h3⟩ := State.answers_add h
  have hd : ((s.told (((s.dvt e).drained ((s.eng e).cycles + 1)).2.map (.frameRelease e))
      (ds2 ++ rest)).modDvt e (fun _ => ((s.dvt e).drained ((s.eng e).cycles + 1)).1)).dvt e =
        ((s.dvt e).drained ((s.eng e).cycles + 1)).1 := dvt_modDvt_same _ _ he
  simp only [teardown, run_bind, run_getEng, hk, run_drainSlots_dvtx he hk h1, run_getDvt, hd, hc]
  cases hf : (s.dvt e).curFrame with
  | none =>
    obtain rfl : ds2 = [] := by simpa [hf] using h2
    simp
  | some f =>
    obtain ⟨d, rfl⟩ : ∃ d, ds2 = [d] := List.length_eq_one_iff.mp (by simpa [hf] using h2)
    simp only [releaseFrame, run_bind, run_modDvt]
    rw [run_notify_told (d := d) (ds := rest) rfl (h3 d (by simp))]
    simp

end Sys2Proof.Machine
end

