-- ==== Sys2Proof/Laws/Steps.lean ====
section
/-! SUPPORT. What the engine, an instruction and a whole step can do to the state, as moves: a relation that
every move keeps holds between the state before a step and the one after (spec/42_buffer_engine.md,
spec/20_memory.md R70 to R78), and what that asks of a law about every instance. -/

namespace Sys2Proof.Machine

/-- What the per-cycle functions, the prefill and the Port Engine's answers leave of an engine: its
configuration, its transport state, its ring, its FINALIZE count and its queue. -/
structure EngSame (x g : Eng) : Prop where
  kind : g.kind = x.kind
  segments : g.segments = x.segments
  cyclesPerSeg : g.cyclesPerSeg = x.cyclesPerSeg
  minPayload : g.minPayload = x.minPayload
  channel : g.channel = x.channel
  cycleBufSize : g.cycleBufSize = x.cycleBufSize
  bufBase : g.bufBase = x.bufBase
  setupDone : g.setupDone = x.setupDone
  fatal : g.fatal = x.fatal
  running : g.running = x.running
  curSeg : g.curSeg = x.curSeg
  jump : g.jump = x.jump
  finalizeOwed : g.finalizeOwed = x.finalizeOwed
  peStops : g.peStops = x.peStops
  events : g.events = x.events

theorem EngSame.refl (x : Eng) : EngSame x x := by constructor <;> rfl

theorem EngSame.trans {x y z : Eng} (a : EngSame x y) (b : EngSame y z) : EngSame x z where
  kind := b.kind.trans a.kind
  segments := b.segments.trans a.segments
  cyclesPerSeg := b.cyclesPerSeg.trans a.cyclesPerSeg
  minPayload := b.minPayload.trans a.minPayload
  channel := b.channel.trans a.channel
  cycleBufSize := b.cycleBufSize.trans a.cycleBufSize
  bufBase := b.bufBase.trans a.bufBase
  setupDone := b.setupDone.trans a.setupDone
  fatal := b.fatal.trans a.fatal
  running := b.running.trans a.running
  curSeg := b.curSeg.trans a.curSeg
  jump := b.jump.trans a.jump
  finalizeOwed := b.finalizeOwed.trans a.finalizeOwed
  peStops := b.peStops.trans a.peStops
  events := b.events.trans a.events

theorem EngSame.setWatchdog (x : Eng) (b : Bool) : EngSame x (x.setWatchdog b) := by
  unfold Eng.setWatchdog
  split <;> constructor <;> rfl

/-! ### The engine's own cycles -/

/-- The moves of engine `e` that leave its transport state: those of the units it drives, and changes of
the engine's other fields. -/
structure EngMoves (R : State → State → Prop) (e : Nat) : Prop extends
    DvrMoves R e, UrxMoves R e, DvtMoves R e where
  same : ∀ s g, (∀ x, EngSame x (g x)) → R s (State.modEng s e g)
  addRegion : ∀ s r, R s (State.addRegion s r)

variable {R : State → State → Prop} {e : Nat}

theorem EngMoves.leads_same (h : EngMoves R e) {g : Eng → Eng} (hg : ∀ x, EngSame x (g x)) :
    Leads R (modEng e g) := fun s => h.same s g hg

theorem leads_readTsSlot (h : Shared R) (e c : Nat) : Leads R (readTsSlot e c) := by
  refine leads_bind h.toTravels (h.part (.getEng e)) fun g => ?_
  split
  · exact h.part (.pure _)
  · exact leads_bind h.toTravels (h.part .draw) fun _ => h.part (.pure _)

theorem leads_checkSlot (h : Shared R) (e k : Nat) : Leads R (checkSlot e k) := by
  refine leads_bind h.toTravels (h.part (.getEng e)) fun g => ?_
  split
  · exact h.part (.raise _)
  · exact leads_ite (h.part (.raise _)) (h.part (.pure _))

theorem leads_produceFrom (h : Travels R) {p : Nat → M (Status × Nat)} (hp : ∀ k, Leads R (p k)) :
    ∀ n k, Leads R (produceFrom p n k)
  | 0, _ => leads_pure h _
  | n + 1, k => leads_bind h (hp k) fun _ => leads_produceFrom h hp n (k + 1)

/-- `prefill()` (R157). -/
theorem leads_prefill (h : EngMoves R e) : Leads R (prefill e) := by
  have h1 := leads_produceFrom h.toTravels (leads_dvtCycle h.toDvtMoves)
  have h2 := leads_produceFrom h.toTravels (leads_utxCycle h.toSlotMoves)
  have h3 := leads_writeHeader h.toDvtMoves
  have h4 : Leads R (peCycleTime e) :=
    leads_bind h.toTravels (h.part (.request _)) fun _ => h.part (.pure _)
  have h5 : ∀ k w, Leads R (modEng e (·.setSlotHdr k w)) := fun k w s => h.slotHdr s k w
  unfold prefill writeCipOnly
  repeat first
    | assumption
    | with_reducible exact h.part (by constructor)
    | ((with_reducible refine h.toDvtMoves.leads ?_); simp)
    | with_reducible exact h1 _ _
    | with_reducible exact h2 _ _
    | with_reducible exact h3 _ _ _ _
    | with_reducible exact h5 _ _
    | with_reducible refine leads_bind h.toTravels ?_ fun _ => ?_
    | split

/-- `drainSlots()` (R157). -/
theorem leads_drainSlots (h : EngMoves R e) : Leads R (drainSlots e) := by
  refine leads_bind h.toTravels (h.part (.getEng e)) fun g => ?_
  split
  · exact leads_drainFrom h.toDvtMoves _ _
  all_goals exact h.part (.pure _)

theorem leads_consumeCycle (h : EngMoves R e) (c k : Nat) (hdr : Word) :
    Leads R (consumeCycle e c k hdr) := by
  refine leads_bind h.toTravels (h.part (.getEng e)) fun g =>
    leads_bind h.toTravels (leads_readTsSlot h.toShared e c) fun ts => ?_
  split
  · exact leads_bind h.toTravels (leads_dvrCycle h.toDvrMoves _ _ _) fun _ => h.part (.pure _)
  · exact leads_bind h.toTravels (leads_urxCycle h.toUrxMoves _ _ _) fun _ => h.part (.pure _)
  all_goals exact h.part (.pure _)

theorem leads_produceCycle (h : EngMoves R e) (k : Nat) : Leads R (produceCycle e k) := by
  refine leads_bind h.toTravels (h.part (.getEng e)) fun g => ?_
  split
  · exact leads_bind h.toTravels (leads_dvtCycle h.toDvtMoves k) fun _ => h.part (.pure _)
  · exact leads_bind h.toTravels (leads_utxCycle h.toSlotMoves k) fun _ => h.part (.pure _)
  all_goals exact h.part (.pure _)

/-- The cycle loop of EV_SEGMENT (R163). -/
theorem leads_segmentCycles (h : EngMoves R e) (c : Nat) :
    ∀ n k b, Leads R (segmentCycles e c n k b)
  | 0, _, _ => h.part (.pure _)
  | n + 1, k, _ => leads_bind h.toTravels (h.part (.getEng e)) fun _ => leads_ite
      (leads_bind h.toTravels (leads_checkSlot h.toShared e k) fun hdr =>
        leads_bind h.toTravels (leads_consumeCycle h c k hdr) fun _ =>
          leads_segmentCycles h c n (k + 1) _)
      (leads_bind h.toTravels (leads_produceCycle h k) fun _ => leads_segmentCycles h c n (k + 1) _)

theorem leads_startClock (h : EngMoves R e) (ct : Word) : Leads R (startClock e ct) :=
  leads_bind h.toTravels (h.leads_same fun _ => by constructor <;> rfl) fun _ =>
    leads_bind h.toTravels (h.part (.getEng e)) fun _ =>
      leads_bind h.toTravels (leads_addCycles h.toShared _ _) fun _ =>
        h.leads_same fun _ => by constructor <;> rfl

/-- `validateTimestamp(c)` (R167). -/
theorem leads_validateTimestamp (h : EngMoves R e) (c : Nat) :
    Leads R (validateTimestamp e c) := by
  have h1 := leads_readTsSlot h.toShared e c
  have h2 := leads_addCycles h.toShared
  unfold validateTimestamp correctTimestamp advanceTxClock engMsg
  dsimp only
  repeat first
    | assumption
    | with_reducible exact h.part (by constructor)
    | ((with_reducible refine h.toDvtMoves.leads ?_); simp)
    | with_reducible exact h2 _ _
    | ((with_reducible refine h.leads_same ?_); exact fun _ => by constructor <;> rfl)
    | with_reducible refine leads_ite ?_ ?_
    | with_reducible refine leads_bind h.toTravels ?_ fun _ => ?_

theorem leads_peStart (h : EngMoves R e) : Leads R (peStart e) :=
  leads_bind h.toTravels (h.part (.getEng e)) fun _ =>
    leads_bind h.toTravels (h.part (.request _)) fun _ => leads_ite
      (leads_bind h.toTravels (h.leads_same fun _ => by constructor <;> rfl) fun _ =>
        h.part (.pure _))
      (h.part (.pure _))

theorem leads_peLocalNodeId (h : EngMoves R e) : Leads R (peLocalNodeId e) :=
  leads_bind h.toTravels (h.part (.request _)) fun _ => h.part (.pure _)

theorem leads_rebuild (h : EngMoves R e) : Leads R (rebuild e) := by
  refine leads_bind h.toTravels (h.part (.getEng e)) fun g => ?_
  split
  · exact leads_abandonCurrent h.toDvrMoves
  · exact leads_bind h.toTravels (leads_drainSlots h) fun _ => leads_prefill h
  · exact leads_bind h.toTravels (leads_drainSlots h) fun _ => leads_prefill h
  · exact h.part (.pure _)

/-- `teardown()` (R159). -/
theorem leads_teardown (h : EngMoves R e) : Leads R (teardown e) := by
  refine leads_bind h.toTravels (h.part (.getEng e)) fun g => ?_
  split
  · refine leads_bind h.toTravels (leads_drainSlots h) fun _ =>
      leads_bind h.toTravels (h.part (.getDvt e)) fun d => ?_
    split
    · exact leads_bind h.toTravels (leads_releaseFrame h.toDvtMoves _) fun _ =>
        h.toDvtMoves.leads (by simp)
    · exact h.part (.pure _)
  · exact leads_abandonCurrent h.toDvrMoves
  all_goals exact h.part (.pure _)

/-! ### Engines stay as they are -/

/-- The instances and what `EngSame` names of each engine stay. -/
def KeepsEngines (s t : State) : Prop :=
  t.inst.length = s.inst.length ∧ ∀ e, EngSame (s.eng e) (t.eng e)

/-- Changing the engine of an instance that does not exist changes nothing. -/
theorem modEng_absent {s : State} {e : Nat} {g : Eng → Eng} (h : ¬ e < s.inst.length) :
    s.modEng e g = s := by
  simp only [modEng_eq, State.setInst, List.set_eq_of_length_le (Nat.not_lt.mp h)]

theorem keepsEngines_of_inst {s t : State} (h : t.inst = s.inst) (hp : t.par = s.par) :
    KeepsEngines s t := by
  refine ⟨by rw [h], fun e => ?_⟩
  have he : t.eng e = s.eng e := by simp [State.eng, State.instAt, h, hp]
  rw [he]
  exact EngSame.refl _

theorem keepsEngines_modEng {s : State} {e : Nat} {g : Eng → Eng} (hg : ∀ x, EngSame x (g x)) :
    KeepsEngines s (s.modEng e g) := by
  by_cases hl : e < s.inst.length
  · refine ⟨by simp, fun j => ?_⟩
    by_cases he : e = j
    · subst he
      rw [eng_modEng_same _ _ hl]
      exact hg _
    · rw [eng_modEng_ne _ _ he]
      exact EngSame.refl _
  · rw [modEng_absent hl]
    exact ⟨rfl, fun _ => EngSame.refl _⟩

theorem keepsEngines_calls : CallStable KeepsEngines where
  refl s := ⟨rfl, fun _ => EngSame.refl _⟩
  trans a b := ⟨b.1.trans a.1, fun e => (a.2 e).trans (b.2 e)⟩
  setCmd _ _ := keepsEngines_of_inst rfl rfl
  setStatus _ _ := keepsEngines_of_inst rfl rfl
  setRes0 _ _ := keepsEngines_of_inst rfl rfl
  setRes1 _ _ := keepsEngines_of_inst rfl rfl
  setRes2 _ _ := keepsEngines_of_inst rfl rfl
  setRes3 _ _ := keepsEngines_of_inst rfl rfl
  hostWrite s r v := by cases r <;> exact keepsEngines_of_inst rfl rfl
  writeBytes _ _ _ _ := keepsEngines_of_inst rfl rfl
  takeFault _ _ := keepsEngines_of_inst rfl rfl
  release s e f _ _ _ := ⟨by simp, fun j => by rw [eng_modDvr]; exact EngSame.refl _⟩
  releaseBuf s e _ _ _ := ⟨by simp, fun j => by rw [eng_modTs]; exact EngSame.refl _⟩
  setWatchdog s e b := keepsEngines_modEng fun x => EngSame.setWatchdog x b
  enterCallback _ _ := keepsEngines_of_inst rfl rfl
  leaveCallback _ := keepsEngines_of_inst rfl rfl
  emit _ _ := keepsEngines_of_inst rfl rfl
  takeDraw _ _ _ := keepsEngines_of_inst rfl rfl

theorem keepsEngines_modDvr (s : State) (e : Nat) (g : Dvr → Dvr) : KeepsEngines s (s.modDvr e g) :=
  ⟨by simp, fun j => by rw [eng_modDvr]; exact EngSame.refl _⟩

theorem keepsEngines_modTs (s : State) (e : Nat) (g : Ts → Ts) : KeepsEngines s (s.modTs e g) :=
  ⟨by simp, fun j => by rw [eng_modTs]; exact EngSame.refl _⟩

/-- The cycles of an engine keep every engine as `EngSame` names it. -/
theorem keepsEngines_moves (e : Nat) : EngMoves KeepsEngines e where
  toShared := keepsEngines_calls.shared
  abandonFrame s f _ := keepsEngines_modDvr s e _
  beginFrame s _ _ _ _ _ _ _ := keepsEngines_modDvr s e _
  fillFrame s _ _ _ := keepsEngines_modDvr s e _
  dispatchFrame s _ _ := keepsEngines_modDvr s e _
  dropReference s _ := keepsEngines_modDvr s e _
  endDispatch s _ := keepsEngines_modDvr s e _
  lawful s _ _ := keepsEngines_modTs s e _
  allocCurrent s _ _ := keepsEngines_modTs s e _
  deliverBuf s _ _ _ := keepsEngines_modTs s e _
  lastFmt s f := keepsEngines_modEng fun _ => by constructor <;> rfl
  slotHdr s k w := keepsEngines_modEng fun _ => by constructor <;> rfl
  record s g _ := ⟨by simp, fun j => by rw [eng_modDvt]; exact EngSame.refl _⟩
  steal s := keepsEngines_modEng fun _ => by constructor <;> rfl
  writeBytes _ _ _ _ := keepsEngines_of_inst rfl rfl
  same s g hg := keepsEngines_modEng hg
  addRegion _ _ := keepsEngines_of_inst rfl rfl

/-! ### The engine's commands and events -/

/-- The moves of the commands and events of engine `e` (42_buffer_engine.md R151 to R175): the cycles', and
each change of the transport state under the condition in which it is made. -/
structure EngineMoves (R : State → State → Prop) (e : Nat) : Prop extends EngMoves R e where
  setRes0 : ∀ s v, R s (State.setRes0 s v)
  setRes1 : ∀ s v, R s (State.setRes1 s v)
  setStatus : ∀ s c, R s (State.setStatus s c)
  setupFailed : ∀ s, (State.eng s e).setupDone = false → (State.eng s e).fatal = false →
    R s (State.modEng s e (fun g => { g with fatal := true }))
  finishSetup : ∀ s cbs base, (State.eng s e).setupDone = false → (State.eng s e).fatal = false →
    2 ≤ (State.eng s e).segments.toNat → R s (State.modEng s e (·.finishSetup cbs base))
  armRing : ∀ s, R s (State.modEng s e Eng.armRing)
  enterRun : ∀ s, (State.eng s e).setupDone = true → (State.eng s e).fatal = false →
    R s (State.modEng s e Eng.enterRun)
  stopPe : ∀ s, R s (State.modEng s e (fun g =>
    { g with peRunning := false, peStops := g.peStops + 1, finalizeOwed := g.finalizeOwed + 1 }))
  hold : ∀ s, R s (State.modEng s e (fun g => { g with running := false, stopHold := true }))
  restartFailed : ∀ s, R s (State.modEng s e (fun g =>
    { g with running := false, fatal := true, wdArmed := false }))
  advance : ∀ s c, (State.eng s e).curSeg.toNat = c → R s (State.modEng s e (·.advance c))

/-- ENG_SETUP (R151). -/
theorem leads_engSetupBody (h : EngineMoves R e) : Leads R (engSetupBody e) := by
  have hT := h.toTravels
  intro s
  unfold engSetupBody
  rw [run_bind, run_getEng]
  dsimp only
  rw [run_ite]
  split
  · exact h.refl _
  next h1 =>
  rw [not_or] at h1
  simp only [Bool.not_eq_true] at h1
  rw [run_ite]
  split
  · exact h.refl _
  next h2 =>
  have hfail : ∀ t : State, (t.eng e).setupDone = false → (t.eng e).fatal = false →
      ∀ c : Status, R t (finalState ((do
        modEng e (fun g => { g with fatal := true })
        answer c : M (Option Status)) t)) :=
    fun t a b c => leads_bind_at hT (h.setupFailed t a b) fun _ u _ => h.refl u
  rw [run_ite]
  split
  · exact hfail s h1.1 h1.2 _
  have la : ∀ {Q : State → State → Prop}, EngMoves Q e → ∀ size, Leads Q (alloc e size) :=
    fun hQ size => leads_bind hQ.toTravels (hQ.part (.request _)) fun _ =>
      leads_bind hQ.toTravels (hQ.part .getState) fun _ => leads_ite
        (leads_bind hQ.toTravels (leads_update fun s => hQ.addRegion s _) fun _ => hQ.part (.pure _))
        (hQ.part (.pure _))
  have lp : ∀ {Q : State → State → Prop}, Shared Q → ∀ a b c, Leads Q (peAllocProgram e a b c) :=
    fun hQ a b c => leads_bind hQ.toTravels (hQ.part (.request _)) fun _ => hQ.part (.pure _)
  refine leads_bind_at hT (la h.toEngMoves _ s) fun a t ht => ?_
  have hc := la (keepsEngines_moves e)
    ((s.eng e).regionSize (nextPow2 (s.eng e).minPayload.toNat)) s
  rw [ht] at hc
  have hc' : EngSame (s.eng e) (t.eng e) := hc.2 e
  have ht1 : (t.eng e).setupDone = false := hc'.setupDone.trans h1.1
  have ht2 : (t.eng e).fatal = false := hc'.fatal.trans h1.2
  rcases a with _ | base
  · exact hfail t ht1 ht2 _
  dsimp only
  refine leads_bind_at hT (lp h.toShared _ _ _ t) fun ok u hu => ?_
  have hd := lp (keepsEngines_moves e).toShared (s.eng e).segments.toNat
    (s.eng e).cyclesPerSeg.toNat (nextPow2 (s.eng e).minPayload.toNat) t
  rw [hu] at hd
  have hd' : EngSame (t.eng e) (u.eng e) := hd.2 e
  have hu1 : (u.eng e).setupDone = false := hd'.setupDone.trans ht1
  have hu2 : (u.eng e).fatal = false := hd'.fatal.trans ht2
  rw [run_ite]
  split
  · refine leads_bind_at hT (h.finishSetup u _ _ hu1 hu2 ?_) fun _ v _ => ?_
    · rw [hd'.segments, hc'.segments]
      omega
    · exact leads_bind_at hT (h.setRes0 v _) fun _ w _ =>
        leads_bind_at hT (h.setRes1 w _) fun _ x _ => h.refl x
  · exact hfail u hu1 hu2 _

/-- ENG_START (R155). -/
theorem leads_engStartBody (h : EngineMoves R e) : Leads R (engStartBody e) := by
  have hT := h.toTravels
  have hk := keepsEngines_moves e
  intro s
  unfold engStartBody
  rw [run_bind, run_getState]
  dsimp only
  rw [run_ite]
  split
  · exact h.refl _
  next h1 =>
  rw [run_ite]
  split
  · exact h.refl _
  rw [run_ite]
  split
  · exact h.refl _
  rw [not_or] at h1
  simp only [Bool.not_eq_true, Bool.not_eq_false] at h1
  refine leads_bind_at hT (h.armRing s) fun _ t ht => ?_
  have ht' : t = s.modEng e Eng.armRing := by cases ht; rfl
  have ht1 : (t.eng e).setupDone = true ∧ (t.eng e).fatal = false := by
    by_cases hl : e < s.inst.length
    · rw [ht', eng_modEng_same _ _ hl]
      exact h1
    · rw [ht', modEng_absent hl]
      exact h1
  clear ht ht' h1
  refine leads_bind_at hT (leads_peLocalNodeId h.toEngMoves t) fun sid u hu => ?_
  have c1 := leads_peLocalNodeId hk t
  rw [hu] at c1
  have c1' : EngSame (t.eng e) (u.eng e) := c1.2 e
  have lsid : ∀ {Q : State → State → Prop}, EngMoves Q e →
      Leads Q (modEng e (fun g => { g with localSid := sid })) :=
    fun hQ => hQ.leads_same fun _ => by constructor <;> rfl
  refine leads_bind_at hT (lsid h.toEngMoves u) fun _ v hv => ?_
  have c2 := lsid hk u
  rw [hv] at c2
  have c2' : EngSame (u.eng e) (v.eng e) := c2.2 e
  refine leads_bind_at hT (leads_prefill h.toEngMoves v) fun _ w hw => ?_
  have c3 := leads_prefill hk v
  rw [hw] at c3
  have c3' : EngSame (v.eng e) (w.eng e) := c3.2 e
  refine leads_bind_at hT (leads_peStart h.toEngMoves w) fun r x hx => ?_
  have c4 := leads_peStart hk w
  rw [hx] at c4
  have c4' : EngSame (w.eng e) (x.eng e) := c4.2 e
  rcases r with _ | ct
  · exact leads_bind hT (leads_drainSlots h.toEngMoves) (fun _ => leads_answer hT _) x
  · refine leads_bind_at hT (leads_startClock h.toEngMoves ct x) fun _ y hy => ?_
    have c5 := leads_startClock hk ct x
    rw [hy] at c5
    have c5' : EngSame (x.eng e) (y.eng e) := c5.2 e
    have c := (((c1'.trans c2').trans c3').trans c4').trans c5'
    exact leads_bind_at hT (h.enterRun y (c.setupDone.trans ht1.1) (c.fatal.trans ht1.2))
      fun _ z _ => h.refl z

theorem leads_peStop (h : EngineMoves R e) (he : ∀ s o, R s (State.emit s o)) :
    Leads R (peStop e) :=
  leads_bind h.toTravels (leads_update fun s => he s _) fun _ s => h.stopPe s

/-- ENG_STOP (R158). -/
theorem leads_engStopBody (h : EngineMoves R e) (he : ∀ s o, R s (State.emit s o)) :
    Leads R (engStopBody e) := by
  have h1 := leads_peStop h he
  have h2 : Leads R (modEng e (fun g => { g with running := false, stopHold := true })) := h.hold
  refine leads_bind h.toTravels (h.part (.getEng e)) fun g => leads_ite (h.part (.answer _)) ?_
  exact leads_bind h.toTravels (h.leads_same fun _ => by constructor <;> rfl) fun _ =>
    leads_bind h.toTravels h1 fun _ => leads_bind h.toTravels h2 fun _ => h.part (.pure _)

/-- EV_SEGMENT (R163). -/
theorem leads_evSegmentBody (h : EngineMoves R e) (seg : Nat) : Leads R (evSegmentBody e seg) := by
  have hT := h.toTravels
  intro s
  unfold evSegmentBody
  rw [run_bind, run_getEng]
  dsimp only
  rw [run_ite]
  split
  · exact h.refl _
  rw [run_ite]
  split
  · exact h.takeFault _ _
  refine leads_bind_at hT (leads_segmentCycles h.toEngMoves _ _ _ _ s) fun any t ht => ?_
  have c1 := leads_segmentCycles (keepsEngines_moves e) (s.eng e).curSeg.toNat
    (s.eng e).cyclesPerSeg.toNat ((s.eng e).curSeg.toNat * (s.eng e).cyclesPerSeg.toNat) false s
  rw [ht] at c1
  have c1' : EngSame (s.eng e) (t.eng e) := c1.2 e
  refine leads_bind_at hT (h.advance t _ (by rw [c1'.curSeg])) fun _ u _ => ?_
  have h1 := leads_validateTimestamp h.toEngMoves (s.eng e).curSeg.toNat
  have h2 : Leads R rearmWatchdog := leads_pure hT _
  refine (show Leads R _ from ?_) u
  repeat first
    | assumption
    | with_reducible exact h.part (by constructor)
    | ((with_reducible refine h.leads_same ?_); exact fun _ => by constructor <;> rfl)
    | with_reducible refine leads_ite ?_ ?_
    | with_reducible refine leads_bind hT ?_ fun _ => ?_

/-- `restart()` (R172). -/
theorem leads_restart (h : EngineMoves R e) : Leads R (restart e) := by
  have h1 : Leads R (modEng e (fun g =>
      { g with running := false, fatal := true, wdArmed := false })) := h.restartFailed
  have h2 : Leads R (modEng e Eng.armRing) := h.armRing
  refine leads_bind h.toTravels h2 fun _ => leads_bind h.toTravels (leads_rebuild h.toEngMoves) fun _ =>
    leads_bind h.toTravels (leads_peStart h.toEngMoves) fun r => ?_
  split
  · exact leads_bind h.toTravels h1 fun _ => h.part (.notify _)
  · exact leads_startClock h.toEngMoves _

/-- EV_OVERRUN (R171). -/
theorem leads_evOverrunBody (h : EngineMoves R e) (he : ∀ s o, R s (State.emit s o)) :
    Leads R (evOverrunBody e) :=
  leads_bind h.toTravels (h.part (.getEng e)) fun _ => leads_ite (h.part (.pure _))
    (leads_bind h.toTravels (leads_peStop h he) fun _ =>
      leads_bind h.toTravels (h.part (.notify _)) fun _ => leads_restart h)

/-- EV_FORCE_STOP (R173). -/
theorem leads_evForceStopBody (h : EngineMoves R e) : Leads R (evForceStopBody e) :=
  leads_bind h.toTravels (h.part (.getEng e)) fun _ => leads_ite (h.part (.pure _))
    (leads_bind h.toTravels (h.part (.notify _)) fun _ => leads_restart h)

/-- EV_WATCHDOG (R175). -/
theorem leads_evWatchdogBody (h : EngMoves R e) : Leads R (evWatchdogBody e) :=
  leads_bind h.toTravels (h.part (.getEng e)) fun _ => leads_ite (h.part (.pure _))
    (leads_bind h.toTravels (h.part (.notify _)) fun _ =>
      h.leads_same fun _ => by constructor <;> rfl)

/-- EV_POLL_TIMEOUT (R160). -/
theorem leads_evPollTimeoutBody (h : Shared R) (e : Nat) : Leads R (evPollTimeoutBody e) :=
  leads_bind h.toTravels (h.part (.getEng e)) fun _ => leads_ite (h.part (.raise _)) (h.part (.pure _))

/-- What EV_FINALIZE does once its FINALIZE is no longer owed (R159). -/
theorem leads_afterFinalize (h : EngineMoves R e) {c : Prop} [Decidable c] :
    Leads R (if c then do
        teardown e
        modEng e (fun g => { g with stopHold := false })
        update (·.setStatus .success)
      else pure () : M Unit) :=
  leads_ite (leads_bind h.toTravels (leads_teardown h.toEngMoves) fun _ =>
    leads_bind h.toTravels (h.leads_same fun _ => by constructor <;> rfl) fun _ =>
      leads_update fun s => h.setStatus s _) (h.part (.pure _))

/-- Storing an instance as it is changes nothing. -/
theorem setInst_instAt {s : State} {e : Nat} (h : e < s.inst.length) :
    s.setInst e (s.instAt e) = s := by
  simp [State.setInst, State.instAt, h]

/-- EV_FINALIZE from a state, given what the FINALIZE taken off the count leads to (R159). -/
theorem leads_evFinalizeBody_at (h : EngineMoves R e) {r s : State}
    (hf : R r (s.modEng e (fun g => { g with finalizeOwed := g.finalizeOwed - 1 }))) :
    R r (finalState (evFinalizeBody e s)) := by
  unfold evFinalizeBody
  rw [run_bind, run_getEng]
  dsimp only
  rw [run_ite]
  split
  · next h0 =>
    have hs : s.modEng e (fun g => { g with finalizeOwed := g.finalizeOwed - 1 }) = s := by
      by_cases hl : e < s.inst.length
      · have hg : { s.eng e with finalizeOwed := (s.eng e).finalizeOwed - 1 } = s.eng e := by
          rw [h0]
          cases hx : s.eng e
          rw [hx] at h0
          simp only at h0
          rw [h0]
        rw [modEng_eq, hg]
        exact setInst_instAt hl
      · exact modEng_absent hl
    rw [hs] at hf
    exact hf
  · rw [run_bind, run_modEng]
    exact h.trans hf (leads_afterFinalize h _)

/-! ### An instruction -/

/-- Every move an instruction can make, but for the FINALIZE that EV_FINALIZE takes off the count. -/
structure ExecMoves (R : State → State → Prop) : Prop extends CallStable R where
  engine : ∀ e, EngineMoves R e
  register : ∀ s e, R s (State.modDvr s e (fun d => { d with consumers := d.consumers ++ [s.arg0] }))
  csrStore : ∀ s i (c : Csr) w, c.writable (State.eng s i) = true →
    R s (State.setInst s i (c.store (s.instAt i) w))
  reset : ∀ s, R s (State.resetBlock s)

theorem leads_asCommand (h : ExecMoves R) (i : Instr) {body : M (Option Status)} (hb : Leads R body)
    {s t : State} (ht : asCommand i body s = .next t) : R s t := by
  unfold asCommand at ht
  cases ht
  split
  · exact h.refl _
  · exact leads_stepEnd h.toTravels h.reset
      (leads_runCommand h.toTravels h.setStatus h.takeFault i (hb s))

theorem leads_asEvent_at (h : ExecMoves R) (e : Nat) {body : M Unit} {s t : State}
    (hb : R s (finalState (body s))) (ht : asEvent e body s = .next t) : R s t := by
  unfold asEvent at ht
  cases ht
  split
  · exact h.refl _
  split
  · exact leads_stepEnd h.toTravels h.reset hb
  · exact h.refl _

theorem leads_asEvent (h : ExecMoves R) (e : Nat) {body : M Unit} (hb : Leads R body) {s t : State}
    (ht : asEvent e body s = .next t) : R s t := leads_asEvent_at h e (hb s) ht

theorem leads_producerBody (h : Travels R) (h0 : ∀ s v, R s (State.setRes0 s v))
    {p : Nat → M (Status × Nat)} (hp : ∀ k, Leads R (p k)) : Leads R (producerBody p) :=
  leads_bind h (leads_getState h) fun _ => leads_bind h (hp _) fun _ => leads_ite
    (leads_bind h (leads_update fun s => h0 s _) fun _ => leads_answer h _) (leads_answer h _)

theorem leads_dvrRegisterBody (h : ExecMoves R) (e : Nat) : Leads R (dvrRegisterBody e) := by
  intro s
  unfold dvrRegisterBody
  rw [run_bind, run_getState]
  dsimp only
  rw [run_ite]
  split
  · exact h.refl _
  rw [run_ite]
  split
  · exact h.refl _
  exact leads_bind_at h.toTravels (h.register s _) fun _ u _ =>
    leads_bind_at h.toTravels (h.setRes0 u _) fun _ v _ => h.refl v

theorem leads_csrWriteBody (h : ExecMoves R) (u i x : Nat) : Leads R (csrWriteBody u i x) := by
  intro s
  unfold csrWriteBody
  rw [run_bind, run_getState]
  dsimp only
  rcases hc : csrAt u x with _ | c
  · exact h.refl _
  dsimp only
  rw [run_ite]
  split
  · exact h.refl _
  next hw =>
  rw [run_ite]
  split
  · exact h.refl _
  exact leads_bind_at h.toTravels (h.csrStore s _ c _ (by rw [Bool.not_eq_false] at hw; exact hw))
    fun _ u _ => h.refl u

/-- An instruction is made of moves. -/
theorem exec_moves (h : ExecMoves R) {i : Instr} {s t : State}
    (hf : ∀ e, i = .evFinalize e →
      R s (s.modEng e (fun g => { g with finalizeOwed := g.finalizeOwed - 1 })))
    (ht : exec i s = .next t) : R s t := by
  have hT := h.toTravels
  have hC := h.toClientStable
  cases i <;> unfold exec at ht
  · exact leads_asCommand h _ (leads_cipBody hC).1 ht
  · exact leads_asCommand h _ (leads_cipBody hC).2.1 ht
  · exact leads_asCommand h _ (leads_cipBody hC).2.2 ht
  · exact leads_asCommand h _ (leads_ctBody hC).1 ht
  · exact leads_asCommand h _ (leads_ctBody hC).2.1 ht
  · exact leads_asCommand h _ (leads_ctBody hC).2.2 ht
  · exact leads_asCommand h _ (leads_engSetupBody (h.engine _)) ht
  · exact leads_asCommand h _ (leads_engStartBody (h.engine _)) ht
  · exact leads_asCommand h _ (leads_engStopBody (h.engine _) h.emit) ht
  · exact leads_asCommand h _ (leads_engSetWatchdogBody hC _) ht
  · exact leads_asEvent h _ (leads_evSegmentBody (h.engine _) _) ht
  · exact leads_asEvent h _ (leads_evOverrunBody (h.engine _) h.emit) ht
  · exact leads_asEvent_at h _ (leads_evFinalizeBody_at (h.engine _) (hf _ rfl)) ht
  · exact leads_asEvent h _ (leads_evForceStopBody (h.engine _)) ht
  · exact leads_asEvent h _ (leads_evWatchdogBody (h.engine _).toEngMoves) ht
  · exact leads_asEvent h _ (leads_evPollTimeoutBody h.shared _) ht
  · exact leads_asCommand h _ (leads_bind hT (leads_getState hT) fun _ => leads_bind hT
      (leads_dvrCycle (h.engine _).toDvrMoves _ _ _) fun _ => leads_answer hT _) ht
  · exact leads_asCommand h _ (leads_dvrReleaseBody hC _) ht
  · exact leads_asCommand h _ (leads_dvrRegisterBody h _) ht
  · exact leads_asCommand h _ (leads_producerBody hT h.setRes0
      (leads_dvtCycle (h.engine _).toDvtMoves)) ht
  · exact leads_asCommand h _ (leads_bind hT (leads_getState hT) fun _ => leads_bind hT
      (leads_tsPacket (h.engine _).toTsMoves _ _) fun _ => leads_answer hT _) ht
  · exact leads_asCommand h _ (leads_bind hT (leads_tsFlush (h.engine _).toTsMoves)
      fun _ => leads_answer hT _) ht
  · exact leads_asCommand h _ (leads_tsReleasePesBody hC _) ht
  · exact leads_asCommand h _ (leads_bind hT (leads_getState hT) fun _ => leads_bind hT
      (leads_urxCycle (h.engine _).toUrxMoves _ _ _) fun _ => leads_answer hT _) ht
  · exact leads_asCommand h _ (leads_producerBody hT h.setRes0
      (leads_utxCycle (h.engine _).toSlotMoves)) ht
  · exact leads_asCommand h _ (leads_csrReadBody hT h.setRes0 _ _ _) ht
  · exact leads_asCommand h _ (leads_csrWriteBody h _ _ _) ht

/-! ### A step -/

/-- Every move a step can make: an instruction's, the schedule's, and those of the Port Engine and of the
event queues. A FINALIZE joins the queue as the Port Engine confirms a stop, and leaves it as it is taken off
the count of those owed. -/
structure StepMoves (R : State → State → Prop) : Prop extends ExecMoves R where
  pushEvent : ∀ s e v, v ≠ .finalize → R s (State.modEng s e (·.pushEvent v))
  confirmStop : ∀ s e, 0 < (State.eng s e).peStops → R s (State.modEng s e Eng.confirmStop)
  takeEvent : ∀ s e v rest, (State.eng s e).events = v :: rest → v ≠ .finalize →
    R s (State.modEng s e (fun g => { g with events := rest }))
  takeFinalize : ∀ s e rest, (State.eng s e).events = .finalize :: rest →
    R s (State.modEng s e (fun g => { g with events := rest, finalizeOwed := g.finalizeOwed - 1 }))
  appendWire : ∀ s p, R s (State.appendWire s p)
  agenda : ∀ s (a : List Action), R s { s with agenda := a }
  drawn : ∀ s n, R s { s with drawn := n }

theorem leads_peCycle (h : StepMoves R) (e k : Nat) : Leads R (peCycle e k) := by
  have hS := h.shared
  have h1 : ∀ p, Leads R (update (·.appendWire p)) := fun p => leads_update fun s => h.appendWire s p
  have h2 := leads_memWrite h.takeFault h.writeBytes
  have h3 : ∀ w, Leads R (modEng e (·.setSlotHdr k w)) := fun w s => (h.engine e).slotHdr s k w
  unfold peCycle peReceive peSend
  repeat first
    | with_reducible exact hS.part (by constructor)
    | with_reducible exact h1 _
    | with_reducible exact h2 _ _
    | with_reducible exact h3 _
    | with_reducible refine leads_ite ?_ ?_
    | with_reducible refine leads_bind h.toTravels ?_ fun _ => ?_
    | split

theorem leads_peCycles (h : StepMoves R) (e : Nat) : ∀ n k, Leads R (peCycles e n k)
  | 0, _ => leads_pure h.toTravels _
  | n + 1, k => leads_bind h.toTravels (leads_peCycle h e k) fun _ => leads_peCycles h e n (k + 1)

/-- Two changes of an engine, one after the other, as one. -/
theorem modEng_twice (h : Travels R) {s : State} {e : Nat} {f g : Eng → Eng}
    (h1 : R s (s.modEng e f)) (h2 : R (s.modEng e f) ((s.modEng e f).modEng e g)) :
    R s (s.modEng e (fun x => g (f x))) := by
  rw [modEng_modEng] at h2
  exact h.trans h1 h2

/-- The Port Engine segment step (20_memory.md R72, R73). -/
theorem leads_peSegment (h : StepMoves R) (e : Nat) : Leads R (peSegment e) := by
  have h1 := leads_peCycles h e
  have h2 := leads_peCycle h e
  have h3 : Leads R (modEng e (fun g => { g.pushEvent .overrun with peRunning := false })) :=
    fun s => modEng_twice h.toTravels (h.pushEvent s e .overrun (by decide))
      ((h.engine e).same _ (fun g => { g with peRunning := false }) fun _ => by constructor <;> rfl)
  have h4 : ∀ w, Leads R (modEng e (fun g =>
      (g.setTsSlot g.peSeg w).pushEvent (.segment g.peSeg))) := by
    intro w s
    have a := (h.engine e).same s (fun g => g.setTsSlot g.peSeg w) fun _ => by constructor <;> rfl
    have b := h.pushEvent (s.modEng e (fun g => g.setTsSlot g.peSeg w)) e (.segment (s.eng e).peSeg)
      (by simp)
    rw [modEng_modEng] at b
    exact h.trans a b
  have hS := h.shared
  unfold peSegment
  dsimp only
  repeat first
    | with_reducible exact hS.part (by constructor)
    | with_reducible exact h1 _ _
    | with_reducible exact h2 _
    | with_reducible exact h3
    | with_reducible exact h4 _
    | ((with_reducible refine (h.engine e).leads_same ?_); exact fun _ => by constructor <;> rfl)
    | with_reducible refine leads_bind h.toTravels ?_ fun _ => ?_
    | split

/-- A host step. -/
theorem hostStep_moves (h : StepMoves R) {a : HostAct} {s t : State} (ht : hostStep a s = .next t) :
    R s t := by
  cases a with
  | write r v =>
    cases r <;> try (cases ht; exact h.hostWrite s _ v)
    change issue v s = _ at ht
    unfold issue at ht
    split at ht
    · cases ht
      exact h.refl _
    · split at ht
      · next i hi =>
        refine h.trans (h.setCmd s v) (exec_moves h.toExecMoves ?_ ht)
        intro e he
        subst he
        unfold decodeCommand at hi
        split at hi
        · split at hi <;> cases hi
          contradiction
        · cases hi
      · cases ht
        exact h.trans (h.setCmd s v) (h.setStatus _ _)
  | read r =>
    cases ht
    exact h.refl _
  | poke a b =>
    cases ht
    exact leads_portWrite h.toClientStable a b s
  | peek a =>
    cases ht
    exact leads_portRead h.toClientStable a s

/-- The consumption of an event. -/
theorem consumeEvent_moves (h : StepMoves R) {e : Nat} {s t : State}
    (ht : consumeEvent e s = .next t) : R s t := by
  unfold consumeEvent at ht
  split at ht
  · cases ht
    exact h.refl _
  split at ht
  · cases ht
    exact h.refl _
  next v rest hv =>
  by_cases hf : v = .finalize
  · subst hf
    have hm := h.takeFinalize s e rest hv
    change asEvent e _ _ = _ at ht
    unfold asEvent at ht
    have hl : e < s.inst.length := by
      by_contra hl
      have hr : s.eng e = Eng.reset := by
        simp [State.eng, State.instAt, Nat.not_lt.mp hl, Inst.reset]
      rw [hr] at hv
      cases hv
    rw [if_neg (by assumption), if_pos (by simpa [State.eInst] using hl)] at ht
    cases ht
    refine leads_stepEnd h.toTravels h.reset (leads_evFinalizeBody_at (h.engine e) ?_)
    rw [modEng_modEng]
    exact hm
  · refine h.trans (h.takeEvent s e v rest hv hf) (exec_moves h.toExecMoves ?_ ht)
    intro j hj
    cases v <;> cases hj
    exact absurd rfl hf

/-- A step is made of moves. -/
theorem step_moves (h : StepMoves R) {s t : State} (ht : step s = .next t) : R s t := by
  have hn : R s s.nextAction.2 := by
    unfold State.nextAction
    split
    · exact h.agenda s _
    · exact h.drawn s _
  refine h.trans hn ?_
  unfold step at ht
  generalize s.nextAction.2 = u at *
  generalize s.nextAction.1 = a at *
  cases a with
  | reset =>
    cases ht
    exact h.reset u
  | host a => exact hostStep_moves h ht
  | consume e => exact consumeEvent_moves h ht
  | peSegment e =>
    cases ht
    split
    · exact leads_peSegment h e u
    · exact h.refl _
  | peFinalize e =>
    cases ht
    split
    · next hp => exact h.confirmStop u e hp
    · exact h.refl _
  | peForceStop e =>
    cases ht
    split
    · exact modEng_twice (f := (·.pushEvent .forceStop)) (g := fun g => { g with peRunning := false })
        h.toTravels (h.pushEvent u e .forceStop (by decide))
        ((h.engine e).same _ _ fun _ => by constructor <;> rfl)
    · exact h.refl _
  | watchdog e =>
    cases ht
    split
    · exact h.pushEvent u e _ (by decide)
    · exact h.refl _
  | pollTimeout e =>
    cases ht
    split
    · exact h.pushEvent u e _ (by decide)
    · exact h.refl _

/-! ### A law about every instance -/

/-- The moves of an engine's transport state and queue, as changes of its record. -/
inductive EngMove (x : Eng) : Eng → Prop where
  | setupFailed : x.setupDone = false → x.fatal = false → EngMove x { x with fatal := true }
  | finishSetup (cbs : Nat) (base : Word) : x.setupDone = false → x.fatal = false →
      2 ≤ x.segments.toNat → EngMove x (x.finishSetup cbs base)
  | armRing : EngMove x x.armRing
  | enterRun : x.setupDone = true → x.fatal = false → EngMove x x.enterRun
  | stopPe : EngMove x
      { x with peRunning := false, peStops := x.peStops + 1, finalizeOwed := x.finalizeOwed + 1 }
  | hold : EngMove x { x with running := false, stopHold := true }
  | restartFailed : EngMove x { x with running := false, fatal := true, wdArmed := false }
  | advance : EngMove x (x.advance x.curSeg.toNat)
  | pushEvent (v : Event) : v ≠ .finalize → EngMove x (x.pushEvent v)
  | confirmStop : 0 < x.peStops → EngMove x x.confirmStop
  | takeEvent (v : Event) (rest : List Event) : x.events = v :: rest → v ≠ .finalize →
      EngMove x { x with events := rest }
  | takeFinalize (rest : List Event) : x.events = .finalize :: rest →
      EngMove x { x with events := rest, finalizeOwed := x.finalizeOwed - 1 }

/-- A law of one instance that every move keeps. -/
structure InstMoves (P : Inst → Prop) : Prop where
  reset : ∀ p, P (Inst.reset p)
  dvt : ∀ x d, d.frames.length = x.dvt.frames.length → P x → P { x with dvt := d }
  engSame : ∀ x g, EngSame x.eng g → P x → P { x with eng := g }
  engMove : ∀ x g, EngMove x.eng g → P x → P { x with eng := g }
  abandonFrame : ∀ x f, x.dvr.currentFrame = some f → P x → P { x with dvr := x.dvr.abandonFrame f }
  beginFrame : ∀ x f rest len syt ts, x.dvr.freeQueue = f :: rest → x.dvr.currentFrame = none → P x →
    P { x with dvr := x.dvr.beginFrame f rest len syt ts }
  fillFrame : ∀ x f bytes, x.dvr.currentFrame = some f → P x →
    P { x with dvr := x.dvr.fillFrame f bytes }
  dispatchFrame : ∀ x f, x.dvr.currentFrame = some f → P x → P { x with dvr := x.dvr.dispatchFrame f }
  dropReference : ∀ x f, P x → P { x with dvr := x.dvr.dropReference f }
  endDispatch : ∀ x f, P x → P { x with dvr := x.dvr.endDispatch f }
  release : ∀ x f, f < x.dvr.frames.length → (x.dvr.frame f).state = .dispatched → P x →
    P { x with dvr := x.dvr.release f }
  register : ∀ x c, P x → P { x with dvr := { x.dvr with consumers := c } }
  lawful : ∀ x (g : Ts → Ts), (∀ t : Ts, t.law → (g t).law) → P x → P { x with ts := g x.ts }
  allocCurrent : ∀ x y, (x.ts.stream y).curBuf = none → P x → P { x with ts := x.ts.allocCurrent y }
  deliverBuf : ∀ x y b, (x.ts.stream y).curBuf = some b → P x →
    P { x with ts := x.ts.deliverBuf y b }
  releaseBuf : ∀ x id, id < x.ts.nextPesId → (x.ts.buf id).state = .delivered → P x →
    P { x with ts := x.ts.releaseBuf id }
  csrStore : ∀ x (c : Csr) w, c.writable x.eng = true → P x → P (c.store x w)

/-- The law holds of every instance afterwards if it does before. -/
def KeepsEvery (P : Inst → Prop) (s t : State) : Prop := s.every P → t.every P

theorem keepsEvery_setInst {P : Inst → Prop} {s : State} {e : Nat} {x : Inst}
    (hx : P (s.instAt e) → P x) : KeepsEvery P s (s.setInst e x) := by
  intro hs y hy
  by_cases hl : e < s.inst.length
  · rcases mem_setInst hy with rfl | hy
    · exact hx (hs _ (instAt_mem hl))
    · exact hs _ hy
  · rw [State.setInst_inst, List.set_eq_of_length_le (Nat.not_lt.mp hl)] at hy
    exact hs _ hy

theorem keepsEvery_of_inst {P : Inst → Prop} {s t : State} (h : t.inst = s.inst) :
    KeepsEvery P s t := by
  intro hs y hy
  rw [h] at hy
  exact hs y hy

theorem keepsEvery_calls {P : Inst → Prop} (m : InstMoves P) : CallStable (KeepsEvery P) where
  refl _ := id
  trans a b := b ∘ a
  setCmd _ _ := keepsEvery_of_inst rfl
  setStatus _ _ := keepsEvery_of_inst rfl
  setRes0 _ _ := keepsEvery_of_inst rfl
  setRes1 _ _ := keepsEvery_of_inst rfl
  setRes2 _ _ := keepsEvery_of_inst rfl
  setRes3 _ _ := keepsEvery_of_inst rfl
  hostWrite s r v := by cases r <;> exact keepsEvery_of_inst rfl
  writeBytes _ _ _ _ := keepsEvery_of_inst rfl
  takeFault _ _ := keepsEvery_of_inst rfl
  release _ _ f a b _ := keepsEvery_setInst (m.release _ f a b)
  releaseBuf _ _ id a b := keepsEvery_setInst (m.releaseBuf _ id a b)
  setWatchdog s e b := keepsEvery_setInst (m.engSame _ _ (EngSame.setWatchdog (s.eng e) b))
  enterCallback _ _ := keepsEvery_of_inst rfl
  leaveCallback _ := keepsEvery_of_inst rfl
  emit _ _ := keepsEvery_of_inst rfl
  takeDraw _ _ _ := keepsEvery_of_inst rfl

theorem keepsEvery_engine {P : Inst → Prop} (m : InstMoves P) (e : Nat) :
    EngineMoves (KeepsEvery P) e where
  toShared := (keepsEvery_calls m).shared
  abandonFrame _ f a := keepsEvery_setInst (m.abandonFrame _ f a)
  beginFrame _ f rest len syt ts q n := keepsEvery_setInst (m.beginFrame _ f rest len syt ts q n)
  fillFrame _ f bytes a := keepsEvery_setInst (m.fillFrame _ f bytes a)
  dispatchFrame _ f a := keepsEvery_setInst (m.dispatchFrame _ f a)
  dropReference _ f := keepsEvery_setInst (m.dropReference _ f)
  endDispatch _ f := keepsEvery_setInst (m.endDispatch _ f)
  lawful _ g hg := keepsEvery_setInst (m.lawful _ g hg)
  allocCurrent _ y a := keepsEvery_setInst (m.allocCurrent _ y a)
  deliverBuf _ y b a := keepsEvery_setInst (m.deliverBuf _ y b a)
  lastFmt _ _ := keepsEvery_setInst (m.engSame _ _ (by constructor <;> rfl))
  slotHdr _ _ _ := keepsEvery_setInst (m.engSame _ _ (by constructor <;> rfl))
  record _ _ hg := keepsEvery_setInst (m.dvt _ _ (hg _))
  steal _ := keepsEvery_setInst (m.engSame _ _ (by constructor <;> rfl))
  writeBytes _ _ _ _ := keepsEvery_of_inst rfl
  same _ _ hg := keepsEvery_setInst (m.engSame _ _ (hg _))
  addRegion _ _ := keepsEvery_of_inst rfl
  setRes0 _ _ := keepsEvery_of_inst rfl
  setRes1 _ _ := keepsEvery_of_inst rfl
  setStatus _ _ := keepsEvery_of_inst rfl
  setupFailed _ a b := keepsEvery_setInst (m.engMove _ _ (.setupFailed a b))
  finishSetup _ cbs base a b c := keepsEvery_setInst (m.engMove _ _ (.finishSetup cbs base a b c))
  armRing _ := keepsEvery_setInst (m.engMove _ _ .armRing)
  enterRun _ a b := keepsEvery_setInst (m.engMove _ _ (.enterRun a b))
  stopPe _ := keepsEvery_setInst (m.engMove _ _ .stopPe)
  hold _ := keepsEvery_setInst (m.engMove _ _ .hold)
  restartFailed _ := keepsEvery_setInst (m.engMove _ _ .restartFailed)
  advance s c hc := by
    subst hc
    exact keepsEvery_setInst (m.engMove _ _ .advance)

/-- A law that every move keeps is kept by every step. -/
theorem keepsEvery_moves {P : Inst → Prop} (m : InstMoves P) : StepMoves (KeepsEvery P) where
  toCallStable := keepsEvery_calls m
  engine := keepsEvery_engine m
  register _ _ := keepsEvery_setInst (m.register _ _)
  csrStore _ _ c w hw := keepsEvery_setInst (m.csrStore _ c w hw)
  pushEvent _ _ v hv := keepsEvery_setInst (m.engMove _ _ (.pushEvent v hv))
  confirmStop _ _ hp := keepsEvery_setInst (m.engMove _ _ (.confirmStop hp))
  takeEvent _ _ v rest hv hf := keepsEvery_setInst (m.engMove _ _ (.takeEvent v rest hv hf))
  takeFinalize _ _ rest hv := keepsEvery_setInst (m.engMove _ _ (.takeFinalize rest hv))
  appendWire _ _ := keepsEvery_of_inst rfl
  agenda _ _ := keepsEvery_of_inst rfl
  drawn _ _ := keepsEvery_of_inst rfl
  reset s := by
    intro _ x hx
    have hx' : x ∈ List.replicate s.par.eInst (Inst.reset s.par) := hx
    rw [List.eq_of_mem_replicate hx']
    exact m.reset _

end Sys2Proof.Machine
end

