-- ==== Sys2Proof/Tests/Slice0.lean ====
section
/-! SUPPORT. Small tests: ill-formed terms refused, the words of spec/30_encoding.md R87 and R88 written
out, one or two steps per instruction with the results of spec/95_test_vectors.md, and for every statement
with hypotheses a concrete state that meets them. -/

-- One theorem after another: hundreds of waiting tasks would ask for more threads than the check allows.
set_option Elab.async false

namespace Sys2Proof.Tests

open Sys2Proof Sys2Proof.Machine

/-! ### States -/

def after (o : Host.Outcome State Fault Refusal) : Option State :=
  match o with
  | .next t => some t
  | _ => none

/-- Two instances, the parameters of 95_test_vectors.md section 0. -/
def base : State := State.powerOn { Config.params with eInst := 2 }
def args (a b c d : Word) (s : State) : State :=
  { s with arg0 := a, arg1 := b, arg2 := c, arg3 := d }
def tape (ds : List Draw) (s : State) : State := { s with tape := ds }
def next (a : Action) (s : State) : State := { s with agenda := [a] }
def yes : Draw := {}
def no : Draw := { status := 1 }
def ans (w : Word) : Draw := { word := w }
def withEng (g : Eng) : State := base.modEng 0 (fun _ => g)
/-- An engine that is set up: S = 2, N = 1, cycle buffers of 16 bytes from 0x100. -/
def eng (k : Kind) : Eng :=
  { Eng.reset with
    kind := k, segments := 2, cyclesPerSeg := 1, minPayload := 16, cycleBufSize := 16
    setupDone := true, bufBase := 0x100, jump := [.start 1, .overrun], localSid := 5, channel := 3 }
def running (k : Kind) : Eng := { eng k with running := true, peRunning := true }

/-! ### Well-formedness: each check refuses an ill-formed term -/

theorem test_wf_instance : (Instr.engSetup 256).wellFormed = false := by decide
theorem test_wf_instance_top : (Instr.engSetup 255).wellFormed = true := by decide
theorem test_wf_event_instance : (Instr.evSegment 256 0).wellFormed = false := by decide
theorem test_wf_segment : (Instr.evSegment 0 65536).wellFormed = false := by decide
theorem test_wf_ctl_unit : (Instr.csrRead 16 0 0).wellFormed = false := by decide
theorem test_wf_ctl_instance : (Instr.csrWrite 3 16 0).wellFormed = false := by decide
theorem test_wf_ctl_index : (Instr.csrRead 3 0 256).wellFormed = false := by decide

/-! ### Decoding: words written out from 30_encoding.md R87 and R88 -/

theorem test_decode_cip : decode 0x01010000 0 = .ok .isCip ∧ decode 0x01020000 0 = .ok .parseCip ∧
    decode 0x01030000 0 = .ok .buildCip := by decide
theorem test_decode_ct : decode 0x02010000 0 = .ok .ctAdd ∧ decode 0x02020000 0 = .ok .ctDelta ∧
    decode 0x02030000 0 = .ok .ctIndex := by decide
theorem test_decode_eng : decode 0x03010001 0 = .ok (.engSetup 1) ∧
    decode 0x030200FF 0 = .ok (.engStart 255) ∧ decode 0x03030002 0 = .ok (.engStop 2) ∧
    decode 0x03040003 0 = .ok (.engSetWatchdog 3) := by decide
theorem test_decode_event : decode 0x03100004 0xFFFF = .ok (.evSegment 4 65535) ∧
    decode 0x03110005 0 = .ok (.evOverrun 5) ∧ decode 0x03120006 0 = .ok (.evFinalize 6) ∧
    decode 0x03130007 0 = .ok (.evForceStop 7) ∧ decode 0x03140008 0 = .ok (.evWatchdog 8) ∧
    decode 0x03150009 0 = .ok (.evPollTimeout 9) := by decide
theorem test_decode_dv : decode 0x04010000 0 = .ok (.dvrCycle 0) ∧
    decode 0x04020001 0 = .ok (.dvrRelease 1) ∧ decode 0x04030002 0 = .ok (.dvrRegister 2) ∧
    decode 0x05010003 0 = .ok (.dvtCycle 3) := by decide
theorem test_decode_ts : decode 0x06010000 0 = .ok (.tsPacket 0) ∧
    decode 0x06020001 0 = .ok (.tsFlush 1) ∧ decode 0x06030002 0 = .ok (.tsReleasePes 2) := by decide
theorem test_decode_uni : decode 0x07010000 0 = .ok (.urxCycle 0) ∧
    decode 0x07020001 0 = .ok (.utxCycle 1) := by decide
theorem test_decode_ctl : decode 0x0F01300B 0 = .ok (.csrRead 3 0 11) ∧
    decode 0x0F026F01 0 = .ok (.csrWrite 6 15 1) := by decide
/-- V-DEC-1, the illegal words. -/
theorem test_decode_illegal : (decodeCommand 0x00000000).toOption = none ∧
    (decodeCommand 0x01040000).toOption = none ∧ (decodeCommand 0x01010001).toOption = none ∧
    (decodeCommand 0x03100000).toOption = none ∧ (decodeCommand 0x03020100).toOption = none := by
  decide
theorem test_table_word : decodeTableWord 32 0x04010000 = some (.dvrCycle 0) ∧
    decodeTableWord 32 0x03100000 = some (.evSegment 0 0) := by decide

/-- 00_scope.md R8: the constraints on the parameters. -/
theorem test_params : Config.params.wf = true ∧ ({ Config.params with eInst := 0 }).wf = false ∧
    ({ Config.params with eInst := 17 }).wf = false ∧
    ({ Config.params with pesCapV := 183 }).wf = false := by decide

/-! ### Single steps, from 95_test_vectors.md -/

/-- V-CIP-1. -/
theorem test_is_cip : ((after (exec .isCip (args 0xFFFF7FFF 0 0 0 base))).map (·.res0)) = some 1 ∧
    ((after (exec .isCip (args 0x0000C000 0 0 0 base))).map (·.res0)) = some 0 := by decide
/-- The four bytes at `a`, as written by PARSE_CIP. -/
def be32 (t : State) (a : Nat) : Word :=
  t.readByte a ++ t.readByte (a + 1) ++ t.readByte (a + 2) ++ t.readByte (a + 3)
def ntsc : State := base.writeBytes 0x100 [0x01, 0x78, 0x00, 0x20, 0x80, 0x00, 0xFF, 0xFF]
/-- V-CIP-2. -/
theorem test_parse_cip : ((after (exec .parseCip (args 0x100 488 0x400 0 ntsc))).map fun t =>
    [t.status.setWidth 32, t.res0, t.res1, t.res2, t.res3, be32 t 0x400]) =
    some [0, 1, 480, 0x01780020, 0x8000FFFF, 0x108] := by decide +kernel
/-- V-CIP-5. -/
theorem test_parse_cip_faults :
    ((after (exec .parseCip (args 0x100 7 0x200 0 base))).map (·.faults)) = some 1 ∧
    ((after (exec .parseCip (args 0xFFFC 8 0x200 0 base))).map (·.faults)) = some 0x40 := by
  decide +kernel
/-- V-CIP-6. -/
theorem test_build_cip : ((after (exec .buildCip (args 0x053C0007 0x80000080 0x1234 0x300 base))).map
    fun t => (t.res0, t.res1, t.readBytes 0x300 8)) =
    some (0x053C0007, 0x80801234, [5, 0x3C, 0, 7, 0x80, 0x80, 0x12, 0x34]) := by decide +kernel
/-- V-CIP-8. -/
theorem test_build_cip_fdf : ((after (exec .buildCip
    (args 0x0206C410 0xA0123456 0xFFFF 0x300 base))).map fun t => (t.res1, t.readBytes 0x304 4)) =
    some (0xA0123456, [0xA0, 0x12, 0x34, 0x56]) := by decide +kernel
/-- V-CT-1: all three wraps, and the carry out of the offset. -/
theorem test_ct_add :
    ((after (exec .ctAdd (args 0xFFF3FBFF 1 0 0 base))).map (·.res0)) = some 0 ∧
    ((after (exec .ctAdd (args 0x00800A00 0x01000900 0 0 base))).map (·.res0)) =
      some 0x01801700 := by decide +kernel
/-- X-3b. -/
theorem test_ct_add_range : ((after (exec .ctAdd (args 0x01FFF800 0x1000 0 0 base))).map fun t =>
    (t.faults, t.halted, t.status)) = some (2, true, 0) := by decide +kernel
/-- V-CT-3. -/
theorem test_ct_index :
    ((after (exec .ctIndex (args 0x0FF3E000 0 0 0 base))).map (·.res0)) = some 63998 := by
  decide +kernel
/-- V-CT-4. -/
theorem test_ct_delta :
    ((after (exec .ctDelta (args 0x00005000 0x0FF3E000 0 0 base))).map (·.res0)) = some 7 ∧
    ((after (exec .ctDelta (args 0x00004000 0x00005000 0 0 base))).map (·.res0)) = some 63999 := by
  decide +kernel
def setup1 : State := tape [ans 0x1000, yes] (base.modEng 0 (fun g =>
  { g with kind := .urx, segments := 4, cyclesPerSeg := 8, minPayload := 488 }))
/-- V-ENG-1. -/
theorem test_eng_setup : ((after (exec (.engSetup 0) setup1)).map fun t =>
    ([t.res0, t.res1, (t.eng 0).cycleBufSize, (t.eng 0).bufBase], (t.eng 0).jump)) =
    some ([512, 0x1000, 512, 0x1000], [.start 1, .start 2, .start 3, .overrun]) := by
  decide +kernel
/-- V-ENG-1, variants. -/
theorem test_eng_setup_fail :
    ((after (exec (.engSetup 0) base)).map (·.status)) = some 6 ∧
    ((after (exec (.engSetup 0) (tape [no, yes] setup1))).map fun t =>
      (t.status, (t.eng 0).fatal)) = some (2, true) := by decide +kernel
/-- 20_memory.md R69: no region overlaps another, or the frames of a DVTX instance. -/
theorem test_eng_setup_overlap :
    ((after (exec (.engSetup 0) { setup1 with regions := [(0x51FF, 1)] })).map (·.status)) = some 2 ∧
    ((after (exec (.engSetup 0) { setup1 with regions := [(0x5200, 1), (0xFFF, 1)] })).map
      (·.regions)) = some [(0x5200, 1), (0xFFF, 1), (0x1000, 16896)] ∧
    ((after (exec (.engSetup 0) ((setup1.modEng 1 (fun g => { g with kind := .dvtx })).modDvt 1
      (fun d => { d with txFrameBase := 0xFE1 })))).map (·.status)) = some 2 := by decide +kernel
def start1 : State := tape [ans 5, ans 0x00010000] (withEng { eng .urx with cyclesPerSeg := 8 })
/-- V-ENG-2 step 2. -/
theorem test_eng_start : ((after (exec (.engStart 0) start1)).map fun t =>
    (t.status, (t.eng 0).expectedTs, (t.eng 0).running, (t.eng 0).firstCallback,
      (t.eng 0).localSid)) = some (0, 0x00018000, true, true, 5) := by decide +kernel
/-- V-ENG-2 step 4. -/
theorem test_eng_stop : ((after (exec (.engStop 0) (withEng (running .urx)))).map fun t =>
    ((t.eng 0).running, (t.eng 0).finalizeOwed, t.holding)) = some (false, 1, true) := by
  decide +kernel
/-- V-ENG-7. -/
theorem test_eng_set_watchdog :
    ((after (exec (.engSetWatchdog 0) (args 1 0 0 0 (withEng (running .urx))))).map fun t =>
      ((t.eng 0).wdRegistered, (t.eng 0).wdArmed)) = some (true, true) ∧
    ((after (exec (.engSetWatchdog 0) (args 1 0 0 0 (withEng (running .utx))))).map fun t =>
      ((t.eng 0).wdRegistered, (t.eng 0).wdArmed)) = some (true, false) := by decide +kernel
def ring4 : State := withEng
  { running .urx with
    segments := 4, jump := [.start 1, .start 2, .start 3, .overrun], tsSlot := [(0, 0)]
    slotHdr := [(0, 0)], firstCallback := true }
/-- V-ENG-3, the first row. -/
theorem test_ev_segment : ((after (exec (.evSegment 0 0) ring4)).map fun t =>
    ((t.eng 0).jump, (t.eng 0).curSeg, (t.eng 0).firstCallback)) =
    some ([.overrun, .start 2, .start 3, .start 0], 1, false) := by decide +kernel
/-- V-ENG-8. -/
theorem test_ev_segment_order :
    ((after (exec (.evSegment 0 1) ring4)).map (·.faults)) = some 4 := by decide +kernel
def stalled : State := tape [yes, ans 0x4000] (withEng
  { running .urx with peRunning := false, curSeg := 1 })
/-- V-ENG-4 step 6. -/
theorem test_ev_overrun : ((after (exec (.evOverrun 0) stalled)).map fun t =>
    (t.out, (t.eng 0).expectedTs, (t.eng 0).curSeg, (t.eng 0).finalizeOwed)) =
    some ([.peStop 0, .engMsg 0 .overrun none, .peStart 0 3], 0x5000, 0, 1) := by decide +kernel
/-- V-ENG-9. -/
theorem test_ev_force_stop : ((after (exec (.evForceStop 0) stalled)).map fun t =>
    ((t.eng 0).running, (t.eng 0).curSeg, (t.eng 0).finalizeOwed)) = some (true, 0, 0) := by
  decide +kernel
/-- V-ENG-5: the first FINALIZE does not end the STOP, the second does. -/
theorem test_ev_finalize :
    ((after (exec (.evFinalize 0) (withEng
      { eng .urx with finalizeOwed := 2, stopHold := true }))).map (·.holding)) = some true ∧
    ((after (exec (.evFinalize 0) (withEng
      { eng .urx with finalizeOwed := 1, stopHold := true }))).map (·.holding)) = some false := by
  decide +kernel
def nested : Draw := { acts := [.write .arg0 0, .write .cmd 0x03040000] }
/-- V-ENG-7: the client disarms the watchdog inside the callback. -/
theorem test_ev_watchdog : ((after (exec (.evWatchdog 0) (tape [nested] (withEng
    { running .urx with wdRegistered := true, wdArmed := true })))).map fun t =>
      (t.out, (t.eng 0).wdRegistered, (t.eng 0).wdArmed, t.status)) =
    some ([.engMsg 0 .noData none], false, false, 0) := by decide +kernel
/-- 70_reset_and_hazards.md R341 point 3: reset while the client runs. -/
theorem test_callback_abandoned : ((after (exec (.evWatchdog 0) (tape [{ reset := true }] (withEng
    { running .urx with wdArmed := true })))).map fun t =>
      (t.inCallback, t.halted, (t.eng 0).setupDone)) = some (0, false, false) := by decide +kernel
/-- V-ENG-11: a command that is not nestable faults inside the callback. -/
theorem test_reentrant : ((after (exec (.evWatchdog 0)
    (tape [{ acts := [.write .cmd 0x03030000] }] (withEng
      { running .urx with wdArmed := true })))).map fun t => (t.faults, t.inCallback)) =
    some (0x20, 1) := by decide +kernel
/-- V-ENG-5, variant. -/
theorem test_ev_poll_timeout : ((after (exec (.evPollTimeout 0) (withEng
    { eng .urx with finalizeOwed := 1, stopHold := true }))).map (·.faults)) = some 0x10 := by
  decide +kernel
def packetA : List Byte := [0, 2, 0, 0, 0x80, 0, 0xFF, 0xFF, 0x1F, 7, 0xA2, 0xA3, 0xA4, 0xA5, 0xA6, 0xA7]
/-- V-DVR-2 step 2. -/
theorem test_dvr_cycle : ((after (exec (.dvrCycle 0)
    (args 0x00107FA0 0x100 0x11110000 0 (base.writeBytes 0x100 packetA)))).map fun t =>
      ((t.dvr 0).freeQueue, (t.dvr 0).currentFrame, ((t.dvr 0).frame 0).currentOffset,
        ((t.dvr 0).frame 0).frameSYTTime)) = some ([1], some 0, 8, 0xFFFF) := by decide +kernel
/-- V-DVR-6: the pop of a start cycle whose blocks are invalid is undone at the queue's tail. -/
theorem test_dvr_cycle_dbs0 : ((after (exec (.dvrCycle 0) (args 0x00107FA0 0x100 0 0
    (base.writeBytes 0x100 (packetA.set 1 0))))).map fun t =>
      (t.status, (t.dvr 0).freeQueue, (t.dvr 0).currentFrame)) = some (0, [1, 0], none) := by
  decide +kernel
def held (n : Nat) (b : Bool) : State := args 1 0 0 0 (base.modDvr 0 (fun d =>
  { d.modFrame 1 (fun r => { r with state := .dispatched, refCount := n, dispatching := b }) with
    freeQueue := [0] }))
/-- V-DVR-2 steps 5 and 6. -/
theorem test_dvr_release :
    ((after (exec (.dvrRelease 0) (held 1 false))).map fun t => (t.status, (t.dvr 0).freeQueue)) =
      some (0, [0, 1]) ∧
    ((after (exec (.dvrRelease 0) (held 1 true))).map fun t => (t.dvr 0).freeQueue) = some [0] := by
  decide +kernel
/-- V-DVR-8. -/
theorem test_dvr_register : ((after (exec (.dvrRegister 0) (args 0x11 0 0 0 base))).map fun t =>
    (t.res0, (t.dvr 0).consumers)) = some (1, [0x11]) ∧
    ((after (exec (.dvrRegister 0) (args 0x11 0 0 0 (base.modDvr 0 (fun d =>
      { d with consumers := [0x11] }))))).map (·.status)) = some 6 := by decide +kernel
/-- The transmit engine of V-DVT-1: buffers from 0x1000, channel 0x3F, frames from 0x800. -/
def dvt1 : State :=
  { ((withEng { eng .dvtx with bufBase := 0x1000, channel := 0x3F, localSid := 0 }).modDvt 0
      (fun d => { d with txFrameBase := 0x800 })).writeBytes 0x800
      ((List.range 16).map (fun i => 0xA0 + BitVec.ofNat 8 i)) with
    par := { base.par with cadence := [true], sytTable := [((0, 0), 0)] }, tape := [yes] }
/-- V-DVT-1. -/
theorem test_dvt_cycle : ((after (exec (.dvtCycle 0) dvt1)).map fun t =>
    (t.readBytes 0x1000 16, sparseGet (t.eng 0).slotHdr 0, (t.dvt 0).dbc, (t.dvt 0).txClock,
      t.res0)) =
    some ([0, 2, 0, 0, 0x80, 0, 0, 0, 0xA0, 0xA1, 0xA2, 0xA3, 0xA4, 0xA5, 0xA6, 0xA7],
      some 0x00107FA0, 1, 0x1000, 16) := by decide +kernel
/-- V-DVT-6. -/
theorem test_dvt_cycle_refused :
    ((after (exec (.dvtCycle 0) { dvt1 with arg0 := 2 })).map (·.status)) = some 6 := by
  decide +kernel
def packet (b1 b2 b3 b4 : Byte) : List Byte := [0x47, b1, b2, b3, b4] ++ List.replicate 183 0x11
def sTs (b1 b2 b3 b4 : Byte) (g : Ts → Ts) : State :=
  args 0x40 0x1000 0 0 ((base.modTs 0 (fun d => g
    { d with videoPid := ⟨true, 0x100⟩, audioPid := ⟨true, 0x101⟩ })).writeBytes 0x40
      (packet b1 b2 b3 b4))
/-- The video stream has `n` bytes in buffer 0 and last saw continuity counter 4. -/
def vid (n : Nat) (d : Ts) : Ts :=
  { d.modBuf 0 (fun r => { r with state := .filling, pesBufLen := n }) with
    pesFreeV := []
    video := { d.video with foundFirst := true, streamCont := some 4, curBuf := some 0 } }
/-- V-TS-2. -/
theorem test_ts_packet : ((after (exec (.tsPacket 0) (sTs 0x41 0x00 0x10 0 id))).map fun t =>
    ((t.ts 0).video.curBuf, ((t.ts 0).buf 0).pesBufLen, ((t.ts 0).buf 0).startTSPacketTimeStamp,
      (t.ts 0).pesFreeV, (t.ts 0).pktSinceCb)) = some (some 0, 184, 0x1000, [], 1) := by
  decide +kernel
/-- V-TS-6: an adaptation field of 8 bytes. -/
theorem test_ts_packet_adaptation : ((after (exec (.tsPacket 0) (sTs 0x41 0x00 0x30 7 id))).map
    fun t => ((t.ts 0).buf 0).pesBufLen) = some 176 := by decide +kernel
/-- V-TS-11. -/
theorem test_ts_flush : ((after (exec (.tsFlush 0) (tape [yes] (base.modTs 0 (vid 368))))).map
    fun t => (t.out, (t.ts 0).video.foundFirst, ((t.ts 0).buf 0).state)) =
    some ([.pes 0 .flushedPesBuffer (some 0)], false, .delivered) := by decide +kernel
def delivered : State := args 0 0 0 0 (base.modTs 0 (fun d =>
  { d.modBuf 0 (fun r => { r with state := .delivered, pesBufLen := 3 }) with pesFreeV := [] }))
/-- V-TS-11. -/
theorem test_ts_release_pes :
    ((after (exec (.tsReleasePes 0) delivered)).map fun t => (t.status, (t.ts 0).pesFreeV)) =
      some (0, [0]) ∧
    ((after (exec (.tsReleasePes 0) { delivered with arg0 := 7 })).map (·.status)) = some 6 := by
  decide +kernel
def sUrx (len : Half) (g : Eng → Eng) : State :=
  args (len ++ 0x4FA0#16) 0x40 5 0 (((withEng (g { eng .urx with demuxAttach := true })).modTs 0
    (fun d => { d with videoPid := ⟨true, 0x100⟩ })).writeBytes 0x40
      ([2, 6, 0xC4, 0x10, 0xA0, 0, 0, 0, 0, 0, 0x12, 0x34] ++ packet 0x41 0 0x10 0))
/-- V-UNI-1, one source packet. -/
theorem test_urx_cycle : ((after (exec (.urxCycle 0) (sUrx 200 id))).map fun t =>
    (t.status, (t.eng 0).lastFmt, ((t.ts 0).buf 0).pesBufLen,
      ((t.ts 0).buf 0).startTSPacketTimeStamp)) = some (0, some 0x20, 184, 0x1234) := by
  decide +kernel
def sUtx (w : Word) : State := args 0 0 0 0 (tape
  [{ word := w, acts := [.poke 0x100 7] }] (withEng (eng .utx)))
/-- V-UNI-3. -/
theorem test_utx_cycle :
    ((after (exec (.utxCycle 0) (sUtx 0x00084FA0))).map fun t =>
      (t.status, t.res0, sparseGet (t.eng 0).slotHdr 0, t.readByte 0x100)) =
      some (0, 8, some 0x00084FA0, 7) ∧
    ((after (exec (.utxCycle 0) (sUtx 0x00114FA0))).map (·.faults)) = some 8 := by decide +kernel
/-- V-CTL-1 and X-8. -/
theorem test_csr_read :
    ((after (exec (.csrRead 3 0 0x0B) base)).map (·.res0)) = some 3 ∧
    ((after (exec (.csrRead 4 0 3) base)).map (·.res0)) = some 2 ∧
    ((after (exec (.csrRead 3 0 0x10) base)).map fun t => (t.res0, t.status)) = some (0, 6) := by
  decide +kernel
/-- V-CTL-1. -/
theorem test_csr_write :
    ((after (exec (.csrWrite 3 0 1) (args 0x00010002 0 0 0 base))).map fun t =>
      (t.status, (t.eng 0).segments)) = some (0, 2) ∧
    ((after (exec (.csrWrite 3 0 1) (args 1 0 0 0 base))).map (·.status)) = some 6 ∧
    ((after (exec (.csrWrite 5 0 1) (args 3 0 0 0 base))).map (·.status)) = some 6 := by
  decide +kernel
/-- 47_control.md R302: the condition of an RWS field is `setupDone`, also after a failed ENG_SETUP. -/
theorem test_csr_write_after_setup :
    ((after (exec (.csrWrite 3 0 1) (args 4 0 0 0 (withEng { Eng.reset with fatal := true })))).map
      fun t => (t.status, (t.eng 0).segments)) = some (0, 4) ∧
    ((after (exec (.csrWrite 3 0 1) (args 4 0 0 0 (withEng { Eng.reset with setupDone := true })))).map
      fun t => (t.status, (t.eng 0).segments)) = some (6, 0) := by
  decide +kernel
/-- 93_implementation_defined.md I8: the memory port outside BUF; the first outcome stays. -/
theorem test_port : ((after (hostStep (.poke 0xFFFF 5) base)).map (·.readByte 0xFFFF)) = some 5 ∧
    ((after (hostStep (.peek 0x10000) { base with halted := true, faults := 2 })).map fun t =>
      (t.faults, t.faultInfo)) = some (0x42, none) ∧
    ((after (hostStep (.poke 0x10000 5) base)).map (·.faultInfo)) =
      some (some (.badAddress 0x10000 1)) := by decide +kernel
/-- 47_control.md R303: a changed DVMODE leaves the length of the frame in progress; and R351. -/
theorem test_frame_length :
    ((after (exec (.csrWrite 4 0 0) (args 1 0 0 0 (base.modDvr 0 (fun d => d.beginFrame 0 [1] 16 0 0))))).map
      fun t => ((t.dvr 0).dvMode, ((t.dvr 0).frame 0).frameLen)) = some (1, 16) ∧
    ((base.modDvr 0 (fun d => d.modFrame 0 (fun r =>
      { r with state := .dispatched, frameLen := 2, data := [(0, 7), (1, 8)] }))).frameData 0 0 true) =
      [7, 8] := by decide +kernel
/-- V-DEC-1: the first instruction after reset, through the schedule. -/
theorem test_step_from_reset :
    ((after (step (State.reset.withFetchWord 32 0x0F01300B))).map (·.res0)) = some 3 ∧
    ((after (step (State.reset.withFetchWord 32 0x03020001))).map (·.status)) = some 6 ∧
    ((after (step (State.reset.withFetchWord 32 0x01010001))).map (·.status)) = some 7 := by
  decide +kernel

/-! ### For every statement with hypotheses, states and operands that meet them

Where a statement has several clauses, one theorem for each clause. -/

theorem runs {o : Host.Outcome State Fault Refusal} (p : State → Bool)
    (h : (after o).any p = true) : ∃ t, o = .next t ∧ p t = true := by
  cases o with
  | next t => exact ⟨t, rfl, h⟩
  | fault r => cases h
  | refused r => cases h

theorem runs_quiet {i : Instr} {s : State}
    (h : ((after (exec i s)).any fun t =>
      decide (t.drawn ≤ s.drawn + s.tape.length) && s.tape.all (fun d => decide d.quiet)) = true) :
    ∃ t, exec i s = .next t ∧ s.quietTo t := by
  obtain ⟨t, h1, h2⟩ := runs _ h
  simp only [Bool.and_eq_true, decide_eq_true_eq, List.all_eq_true] at h2
  exact ⟨t, h1, h2.2, h2.1⟩

theorem witness_DecodeOfEncode : (Instr.csrWrite 15 15 255).wellFormed = true ∧
    (Instr.evSegment 255 65535).wellFormed = true := by decide
theorem witness_WordHasOneMeaning : decode 0x031000FF 0xFFFF = .ok (.evSegment 255 65535) ∧
    (Instr.evSegment 255 65535).wellFormed = true ∧
    encodeWord (.evSegment 255 65535) = 0x031000FF := by decide
theorem no_command_of_event (i : Instr) (h : i.isEvent = false) : encodeWord i ≠ 0x03100000 := by
  intro h1
  have h2 := congrArg unitField h1
  have h3 := congrArg opField h1
  rw [(fields_of_encode i).1] at h2
  rw [(fields_of_encode i).2.1] at h3
  cases i <;> first
    | (cases h; done)
    | (simp only [Instr.opcode] at h2 h3
       first | exact absurd h2 (by decide) | exact absurd h3 (by decide))
theorem witness_IllegalCommandWords :
    (next (.host (.write .cmd 0x03100000)) base).nextAction =
      (.host (.write .cmd 0x03100000), base) ∧ base.halted = false ∧ base.holding = false ∧
    (∀ i : Instr, i.wellFormed = true → i.isEvent = false → encodeWord i ≠ 0x03100000) :=
  ⟨rfl, rfl, rfl, fun i _ h => no_command_of_event i h⟩
theorem witness_IllegalCommandWords_instance : namedInstance (.engStart 2) = some 2 ∧
    (Instr.engStart 2).isEvent = false ∧ base.inst.length ≤ 2 ∧ base.halted = false := by decide
def inClient : State := { base with inCallback := 1 }
theorem witness_DecodeOrder_halted :
    (next (.host (.write .cmd 0x01010000)) { base with halted := true }).nextAction =
      (.host (.write .cmd 0x01010000), { base with halted := true }) ∧
    ({ base with halted := true }).holding = false := ⟨rfl, rfl⟩
theorem witness_DecodeOrder_illegal :
    (next (.host (.write .cmd 0x01010001)) base).nextAction =
      (.host (.write .cmd 0x01010001), base) ∧ base.holding = false ∧ base.halted = false ∧
    decodeCommand 0x01010001 = .error (.reservedImm 1) := ⟨rfl, rfl, rfl, by decide⟩
theorem witness_DecodeOrder_instance :
    (next (.host (.write .cmd 0x06010002)) inClient).nextAction =
      (.host (.write .cmd 0x06010002), inClient) ∧ inClient.holding = false ∧
    inClient.halted = false ∧ decodeCommand 0x06010002 = .ok (.tsPacket 2) ∧
    inClient.hasInstance (.tsPacket 2) = false := ⟨rfl, rfl, rfl, by decide, by decide⟩
theorem witness_DecodeOrder_reentrant : decodeCommand 0x06010001 = .ok (.tsPacket 1) ∧
    inClient.hasInstance (.tsPacket 1) = true ∧ 0 < inClient.inCallback ∧
    nestable (.tsPacket 1) = false := by decide
theorem witness_NestedCommands : (Instr.dvrRelease 1).isEvent = false ∧
    (Instr.tsPacket 1).isEvent = false ∧ inClient.halted = false ∧ 0 < inClient.inCallback ∧
    inClient.hasInstance (.dvrRelease 1) = true ∧ inClient.hasInstance (.tsPacket 1) = true := by
  decide
/-- The client gives frame 1 back, and then accesses BUF. -/
def giving (a : HostAct) (r : Bool) : State := tape
  [{ acts := [.write .arg0 1, .write .cmd 0x04020001, a], reset := r }, yes] base
theorem witness_NestedCommands_callback :
    (giving (.peek 0xFFFF) false).tape =
      { acts := [.write .arg0 1, .write .cmd 0x04020001, .peek 0xFFFF], reset := false } :: [yes] ∧
    (giving (.peek 0xFFFF) false).halted = false ∧
    ((giving (.peek 0xFFFF) false).called (.framePull 0)
      { acts := [.write .arg0 1, .write .cmd 0x04020001, .peek 0xFFFF] } [yes]).halted = false ∧
    ((giving (.peek 0x10000) false).called (.framePull 0)
      { acts := [.write .arg0 1, .write .cmd 0x04020001, .peek 0x10000] } [yes]).halted = true := by
  decide +kernel
theorem witness_TakingAFault :
    (∃ t, step (next (.host (.write .arg0 1)) { base with halted := true }) = .next t) ∧
    (next (.host (.write .arg0 1)) { base with halted := true }).nextAction.1 ≠ .reset ∧
    (∃ t, step (next .reset { base with halted := true }) = .next t) ∧
    (next .reset { base with halted := true }).nextAction.1 = .reset ∧
    (next (.host (.poke 0x10000 1)) base).nextAction = (.host (.poke 0x10000 1), base) ∧
    (next (.host (.peek 0xFFFF)) base).nextAction = (.host (.peek 0xFFFF), base) :=
  ⟨⟨_, rfl⟩, by decide, ⟨_, rfl⟩, rfl, rfl, rfl⟩
def queued : State := base.modEng 1 (fun g => { g with events := [.segment 3, .overrun] })
theorem witness_StepRunsTheInstruction :
    (next (.host (.write .cmd 0x02030000)) base).nextAction =
      (.host (.write .cmd 0x02030000), base) ∧ base.halted = false ∧ base.holding = false ∧
    decodeCommand 0x02030000 = .ok .ctIndex ∧
    (next (.consume 1) queued).nextAction = (.consume 1, queued) ∧ queued.halted = false ∧
    (queued.eng 1).events = .segment 3 :: [.overrun] := by
  exact ⟨rfl, rfl, rfl, by decide, rfl, rfl, rfl⟩
theorem witness_StepRunsTheInstruction_fetch :
    decodeTableWord 32 0x03100001 = some (.evSegment 1 0) ∧
    base.hasInstance (.evSegment 1 0) = true ∧ decodeTableWord 32 0x06010001 =
      some (.tsPacket 1) := by decide
theorem witness_StepRunsTheInstruction_registers :
    (next (.host (.write .arg3 7)) base).nextAction = (.host (.write .arg3 7), base) ∧
    (next (.host (.write .status 7)) base).nextAction = (.host (.write .status 7), base) ∧
    HostReg.status ∈ [HostReg.res0, .res1, .res2, .res3, .status, .faults] ∧
    (next (.host (.read .faults)) base).nextAction = (.host (.read .faults), base) :=
  ⟨rfl, rfl, by decide, rfl⟩
theorem witness_BufAccess : 0xFFFC + [1, 2, 3, (4 : Byte)].length ≤ base.par.bufBytes ∧
    base.par.bufBytes < 0xFFFD + [1, 2, 3, (4 : Byte)].length := by decide
theorem witness_StepKeepsRegisterLaw : (next (.host (.poke 0xFFFF 5)) base).registerLaw ∧
    ∃ t, step (next (.host (.poke 0xFFFF 5)) base) = .next t :=
  ⟨⟨by decide, by decide, fun x hx => by rw [List.eq_of_mem_replicate hx]; decide, by decide, by decide,
    by decide⟩, _, rfl⟩
theorem witness_not_halted : base.halted = false := rfl
def built : State := args 0x00FFC000 0x80000000 0xFFFF 0x100 base
theorem witness_BuildThenParse : built.halted = false ∧
    (∃ t, exec .buildCip built = .next t ∧
      (decide (t.halted = false) && decide (t.status = 0x00)) = true) ∧
    built.arg0.extractLsb' 16 8 ≠ 0 ∧ 4 ≤ built.par.maxSourcePackets ∧ 8 + 4 * 8160 < 2 ^ 32 ∧
    built.arg3.toNat + (8 + 4 * 8160) ≤ built.par.bufBytes ∧
    (0xFFF0 : Word).toNat + 4 * 4 ≤ built.par.bufBytes :=
  ⟨rfl, runs _ (by decide +kernel), by decide, by decide, by decide, by decide, by decide⟩
theorem witness_CycleTimeAddition : (args 0xFFF3FBFF 0x01F3F800 0 0 base).halted = false ∧
    ctLegal 0xFFF3FBFF ∧ ctLegal 0x01F3F800 ∧ ctLegal 0 := by decide
theorem witness_CycleTimeRange_first :
    ¬ ((0x00000C00 : Word).toNat % 2 ^ 12 < 3072 ∧ (0x00000C00 : Word).toNat / 2 ^ 12 % 2 ^ 13 < 8000) ∧
    ¬ ((0x01F40000 : Word).toNat % 2 ^ 12 < 3072 ∧
      (0x01F40000 : Word).toNat / 2 ^ 12 % 2 ^ 13 < 8000) := by decide
theorem witness_CycleTimeRange_second : ctLegal 0x01F3FBFF ∧ Instr.ctDelta ≠ .ctIndex := by decide
theorem witness_CycleTimeIndexAndDelta : (args 0xFFF3FBFF 0x0FF3E000 0 0 base).halted = false ∧
    ctLegal 0xFFF3FBFF ∧ ctLegal 0x0FF3E000 := by decide

/-! Unit CTL. -/

theorem witness_CsrReadValues : base.halted = false ∧ 1 < base.inst.length ∧
    ¬ (3 = 3 ∧ 0x10 ≤ 0x0F ∨ 3 = 4 ∧ 0x10 ≤ 0x08 ∨ 3 = 5 ∧ 0x10 ≤ 0x0B ∨ 3 = 6 ∧ 0x10 ≤ 0x0B) := by
  decide
theorem witness_CsrWriteStores : (args 2 0 0 0 base).idle ∧ 1 < base.inst.length ∧
    (base.eng 1).running = false ∧ (base.eng 1).setupDone = false ∧ 2 ≤ (2 : Word).toNat % 2 ^ 16 ∧
    (base.par.dvRow ((1 : Word).setWidth 8)).isSome = true ∧ (2 : Word).toNat % 8 ∈ [1, 2, 4] ∧
    (1 : Word).toNat % 2 ^ 16 < (base.dvr 1).frames.length ∧
    (1 : Word).toNat % 2 ^ 16 < (base.dvt 1).frames.length ∧ (1 : Word) ≠ 0 := by decide
def pidState : State := args 0x8100 0 0 0 (base.modTs 0 (fun d =>
  { vid 20 d with videoPid := ⟨true, 0x100⟩, audioPid := ⟨true, 0x101⟩ }))
theorem witness_PidWriteResetsStream : pidState.idle ∧ 0 < pidState.inst.length ∧
    (pidState.ts 0).videoPid = ⟨pidState.arg0.getLsbD 15, pidState.arg0.setWidth 13⟩ ∧
    (pidState.ts 0).audioPid ≠ ⟨pidState.arg0.getLsbD 15, pidState.arg0.setWidth 13⟩ ∧
    pidState.arg0.getLsbD 1 = (pidState.ts 0).mode.getLsbD 1 := by decide
theorem witness_PidWriteResetsStream_changed : ({ pidState with arg0 := 0x0102 }).idle ∧
    (pidState.ts 0).videoPid ≠ ⟨(0x0102 : Word).getLsbD 15, (0x0102 : Word).setWidth 13⟩ ∧
    (0x0102 : Word).getLsbD 1 ≠ (pidState.ts 0).mode.getLsbD 1 := by decide
theorem witness_CsrWriteRefused : (withEng (running .dvrx)).idle ∧
    0 < (withEng (running .dvrx)).inst.length ∧ ((withEng (running .dvrx)).eng 0).setupDone = true ∧
    ((withEng (running .dvrx)).eng 0).running = true ∧ (1 : Word).toNat % 2 ^ 16 < 2 ∧
    (0x00010000 : Word).toNat % 2 ^ 16 = 0 ∧ base.par.dvRow ((2 : Word).setWidth 8) = none ∧
    (base.dvr 0).frames.length ≤ (2 : Word).toNat % 2 ^ 16 ∧ (3 : Word).toNat % 8 ∉ [1, 2, 4] ∧
    (base.dvt 0).frames.length ≤ (2 : Word).toNat % 2 ^ 16 := by decide
theorem witness_CsrReadsBackWrite : (args 0xFFFF 0 0 0 base).idle ∧ 1 < base.inst.length ∧
    ∃ t, exec (.csrWrite 3 1 1) (args 0xFFFF 0 0 0 base) = .next t ∧
      decide (t.status = 0x00) = true := ⟨by decide, by decide, runs _ (by decide +kernel)⟩

/-! Unit ENG. -/

theorem witness_SetupResult : setup1.idle ∧ 0 < setup1.inst.length ∧
    setup1.tape = ans 0x1000 :: yes :: [] ∧
    0x1000 + (4 * 8 + 1) * nextPow2 488 ≤ setup1.par.bufBytes ∧ setup1.regions = [] ∧
    (∀ x ∈ setup1.inst, x.eng.kind ≠ .dvtx) := by decide
def startUrx (d : Draw) : State := tape [ans 7, d, yes] (withEng (eng .urx))
theorem witness_StartReceiveResult_refused : (startUrx no).idle ∧ 0 < (startUrx no).inst.length ∧
    (startUrx no).tape = ans 7 :: no :: [yes] ∧ ((startUrx no).eng 0).setupDone = true ∧
    ((startUrx no).eng 0).fatal = false ∧ ((startUrx no).eng 0).running = false ∧
    ((startUrx no).eng 0).kind = .urx ∧ no.status ≠ 0 := by decide
def startDvr : State := tape [ans 7, ans 0xFFF3FBFF, yes] (withEng (eng .dvrx))
theorem witness_StartReceiveResult : startDvr.idle ∧ 0 < startDvr.inst.length ∧
    startDvr.tape = ans 7 :: ans 0xFFF3FBFF :: [yes] ∧ (startDvr.eng 0).setupDone = true ∧
    (startDvr.eng 0).fatal = false ∧ (startDvr.eng 0).running = false ∧
    (startDvr.eng 0).kind = .dvrx ∧ (startDvr.par.dvRow (startDvr.dvr 0).dvMode).isSome = true ∧
    (ans 0xFFF3FBFF).status = 0 ∧ ctLegal (ans 0xFFF3FBFF).word := by decide
theorem witness_StartReceiveResult_range : (startUrx (ans 0xC00)).idle ∧
    (startUrx (ans 0xC00)).tape = ans 7 :: ans 0xC00 :: [yes] ∧
    ((startUrx (ans 0xC00)).eng 0).setupDone = true ∧ ((startUrx (ans 0xC00)).eng 0).running = false ∧
    ((startUrx (ans 0xC00)).eng 0).kind = .urx ∧ (ans 0xC00).status = 0 ∧ ¬ ctLegal (ans 0xC00).word := by
  decide
theorem witness_StartRefused_unset : base.idle ∧ 1 < base.inst.length ∧
    (base.eng 1).setupDone = false := by decide
theorem witness_StartRefused_running : (withEng (running .urx)).idle ∧
    ((withEng (running .urx)).eng 0).setupDone = true ∧
    ((withEng (running .urx)).eng 0).fatal = false ∧
    ((withEng (running .urx)).eng 0).running = true := by decide
def row0 : DvFormat := ⟨16, 0x00, 2, 0, 0⟩
def narrow : State := withEng { eng .dvtx with cycleBufSize := 15 }
theorem witness_StartRefused_format : narrow.idle ∧ (narrow.eng 0).setupDone = true ∧
    (narrow.eng 0).fatal = false ∧ (narrow.eng 0).running = false ∧ (narrow.eng 0).kind = .dvtx ∧
    narrow.par.dvRow (narrow.dvt 0).dvMode = some row0 ∧
    ¬ (8 + (narrow.dvt 0).blocksPerCycle.toNat * (row0.dbs.toNat * 4) ≤
      (narrow.eng 0).cycleBufSize.toNat) := by decide
theorem witness_StartOutcome : startDvr.idle ∧ 0 < startDvr.inst.length ∧
    (startDvr.eng 0).setupDone = true ∧ (startDvr.eng 0).fatal = false ∧
    (startDvr.eng 0).running = false ∧ startChecks startDvr.par (startDvr.instAt 0) = true ∧
    ∃ t, exec (.engStart 0) startDvr = .next t ∧
      decide (t.halted = false ∧ t.epoch = startDvr.epoch) = true :=
  ⟨by decide, by decide, by decide, by decide, by decide, by decide, runs _ (by decide +kernel)⟩
/-- A DVTX engine about to start: two cycles of one block each, which one frame of 16 bytes fills. -/
def startTx (ds : List Draw) : State :=
  { ((withEng (eng .dvtx)).modDvt 0 (fun d => { d with txFrameBase := 0x800 })).writeBytes 0x800
      ((List.range 32).map (BitVec.ofNat 8)) with
    par := { base.par with
      cadence := [true, true], sytTable := [((0x3000, 0), 0x1234), ((0x4000, 0), 7)] }
    tape := ds }
/-- The clock loaded by the prefill, and the ring armed. -/
def begunTx (ds : List Draw) (w : Word) : State :=
  { ((startTx ds).modEng 0 (fun g =>
      { g with
        jump := (List.range 2).map (fun j => if j + 1 = 2 then .overrun else .start (j + 1))
        curSeg := 0, firstCallback := true, stealCount := 0
        localSid := (ans 5).word.setWidth 6 })).modDvt 0 (fun x => { x with txClock := w }) with
    out := [.localNodeId 0, .cycleTime 0], tape := ds.tail.tail, drawn := 2 }
def txTape (d : Draw) : List Draw := [ans 5, ans 0x3000, yes, d, yes, no]
theorem witness_StartOutcome_dvtx : (startTx (txTape no)).idle ∧
    0 < (startTx (txTape no)).inst.length ∧ ((startTx (txTape no)).eng 0).setupDone = true ∧
    ((startTx (txTape no)).eng 0).fatal = false ∧ ((startTx (txTape no)).eng 0).running = false ∧
    startChecks (startTx (txTape no)).par ((startTx (txTape no)).instAt 0) = true ∧
    ((startTx (txTape no)).eng 0).kind = .dvtx ∧
    (startTx (txTape no)).par.dvRow ((startTx (txTape no)).dvt 0).dvMode = some ⟨16, 0x00, 2, 0, 0⟩ ∧
    (startTx (txTape no)).tape = ans 5 :: ans 0x3000 :: [yes, no, yes, no] ∧
    0x100 + 2 * 16 + 8 ≤ (startTx (txTape no)).par.bufBytes ∧
    (begunTx (txTape no) 0x3000).tape = [yes, no, yes, no] ∧
    ((begunTx (txTape no) 0x3000).refilled 0).halted = false ∧
    ((begunTx (txTape no) 0x3000).refilled 0).tape = no :: [yes, no] ∧ no.status ≠ 0 ∧
    ((((begunTx (txTape no) 0x3000).refilled 0).dvt 0).drained 3).2 = [0] ∧ yes.quiet ∧
    ((begunTx (txTape yes) 0x3000).refilled 0).tape = yes :: [yes, no] ∧ ctLegal yes.word ∧
    ((begunTx [ans 5, ans 0xC00, no] 0xC00).refilled 0).halted = true ∧
    ((begunTx [ans 5, ans 0xC00, no] 0xC00).refilled 0).drawn ≤ 3 := by decide +kernel
theorem witness_StartOutcome_range :
    ((begunTx (txTape (ans 0xC00)) 0x3000).refilled 0).halted = false ∧
    ((begunTx (txTape (ans 0xC00)) 0x3000).refilled 0).tape = ans 0xC00 :: [yes, no] := by
  decide +kernel
theorem witness_portOnly : ∀ d ∈ (startTx (txTape no)).tape, d.portOnly := by
  intro d hd
  have h : d.acts = [] ∧ d.reset = false := by revert d; decide
  exact ⟨by rw [h.1]; simp, h.2⟩
def filled2 : Draw := { word := 0x00084FA0, acts := [.poke 0x104 9, .peek 0x10F] }
def startUtx (d : Draw) : State := tape [ans 5, filled2, ans 0x00104FA0, d] (withEng (eng .utx))
theorem witness_StartOutcome_utx : (startUtx yes).idle ∧ ((startUtx yes).eng 0).kind = .utx ∧
    startChecks (startUtx yes).par ((startUtx yes).instAt 0) = true ∧
    (startUtx yes).tape = ans 5 :: [filled2, ans 0x00104FA0, yes] ∧
    (({ startUtx yes with tape := [filled2, ans 0x00104FA0, yes] } : State).refilled 0).tape =
      yes :: [] ∧ yes.status = 0 ∧ ctLegal yes.word := by decide +kernel
theorem witness_portOnly_utx : ∀ d ∈ (startUtx yes).tape, d.portOnly := by
  intro d hd
  simp only [startUtx, tape, List.mem_cons, List.not_mem_nil, or_false] at hd
  rcases hd with rfl | rfl | rfl | rfl <;> refine ⟨fun a ha => ?_, rfl⟩ <;>
    simp [ans, yes, filled2] at ha
  rcases ha with rfl | rfl
  · exact ⟨0x104, .inr ⟨9, rfl⟩⟩
  · exact ⟨0x10F, .inl rfl⟩
theorem witness_StopResult : (withEng (running .urx)).idle ∧
    0 < (withEng (running .urx)).inst.length ∧ ((withEng (running .urx)).eng 0).running = true ∧
    base.idle ∧ (base.eng 0).running = false := by decide
theorem witness_SetWatchdogResult : (args 1 0 0 0 base).halted = false ∧ 1 < base.inst.length := by
  decide
theorem witness_EventsDroppedOrOutOfOrder : base.halted = false ∧ 1 < base.inst.length ∧
    (base.eng 1).running = false ∧ ring4.halted = false ∧ (ring4.eng 0).running = true ∧
    3 ≠ (ring4.eng 0).curSeg.toNat := by decide
def emptySegment : State := withEng
  { running .urx with
    slotHdr := [(1, 0x00084000)], tsSlot := [(1, 6)], curSeg := 1, jump := [.overrun, .start 0] }
theorem witness_EmptySegmentResult : emptySegment.halted = false ∧
    0 < emptySegment.inst.length ∧ (emptySegment.eng 0).running = true ∧
    (emptySegment.eng 0).kind = .urx ∧ (emptySegment.eng 0).urxCallback = false ∧
    (∃ ts, sparseGet (emptySegment.eng 0).tsSlot 1 = some ts) ∧
    (∀ j, j < 1 → ∃ h, sparseGet (emptySegment.eng 0).slotHdr (1 * 1 + j) = some h ∧
      dataLength h ≤ 16 ∧ (h.extractLsb' 14 2 ≠ 0b01#2 ∨ dataLength h ≤ 8)) := by
  refine ⟨rfl, by decide, rfl, rfl, rfl, ⟨6, rfl⟩, fun j hj => ?_⟩
  obtain rfl : j = 0 := by omega
  exact ⟨0x00084000, rfl, by decide, by decide⟩
theorem witness_SegmentAdvancesRing : ring4.halted = false ∧ (ring4.eng 0).running = true ∧
    ∃ t, exec (.evSegment 0 (ring4.eng 0).curSeg.toNat) ring4 = .next t ∧
      decide (t.halted = false ∧ t.epoch = ring4.epoch) = true := ⟨rfl, rfl, runs _ (by decide +kernel)⟩
/-- Two DV cycles of 16 bytes, the first of which starts a frame; then the header `h`, if there is one. -/
def segRx (h : Option Word) : State := tape [yes, no] (((withEng
  { running .dvrx with
    cyclesPerSeg := 2, curSeg := 1, jump := [.overrun, .start 0], tsSlot := [(1, 6)], bufBase := 0x40
    slotHdr := (2, 0x00104000) :: (h.map (fun w => (3, w))).toList }).modDvr 0 (fun d =>
      { d with consumers := [10] })).writeBytes 0x60
    ([0, 2, 0, 0, 0x80, 0, 0x12, 0x34, 0x1F, 7, 1, 2, 3, 4, 5, 6] ++
      [0, 2, 0, 1, 0x80, 0, 0xFF, 0xFF, 0, 0xAA, 1, 2, 3, 4, 5, 7]))
theorem portOnly_of_quiet {ds : List Draw} (h : ∀ d ∈ ds, d.quiet) : ∀ d ∈ ds, d.portOnly :=
  fun d hd => ⟨by rw [(h d hd).1]; simp, (h d hd).2⟩
theorem witness_SegmentAdvancesRing_receive : (segRx (some 0x00104000)).idle ∧
    (∀ d ∈ (segRx (some 0x00104000)).tape, d.quiet) ∧
    ((segRx (some 0x00104000)).eng 0).running = true ∧ ((segRx none).eng 0).kind = .dvrx ∧
    sparseGet ((segRx none).eng 0).tsSlot 1 = some 6 ∧
    (∀ j, j < 2 → sparseGet ((segRx (some 0x00104000)).eng 0).slotHdr (1 * 2 + j) = some 0x00104000) ∧
    dataLength 0x00104000 ≤ 16 ∧ 0x40 + 3 * 16 < 2 ^ 32 ∧
    ((segRx (some 0x00104000)).consumed 0 (1 * 2) 2 (fun _ => 0x00104000) 6).drawn = 1 ∧
    ((segRx none).consumed 0 (1 * 2) 1 (fun _ => 0x00104000) 6).halted = false ∧
    sparseGet ((segRx none).eng 0).slotHdr 3 = none ∧
    sparseGet ((segRx (some 0x00114000)).eng 0).slotHdr 3 = some 0x00114000 ∧
    16 < dataLength 0x00114000 := by decide +kernel
/-- A transmit engine at the end of segment 1, whose time stamp is `w`. -/
def segTx (w : Word) : State :=
  (startTx [ans 0, no, yes]).modEng 0 (fun _ =>
    { running .dvtx with
      curSeg := 1, jump := [.overrun, .start 0], tsSlot := [(1, w)], expectedTs := 0x18000 }) |>.modDvt 0
    (fun d => { d with txClock := 0x3000 })
/-- The ring has moved on past segment 1. -/
def moved (t : State) : State := t.modEng 0 (fun g =>
  { g with
    jump := (g.jump.set 1 .overrun).set ((1 + 2 - 1) % 2) (.start 1)
    curSeg := BitVec.ofNat 16 ((1 + 1) % 2) })
theorem witness_SegmentAdvancesRing_transmit : (segTx 0x1B000).idle ∧
    (∀ d ∈ (segTx 0x1B000).tape, d.quiet) ∧ ((segTx 0x1B000).eng 0).running = true ∧
    ((segTx 0x1B000).eng 0).kind = .dvtx ∧
    ((segTx 0x1B000).produced 0 (1 * 1) 1).drawn = 1 ∧
    ((segTx 0x1B000).produced 0 (1 * 1) 1).halted = false ∧
    (∃ t, validateTimestamp 0 1 (moved ((segTx 0x1B000).produced 0 (1 * 1) 1)) = .ok () t) ∧
    (∃ t, validateTimestamp 0 1 (moved ((segTx 0xC00).produced 0 (1 * 1) 1)) = .error .fault t) := by
  refine ⟨by decide +kernel, by decide, rfl, rfl, by decide +kernel, by decide +kernel, ?_, ?_⟩
  · have h : (match validateTimestamp 0 1 (moved ((segTx 0x1B000).produced 0 (1 * 1) 1)) with
        | .ok _ _ => true
        | .error _ _ => false) = true := by decide +kernel
    split at h
    · exact ⟨_, by assumption⟩
    · cases h
  · have h : (match validateTimestamp 0 1 (moved ((segTx 0xC00).produced 0 (1 * 1) 1)) with
        | .error .fault _ => true
        | _ => false) = true := by decide +kernel
    split at h
    · exact ⟨_, by assumption⟩
    · cases h
def stamped (exp act : Word) (first : Bool) : State := tape [yes] (withEng
  { eng .dvtx with expectedTs := exp, tsSlot := [(1, act)], firstCallback := first })
/-- An illegal stamp, the ambiguous one, and 0, 3, 4 lost cycles (V-ENG-6). -/
theorem witness_TimestampValidation : 0 < (stamped 0x18000 0x18000 false).inst.length ∧
    sparseGet ((stamped 0x18000 0x19C00 false).eng 0).tsSlot 1 = some 0x19C00 ∧
    ctLegal 0x18000 ∧ ctLegal ((stamped 0x18000 0x18000 false).dvt 0).txClock ∧
    ((stamped 0x18000 0x18000 false).eng 0).kind = .dvtx ∧ ¬ ctLegal 0x19C00 := by decide
theorem witness_TimestampValidation_ambiguous : ctLegal 0x02018000 ∧
    ((stamped 0x18000 0x02018000 true).eng 0).firstCallback = true ∧
    ctCyc 0x02018000 = ctCyc 0x18000 ∧ ctSec 0x02018000 ≠ ctSec 0x18000 := by decide
theorem witness_TimestampValidation_lost :
    ((stamped 0x18000 0x1B000 false).eng 0).firstCallback = false ∧ ctLegal 0x1B000 ∧
    (ctIdx 0x18000 + 64000 - ctIdx 0x18000) % 64000 = 0 ∧
    (ctIdx 0x1B000 + 64000 - ctIdx 0x18000) % 64000 =
      ((stamped 0x18000 0x1B000 false).eng 0).recoveryThreshold.toNat ∧
    ((stamped 0x18000 0x1C000 false).eng 0).recoveryThreshold.toNat <
      (ctIdx 0x1C000 + 64000 - ctIdx 0x18000) % 64000 ∧
    (stamped 0x18000 0x1C000 false).tape = yes :: [] ∧ yes.quiet := by decide
def stalling (k : Kind) (d : Draw) : State := tape [yes, d, yes, no] (withEng
  { running k with curSeg := 1 })
theorem witness_OverrunAndForcedStopRestart : (stalling .urx (ans 0x1F3F000)).halted = false ∧
    0 < (stalling .urx yes).inst.length ∧
    (stalling .urx (ans 0x1F3F000)).tape = yes :: [ans 0x1F3F000, yes, no] ∧ yes.quiet ∧
    ((stalling .urx (ans 0x1F3F000)).eng 0).running = true ∧
    ((stalling .urx (ans 0x1F3F000)).eng 0).kind = .urx ∧ (ans 0x1F3F000).status = 0 ∧
    ctLegal (ans 0x1F3F000).word ∧ no.status ≠ 0 := by decide
theorem witness_OverrunAndForcedStopRestart_range :
    (stalling .urx (ans 0xC00)).tape = yes :: [ans 0xC00, yes, no] ∧
    ((stalling .urx (ans 0xC00)).eng 0).running = true ∧
    ((stalling .urx (ans 0xC00)).eng 0).kind = .urx ∧ (ans 0xC00).status = 0 := by decide
/-- A frame of two consumers is in progress. -/
def stallingDvr : State :=
  (tape [yes, yes, no, ans 0x1F3F000, yes] (withEng { running .dvrx with curSeg := 1 })).modDvr 0
    (fun d => { d.beginFrame 1 [0] 16 7 8 with consumers := [10, 11] })
theorem witness_OverrunAndForcedStopRestart_dvrx : stallingDvr.halted = false ∧
    0 < stallingDvr.inst.length ∧ stallingDvr.tape = yes :: [yes, no, ans 0x1F3F000, yes] ∧
    (stallingDvr.eng 0).running = true ∧ (stallingDvr.eng 0).kind = .dvrx ∧
    [yes, no].length = ((stallingDvr.dvr 0).abandonNotices 0).length ∧ no.quiet := by decide
/-- Slot 0 still refers to frame 1, which is complete, and slot 1 to both. -/
def stallingDvt (ds : List Draw) : State :=
  (({ startTx ds with inst := (startTx ds).inst }).modEng 0 (fun _ =>
    { running .dvtx with curSeg := 1 })).modDvt 0 (fun d =>
      { (d.modFrame 0 (fun r => { r with inUse := true, curOffset := 8, dclProgramRefCount := 1 })).modFrame
          1 (fun r => { r with inUse := true, curOffset := 16, dclProgramRefCount := 2 }) with
        curFrame := some 0, slotRefs := [(0, [1]), (1, [0, 1])] })
theorem witness_OverrunAndForcedStopRestart_dvtx :
    (stallingDvt [yes, yes, ans 0x3000, ans 1, yes, no]).idle ∧
    ((stallingDvt []).eng 0).kind = .dvtx ∧ ((stallingDvt []).eng 0).running = true ∧
    (stallingDvt []).par.dvRow ((stallingDvt []).dvt 0).dvMode = some ⟨16, 0x00, 2, 0, 0⟩ ∧
    (((stallingDvt []).dvt 0).drained 3).2 = [1] ∧
    0x100 + 2 * 16 + 8 ≤ (stallingDvt []).par.bufBytes := by decide +kernel
/-- The ring armed again after a forced stop. -/
def rearmed (s : State) (rest : List Draw) : State :=
  { s.modEng 0 (fun g =>
      { g with
        jump := (List.range 2).map (fun j => if j + 1 = 2 then .overrun else .start (j + 1))
        curSeg := 0, firstCallback := true, stealCount := 0 }) with
    out := [.engMsg 0 .forcedStop none], tape := rest, drawn := 1 }
/-- The slots drained as well, and the clock `w` loaded. -/
def begunDvt (w : Word) (rest : List Draw) : State :=
  (((rearmed (stallingDvt []) []).told [.frameRelease 0 1] []).told [.cycleTime 0] rest).modDvt 0
    (fun d => { (d.drained 3).1 with txClock := w })
theorem witness_OverrunAndForcedStopRestart_refill :
    ((begunDvt 0x3000 [ans 1, yes, no]).refilled 0).halted = false ∧
    ((begunDvt 0x3000 [ans 1, yes, no]).refilled 0).tape = yes :: [no] ∧
    ((begunDvt 0xC00 [ans 1, yes, no]).refilled 0).halted = true ∧
    ((begunDvt 0xC00 [ans 1, yes, no]).refilled 0).drawn ≤ 6 := by decide +kernel
def stallingUtx : State := tape [yes, filled2, ans 0x00104FA0, yes, no]
  (withEng { running .utx with curSeg := 1 })
theorem witness_OverrunAndForcedStopRestart_utx : stallingUtx.idle ∧
    (stallingUtx.eng 0).kind = .utx ∧ (stallingUtx.eng 0).running = true ∧
    ((rearmed stallingUtx [filled2, ans 0x00104FA0, yes, no]).refilled 0).halted = false ∧
    ((rearmed stallingUtx [filled2, ans 0x00104FA0, yes, no]).refilled 0).tape = yes :: [no] := by
  decide +kernel
theorem witness_portOnly_restart : (∀ d ∈ stallingUtx.tape, d.portOnly) ∧
    ∀ d ∈ (stallingDvt [yes, yes, ans 0x3000, ans 1, yes, no]).tape, d.portOnly := by
  constructor
  · intro d hd
    simp only [stallingUtx, tape, List.mem_cons, List.not_mem_nil, or_false] at hd
    rcases hd with rfl | rfl | rfl | rfl | rfl <;> refine ⟨fun a ha => ?_, rfl⟩ <;>
      simp [ans, yes, no, filled2] at ha
    rcases ha with rfl | rfl
    · exact ⟨0x104, .inr ⟨9, rfl⟩⟩
    · exact ⟨0x10F, .inl rfl⟩
  · intro d hd
    have h : d.acts = [] ∧ d.reset = false := by revert d; decide
    exact ⟨by rw [h.1]; simp, h.2⟩
def owed (n : Nat) (b : Bool) (k : Kind) : State := withEng
  { eng k with finalizeOwed := n, stopHold := b }
theorem witness_FinalizeResult : base.halted = false ∧ 0 < base.inst.length ∧
    (base.eng 0).finalizeOwed = 0 ∧ ((owed 2 true .dvrx).eng 0).finalizeOwed = 2 ∧
    ((owed 1 false .dvrx).eng 0).stopHold = false := by decide
theorem witness_FinalizeResult_completes : (owed 1 true .utx).halted = false ∧
    ((owed 1 true .utx).eng 0).finalizeOwed = 1 ∧ ((owed 1 true .utx).eng 0).stopHold = true ∧
    ((owed 1 true .utx).eng 0).kind = .utx := by decide
def owedDvr : State := tape [yes, no, yes] ((owed 1 true .dvrx).modDvr 0 (fun d =>
  { d.beginFrame 1 [0] 16 7 8 with consumers := [10, 11] }))
def owedDvt : State :=
  { stallingDvt [yes, no, yes] with
    inst := ((stallingDvt []).modEng 0 (fun _ =>
      { eng .dvtx with finalizeOwed := 1, stopHold := true })).inst }
theorem witness_FinalizeResult_teardown : owedDvr.halted = false ∧ (owedDvr.eng 0).kind = .dvrx ∧
    (owedDvr.eng 0).finalizeOwed = 1 ∧ (owedDvr.eng 0).stopHold = true ∧
    owedDvr.answers [yes, no] [yes] ((owedDvr.dvr 0).abandonNotices 0).length ∧
    owedDvt.halted = false ∧ (owedDvt.eng 0).kind = .dvtx ∧ (owedDvt.eng 0).finalizeOwed = 1 ∧
    (owedDvt.eng 0).stopHold = true ∧ ((owedDvt.dvt 0).drained 3).2 = [1] ∧
    (owedDvt.dvt 0).curFrame = some 0 ∧ owedDvt.answers [yes, no] [yes] 2 := by decide +kernel
def abandoned : Draw := { reset := true }
def armed : State := tape [yes] (withEng { running .urx with wdRegistered := true, wdArmed := true })
theorem witness_TimerEvents : armed.halted = false ∧ 0 < armed.inst.length ∧
    armed.tape = yes :: [] ∧ (armed.eng 0).running = true ∧ (armed.eng 0).wdArmed = true ∧
    (armed.eng 0).stopHold = false ∧ ((owed 1 true .urx).eng 0).stopHold = true ∧
    (base.eng 0).wdArmed = false ∧ abandoned.acts = [] ∧ abandoned.reset = true := by decide
theorem witness_TimerEvents_acts : nested.acts =
      [.write .arg0 0, .write .cmd (encodeWord (.engSetWatchdog 0))] ∧ nested.reset = false ∧
    (tape [nested] armed).tape = nested :: [] ∧
    ((tape [nested] armed).called (.engMsg 0 .noData none) nested []).halted = false ∧
    ((tape [nested] armed).called (.engMsg 0 .noData none)
      { acts := [.poke 0x10000 1] } []).halted = true := by decide +kernel
def one : State := State.powerOn Config.params
/-- A set-up, running engine two segments on, about to consume an event. -/
def ringed : State := next (.consume 0) (one.modEng 0 (fun _ =>
  { running .urx with
    curSeg := 1, jump := [.overrun, .start 0], events := [.segment 5, .finalize]
    finalizeOwed := 3, peStops := 2 }))
theorem witness_StepKeepsRingLaw : ringed.every (·.eng.ringLaw) ∧
    ∃ t, step ringed = .next t ∧ decide (t.faults = 4) = true := by
  refine ⟨fun x hx => ?_, runs _ (by decide +kernel)⟩
  obtain rfl := List.mem_singleton.mp hx
  exact fun _ => by decide
theorem witness_StepKeepsTransportLaw : ringed.every (·.eng.transportLaw) ∧
    ∃ t, step ringed = .next t ∧ decide (t.faults = 4) = true := by
  refine ⟨fun x hx => ?_, runs _ (by decide +kernel)⟩
  obtain rfl := List.mem_singleton.mp hx
  exact ⟨fun _ => by decide, by decide⟩

/-! Unit DVR. -/

def cycle (mark : Byte) (dbs mode : Byte) : List Byte :=
  [0x00, dbs, 0, 0, 0x80, mode, 0x12, 0x34, 0x00, mark, 1, 2, 3, 4, 5, 6]
def sDvr (mark dbs mode : Byte) (g : Dvr → Dvr) : State :=
  args 0x00104000 0xFFF0 0x1234 0 ((base.modDvr 0 g).writeBytes 0xFFF0 (cycle mark dbs mode))
def filling (off : Nat) (d : Dvr) : Dvr :=
  { d.modFrame 0 (fun r => { r with state := .filling, currentOffset := off, frameLen := 16 }) with
    freeQueue := [1], currentFrame := some 0 }
def plain : State := sDvr 0xAA 2 0 id
theorem witness_CycleIgnored : plain.idle ∧ 0 < plain.inst.length ∧
    ((sDvr 4 2 0 (fun d => { d with dvMode := 7 })).par.dvRow 7 = none) ∧
    plain.par.dvRow (plain.dvr 0).dvMode = some row0 ∧ plain.arg0.extractLsb' 14 2 = 0b01#2 ∧
    8 < plain.arg0.toNat / 2 ^ 16 ∧ plain.par.bufBytes < (0xFFF1 : Word).toNat + 16 ∧
    plain.arg1.toNat + 16 ≤ plain.par.bufBytes ∧ (plain.dvr 0).currentFrame = none ∧
    ¬ (10 ≤ plain.arg0.toNat / 2 ^ 16 ∧ (plain.readByte (0xFFF0 + 8) ++
      plain.readByte (0xFFF0 + 9)) &&& 0xE0FC#16 = 0x0004#16) := by decide +kernel
def fill1 : State := sDvr 0xAA 2 0 (filling 7)
theorem witness_CycleFillsFrame : fill1.idle ∧ 0 < fill1.inst.length ∧
    fill1.par.dvRow (fill1.dvr 0).dvMode = some row0 ∧ fill1.arg0.extractLsb' 14 2 = 0b01#2 ∧
    8 < fill1.arg0.toNat / 2 ^ 16 ∧ 0xFFF0 + 16 ≤ fill1.par.bufBytes ∧
    0 < (fill1.dvr 0).frames.length ∧ (cipHeader (fill1.readBytes 0xFFF0 16)).dbs = row0.dbs ∧
    0 < row0.dbs.toNat ∧ (16 - 8) % (row0.dbs.toNat * 4) = 0 ∧ (fill1.dvr 0).currentFrame = some 0 ∧
    ¬ ((fill1.readByte 0xFFF8 ++ fill1.readByte 0xFFF9) &&& 0xE0FC#16 = 0x0004#16) ∧
    ((fill1.dvr 0).frame 0).currentOffset + (16 - 8) < ((fill1.dvr 0).frame 0).frameLen := by
  decide +kernel
def first1 : State := sDvr 4 2 0 id
theorem witness_CycleFillsFrame_start : first1.idle ∧
    first1.par.dvRow (first1.dvr 0).dvMode = some row0 ∧ (first1.dvr 0).currentFrame = none ∧
    (first1.dvr 0).cleared.freeQueue = 0 :: [1] ∧
    first1.answers [] [] ((first1.dvr 0).abandonNotices 0).length ∧ 10 ≤ first1.arg0.toNat / 2 ^ 16 ∧
    (first1.readByte 0xFFF8 ++ first1.readByte 0xFFF9) &&& 0xE0FC#16 = 0x0004#16 ∧
    (cipHeader (first1.readBytes 0xFFF0 16)).fdf = row0.mode.setWidth 24 ∧
    16 - 8 < row0.frameSize := by decide +kernel
/-- A frame is in progress when the start marker comes. -/
def first2 : State := tape [yes, no, ans 5] (sDvr 4 2 0 (fun d =>
  { filling 8 d with consumers := [10, 11] }))
theorem witness_CycleFillsFrame_restart : first2.idle ∧ (first2.dvr 0).currentFrame = some 0 ∧
    (first2.dvr 0).cleared.freeQueue = 1 :: [0] ∧
    first2.answers [yes, no] [ans 5] ((first2.dvr 0).abandonNotices 0).length ∧
    (first2.readByte 0xFFF8 ++ first2.readByte 0xFFF9) &&& 0xE0FC#16 = 0x0004#16 ∧
    (cipHeader (first2.readBytes 0xFFF0 16)).fdf = row0.mode.setWidth 24 ∧
    16 - 8 < row0.frameSize := by decide +kernel
def done1 : State := tape [yes, no, ans 5] (sDvr 0xAA 2 0 (fun d =>
  { filling 8 d with consumers := [10, 11] }))
theorem witness_CycleDispatchesFrame : done1.idle ∧ 0 < done1.inst.length ∧
    done1.par.dvRow (done1.dvr 0).dvMode = some row0 ∧ done1.arg0.extractLsb' 14 2 = 0b01#2 ∧
    (cipHeader (done1.readBytes 0xFFF0 16)).dbs = row0.dbs ∧
    (done1.dvr 0).currentFrame = some 0 ∧
    ¬ ((done1.readByte 0xFFF8 ++ done1.readByte 0xFFF9) &&& 0xE0FC#16 = 0x0004#16) ∧
    ((done1.dvr 0).frame 0).frameLen - ((done1.dvr 0).frame 0).currentOffset = 16 - 8 ∧
    (16 - 8) % (row0.dbs.toNat * 4) = 0 ∧
    [yes, no].length = (done1.dvr 0).consumers.length ∧
    done1.answers ([] ++ [yes, no]) [ans 5] 2 := by decide +kernel
/-- A cycle of two blocks. -/
def sDvr2 (mark : Byte) (ds : List Draw) (g : Dvr → Dvr) : State :=
  args 0x00184000 0xFFE8 0x1234 0 (tape ds ((base.modDvr 0 g).writeBytes 0xFFE8
    (cycle mark 2 0 ++ [7, 8, 9, 10, 11, 12, 13, 14])))
/-- The first block completes the frame; the second goes into frame 1, or nowhere. -/
def done2 (q : List Nat) : State := sDvr2 0xAA [yes, no, yes, no, ans 5] (fun d =>
  { filling 8 d with consumers := [10, 11], freeQueue := q })
theorem witness_CycleDispatchesFrame_goesOn : (done2 [1]).idle ∧ (done2 []).idle ∧
    (done2 [1]).par.dvRow ((done2 [1]).dvr 0).dvMode = some row0 ∧
    8 < (done2 [1]).arg0.toNat / 2 ^ 16 ∧ 0xFFE8 + 24 ≤ (done2 [1]).par.bufBytes ∧
    (((done2 [1]).dvr 0).frame 0).frameLen - (((done2 [1]).dvr 0).frame 0).currentOffset < 24 - 8 ∧
    (done2 [1]).answers ([] ++ [yes, no]) [yes, no, ans 5] 2 ∧
    ([yes, no].filter (fun a => a.status == 0)).length = 1 ∧ 24 - 8 - 8 < row0.frameSize ∧
    ({ done2 [] with tape := [yes, no, ans 5] } : State).answers [yes, no] [ans 5] 2 := by
  decide +kernel
/-- A start-marked cycle that fills its frame whole. -/
def done3 : State := sDvr2 4 [yes, no, no, no, ans 5] (fun d =>
  { filling 8 d with consumers := [10, 11] })
theorem witness_CycleDispatchesFrame_started : done3.idle ∧
    (done3.dvr 0).cleared.freeQueue = 1 :: [0] ∧
    (cipHeader (done3.readBytes 0xFFE8 24)).fdf = row0.mode.setWidth 24 ∧
    (done3.readByte 0xFFF0 ++ done3.readByte 0xFFF1) &&& 0xE0FC#16 = 0x0004#16 ∧
    [yes, no].length = ((done3.dvr 0).abandonNotices 0).length ∧
    done3.answers ([yes, no] ++ [no, no]) [ans 5] 4 := by decide +kernel
/-- The lone consumer gives the frame back inside its callback. -/
def done4 : State := tape
  [{ status := 1, acts := [.write .arg0 (BitVec.ofNat 32 0), .write .cmd (encodeWord (.dvrRelease 0))] },
    ans 5] (sDvr 0xAA 2 0 (fun d => { filling 8 d with consumers := [10] }))
theorem witness_CycleDispatchesFrame_release : done4.idle ∧ (done4.dvr 0).consumers = [10] ∧
    (done4.dvr 0).currentFrame = some 0 ∧
    ((done4.dvr 0).frame 0).frameLen - ((done4.dvr 0).frame 0).currentOffset = 16 - 8 ∧
    done4.tape = { no with acts :=
      [.write .arg0 (BitVec.ofNat 32 0), .write .cmd (encodeWord (.dvrRelease 0))] } :: [ans 5] ∧
    no.reset = false := by decide +kernel
def corrupt : State := tape [yes, no, ans 5] (sDvr 0xAA 3 0 (fun d =>
  { filling 8 d with consumers := [10, 11] }))
theorem witness_CycleNotices_corrupted : corrupt.idle ∧ 0 < corrupt.inst.length ∧
    corrupt.par.dvRow (corrupt.dvr 0).dvMode = some row0 ∧
    corrupt.answers [yes, no] [ans 5] ((corrupt.dvr 0).notices 0 .frameCorrupted).length ∧
    (corrupt.dvr 0).currentFrame = some 0 ∧
    ¬ ((corrupt.readByte 0xFFF8 ++ corrupt.readByte 0xFFF9) &&& 0xE0FC#16 = 0x0004#16) ∧
    (cipHeader (corrupt.readBytes 0xFFF0 16)).dbs ≠ row0.dbs := by decide +kernel
def other (mode dbs : Byte) : State := tape [yes, no, no, yes, ans 5] (sDvr 4 dbs mode (fun d =>
  { filling 8 d with consumers := [10, 11] }))
theorem witness_CycleNotices_started : (other 1 2).idle ∧
    ((other 1 2).dvr 0).currentFrame = some 0 ∧ (other 1 2).answers [yes, no, no, yes] [ans 5] 4 ∧
    (((other 1 2).dvr 0).abandonNotices 0).length = 2 ∧
    ((other 1 2).readByte 0xFFF8 ++ (other 1 2).readByte 0xFFF9) &&& 0xE0FC#16 = 0x0004#16 ∧
    (cipHeader ((other 1 2).readBytes 0xFFF0 16)).fdf ≠ row0.mode.setWidth 24 ∧
    (cipHeader ((other 0 3).readBytes 0xFFF0 16)).fdf = row0.mode.setWidth 24 ∧
    (cipHeader ((other 0 3).readBytes 0xFFF0 16)).dbs ≠ row0.dbs ∧
    ((other 0 3).dvr 0).cleared.freeQueue = 1 :: [0] := by decide +kernel
def none1 : State := tape [yes, no, ans 5] (sDvr 4 2 0 (fun d =>
  { d with consumers := [10, 11], freeQueue := [] }))
theorem witness_CycleNotices_dropped : none1.idle ∧
    none1.answers [yes, no] [ans 5] ((none1.dvr 0).notices 0 .frameDropped).length ∧
    (none1.dvr 0).cleared.freeQueue = [] ∧
    (none1.readByte 0xFFF8 ++ none1.readByte 0xFFF9) &&& 0xE0FC#16 = 0x0004#16 ∧
    (cipHeader (none1.readBytes 0xFFF0 16)).fdf = row0.mode.setWidth 24 := by decide +kernel
theorem witness_DvrReleaseResult : (held 1 false).halted = false ∧
    0 < (held 1 false).inst.length := by decide
theorem witness_DvrRegisterResult : (args 0x11 0 0 0 base).idle ∧ 0 < base.inst.length := by decide
/-- Frame 0 is Filling and frame 1 is Free, and a host step is next. -/
def framed : State := next (.host (.write .cmd 0x04030000)) (one.modDvr 0 (filling 8))
theorem witness_StepKeepsFrameLaw : framed.every (·.dvr.law) ∧
    ∃ t, step framed = .next t ∧ decide (t.status = 0) = true := by
  refine ⟨fun x hx => ?_, runs _ (by decide +kernel)⟩
  obtain rfl := List.mem_singleton.mp hx
  refine ⟨by decide, fun f => ?_, fun f h => ?_, fun f h => ?_, fun f h => ?_⟩
  · match f with
    | 0 => decide
    | 1 => decide
    | n + 2 => exact ⟨fun h => (by simp [filling] at h), fun h => absurd h.1 (Nat.not_lt.mpr (Nat.le_add_left 2 n))⟩
  · cases h; decide
  · change f < 2 at h
    interval_cases f <;> decide
  · change f < 2 at h
    interval_cases f <;> decide

/-! Unit DVT. -/

def tx (n : Half) (data : Bool) (ds : List Draw) (g : Dvt → Dvt) : State :=
  tape ds
    { ((withEng { eng .dvtx with stealCount := n }).modDvt 0 (fun d =>
        g { d with txFrameBase := 0x800 })).writeBytes 0x800
          ((List.range 40).map (BitVec.ofNat 8)) with
      par := { base.par with cadence := [data], sytTable := [((0, 0), 0x1234)] }, arg0 := 1 }
/-- The buffer refers to frames 0 and 1, and frame 0 to no other. -/
def refer (d : Dvt) : Dvt :=
  { (d.modFrame 0 (fun r => { r with inUse := true, curOffset := 16, dclProgramRefCount := 1 })).modFrame 1
      (fun r => { r with inUse := true, curOffset := 8, dclProgramRefCount := 2 }) with
    slotRefs := [(0, [1]), (1, [0, 1])] }
def idleTx : State := tx 0 false [no, yes] refer
theorem witness_ProducesCipOnly : idleTx.idle ∧ 0 < idleTx.inst.length ∧
    (idleTx.eng 0).setupDone = true ∧ (idleTx.eng 0).kind = .dvtx ∧
    idleTx.arg0.toNat < (idleTx.eng 0).segments.toNat * (idleTx.eng 0).cyclesPerSeg.toNat ∧
    idleTx.par.dvRow (idleTx.dvt 0).dvMode = some row0 ∧
    (Dvt.releaseSlot (idleTx.dvt 0, []) 1).2 = [0] ∧ idleTx.answers [no] [yes] 1 ∧
    idleTx.par.dataCycle (idleTx.dvt 0).txCycleCount.toNat = false ∧
    (idleTx.eng 0).stealCount = 0 ∧ 0x110 + 8 ≤ idleTx.par.bufBytes ∧
    ctLegal (idleTx.dvt 0).txClock ∧
    ¬ (2 < (idleTx.eng 0).segments.toNat * (idleTx.eng 0).cyclesPerSeg.toNat) := by decide +kernel
theorem witness_ProducesCipOnly_stops :
    ((idleTx.modEng 0 (fun g => { g with bufBase := 0xFFE9 })).eng 0).setupDone = true ∧
    idleTx.par.bufBytes < (0xFFE9 : Word).toNat + 1 * 16 + 8 ∧
    ¬ ctLegal ((idleTx.modDvt 0 (fun d => { d with txClock := 0xC00 })).dvt 0).txClock := by
  decide +kernel
def sending : State := tx 3 false [no, yes] (fun d => { refer d with curFrame := some 1 })
theorem witness_ProducesBlocks : sending.idle ∧ 0 < sending.inst.length ∧
    sending.par.dvRow (sending.dvt 0).dvMode = some row0 ∧
    (Dvt.releaseSlot (sending.dvt 0, []) 1).2 = [0] ∧ sending.answers [no] [yes] 1 ∧
    (sending.dvt 0).blocksPerCycle = 1 ∧ 0 < (sending.eng 0).stealCount.toNat ∧
    ctLegal (sending.dvt 0).txClock ∧ 0x110 + 8 + 8 ≤ sending.par.bufBytes ∧
    1 < (sending.dvt 0).frames.length ∧ (sending.dvt 0).curFrame = some 1 ∧
    0x800 + 1 * 16 + ((sending.dvt 0).frame 1).curOffset + 8 ≤ sending.par.bufBytes := by
  decide +kernel
/-- Two blocks in a cycle, and frame 1 is there whole. -/
def sending2 : State := tx 0 true [no, yes] (fun d =>
  { (refer d).modFrame 1 (fun r => { r with curOffset := 0 }) with
    curFrame := some 1, blocksPerCycle := 2 })
theorem witness_ProducesBlocks_two : sending2.idle ∧ (sending2.dvt 0).blocksPerCycle = 2 ∧
    0 < row0.dbs.toNat ∧ sending2.par.dataCycle (sending2.dvt 0).txCycleCount.toNat = true ∧
    sending2.answers [no] [yes] 1 ∧ 0x110 + 8 + 2 * 8 ≤ 0x810 ∧ 0x810 + 2 * 8 ≤ sending2.par.bufBytes ∧
    ((sending2.dvt 0).frame 1).curOffset + 2 * 8 ≤ row0.frameSize := by decide +kernel
def pulling : State := tx 0 true [no, ans 0, yes] (fun d => { refer d with blocksPerCycle := 2 })
theorem witness_ProducesBlocks_pulled : pulling.idle ∧
    pulling.par.dataCycle (pulling.dvt 0).txCycleCount.toNat = true ∧
    (pulling.dvt 0).curFrame = none ∧ pulling.answers [no] (ans 0 :: [yes]) 1 ∧ (ans 0).quiet ∧
    (ans 0).status = 0 ∧ (ans 0).word.toNat = 0 ∧
    ((Dvt.releaseSlot (pulling.dvt 0, []) 1).1.frame 0).inUse = false ∧
    0x800 + 2 * 8 ≤ pulling.par.bufBytes ∧ 2 * 8 ≤ row0.frameSize := by decide +kernel
def pulledBeyond : State := tx 3 false [no, ans 2, yes] refer
theorem witness_ProducesBlocks_refused : pulledBeyond.idle ∧
    (pulledBeyond.dvt 0).curFrame = none ∧ pulledBeyond.answers [no] (ans 2 :: [yes]) 1 ∧
    (pulledBeyond.dvt 0).frames.length ≤ (ans 2).word.toNat ∧ no.status ≠ 0 := by decide +kernel
/-- Frame 1 has one block left of the two wanted. -/
def ending (d : Draw) : State := tx 0 true [no, d, yes] (fun d =>
  { refer d with curFrame := some 1, blocksPerCycle := 2 })
theorem witness_ProducesBlocks_boundary : (ending (ans 0)).idle ∧
    ((ending (ans 0)).dvt 0).curFrame = some 1 ∧
    (((ending (ans 0)).dvt 0).frame 1).curOffset + 1 * 8 = row0.frameSize ∧
    (ending (ans 0)).answers [no] (ans 0 :: [yes]) 1 ∧ (ans 0).word.toNat = 0 ∧
    ((Dvt.releaseSlot ((ending (ans 0)).dvt 0, []) 1).1.frame 0).inUse = false ∧
    0x110 + 8 + 2 * 8 ≤ 0x800 ∧ 0x818 + 8 ≤ (ending (ans 0)).par.bufBytes ∧
    ((Dvt.releaseSlot ((ending (ans 0)).dvt 0, []) 1).1.frame 1).inUse = true := by decide +kernel

/-- Two blocks in a cycle from frame 1, the second of which leaves BUF. -/
def leaving : State := (tx 0 true [no, yes] (fun d =>
  { (refer d).modFrame 1 (fun r => { r with curOffset := 0 }) with
    curFrame := some 1, blocksPerCycle := 2 })).modDvt 0 (fun d => { d with txFrameBase := 0xFFE8 })
theorem witness_ProducesBlocks_leaves : leaving.idle ∧ (leaving.dvt 0).curFrame = some 1 ∧
    leaving.answers [no] [yes] 1 ∧ leaving.par.bufBytes = 0x10000 ∧
    0xFFE8 + 1 * 16 + 0 + 1 * 8 ≤ leaving.par.bufBytes ∧
    leaving.par.bufBytes < 0xFFE8 + 1 * 16 + 0 + 1 * 8 + 8 ∧ 0x110 + 8 + 1 * 8 ≤ leaving.par.bufBytes ∧
    0 + 1 * 8 < row0.frameSize ∧
    leaving.par.bufBytes < 0xFFE8 + 1 * 16 + 8 + 8 ∧ 0x10000 < 0xFFF0 + 16 + 8 := by decide +kernel
/-- The first block of a pulled frame leaves the cycle buffer; and a frame that is refused. -/
def leavingSlot (d : Draw) : State := (tx 0 true [no, d, yes] refer).modEng 0 (fun g =>
  { g with bufBase := 0xFFE8 })
theorem witness_ProducesBlocks_leaves_slot : (leavingSlot (ans 0)).idle ∧
    ((leavingSlot (ans 0)).dvt 0).curFrame = none ∧
    (leavingSlot (ans 0)).answers [no] (ans 0 :: [yes]) 1 ∧
    ((Dvt.releaseSlot ((leavingSlot (ans 0)).dvt 0, []) 1).1.frame 0).inUse = false ∧
    0x800 + 8 ≤ (leavingSlot (ans 0)).par.bufBytes ∧
    (leavingSlot (ans 0)).par.bufBytes < 0xFFE8 + 16 + 8 + 8 ∧
    (((leavingSlot no).modEng 0 (fun g => { g with bufBase := 0xFFE9 })).eng 0).bufBase = 0xFFE9 := by
  decide +kernel

/-! Unit TS. -/

def tsPlain : State := sTs 0x1F 0xFF 0x10 0 id
theorem witness_PacketOutsideStreams : tsPlain.idle ∧ 0 < tsPlain.inst.length ∧
    tsPlain.par.bufBytes < (0xFF45 : Word).toNat + 188 ∧
    (0xFF44 : Word).toNat + 188 ≤ tsPlain.par.bufBytes ∧ tsPlain.readByte 0x41 ≠ 0x47 ∧
    tsPlain.readByte tsPlain.arg0.toNat = 0x47 ∧ tsPlain.packetPid = 0x1FFF ∧
    tsPlain.packetPid ≠ ((tsPlain.ts 0).videoPid).pid ∧
    tsPlain.packetPid ≠ ((tsPlain.ts 0).audioPid).pid ∧ tsPlain.packetPid ≠ 0 ∧
    ((tsPlain.ts 0).pmtPid).valid = false ∧ (tsPlain.ts 0).mode.getLsbD 0 = false := by
  decide +kernel
def psi (mode : BitVec 4) (d : Draw) : State := tape [d, no] (sTs 0 0 0x10 0 (fun x =>
  { x with mode := mode }))
def pmt : Draw := { pmtPid := some 0x20 }
theorem witness_PacketOutsideStreams_psi : (psi 4 yes).idle ∧ (psi 4 yes).packetPid = 0 ∧
    (psi 4 yes).tape = yes :: [no] ∧ ((psi 4 yes).ts 0).mode.getLsbD 0 = false ∧
    ((psi 4 yes).ts 0).mode.getLsbD 2 = true ∧ (psi 1 pmt).idle ∧ (psi 1 pmt).packetPid = 0 ∧
    ((psi 1 pmt).ts 0).mode.getLsbD 0 = true ∧ ((psi 1 pmt).ts 0).mode.getLsbD 2 = false ∧
    min (((psi 1 pmt).ts 0).pktSinceCb.toNat + 1) (2 ^ 32 - 1) ≤
      ((psi 1 pmt).ts 0).psiTimeout.toNat ∧ pmt.videoPid = none ∧ pmt.audioPid = none ∧
    pmt.pmtPid = some 0x20 ∧ pmt.quiet := by decide +kernel
def hdv : State := { tape [yes, no] (sTs 0x1F 0xFF 0x10 0 (fun x => { x with mode := 8 })) with
  par := { base.par with hdvPids := [0x1FFF] } }
def silent : State := tape [yes, no] (sTs 0x1F 0xFF 0x10 0 (fun x =>
  { x with mode := 1, psiTimeout := 3, pktSinceCb := 3 }))
theorem witness_PacketOutsideStreams_hdv : hdv.idle ∧ hdv.packetPid ∈ hdv.par.hdvPids ∧
    (hdv.ts 0).mode.getLsbD 3 = true ∧ hdv.tape = yes :: [no] ∧ silent.idle ∧
    silent.packetPid ∉ silent.par.hdvPids ∧ (silent.ts 0).mode.getLsbD 0 = true ∧
    (silent.ts 0).psiTimeout.toNat < min ((silent.ts 0).pktSinceCb.toNat + 1) (2 ^ 32 - 1) ∧
    (silent.ts 0).video.curBuf = none ∧ (silent.ts 0).audio.curBuf = none := by decide +kernel
/-- Both streams hold a buffer with bytes in it. -/
def both (d : Ts) : Ts :=
  { (vid 20 d).modBuf 1 (fun r => { r with state := .filling, pesBufLen := 30 }) with
    pesFreeA := [], audio := { d.audio with foundFirst := true, streamCont := some 4, curBuf := some 1 } }
/-- The decoder answers another video PID and the audio PID there is; then the raw client is told. -/
def found : Draw := { videoPid := some 0x102, audioPid := some 0x101 }
def rescan (n : Word) : State := tape [found, yes, yes, no] (sTs 0 0 0x10 0 (fun x =>
  { both x with mode := 5, psiTimeout := 3, pktSinceCb := n }))
theorem witness_PacketOutsideStreams_answer : (rescan 3).idle ∧ (rescan 3).packetPid = 0 ∧
    ((rescan 3).ts 0).mode.getLsbD 0 = true ∧ ((rescan 3).ts 0).mode.getLsbD 2 = true ∧
    (rescan 3).tape.head? = some found ∧ (rescan 3).answers [found, yes, yes] [no] (2 + 1) ∧
    (rescan 2).answers [found, yes] [yes, no] 2 ∧
    ((rescan 3).ts 0).psiTimeout.toNat <
      min (((rescan 3).ts 0).pktSinceCb.toNat + 1) (2 ^ 32 - 1) ∧
    min (((rescan 2).ts 0).pktSinceCb.toNat + 1) (2 ^ 32 - 1) ≤
      ((rescan 2).ts 0).psiTimeout.toNat := by decide +kernel
theorem witness_PacketOutsideStreams_held : ((silent.modTs 0 both).ts 0).video.curBuf = some 0 ∧
    ((silent.modTs 0 both).ts 0).audio.curBuf = some 1 ∧ silent.answers [yes] [no] (0 + 1) := by
  decide +kernel
def dropped : State := sTs 0x01 0x00 0x15 0 (fun d =>
  { d with video := { d.video with streamCont := some 4 } })
theorem witness_PacketAccumulates : dropped.idle ∧ 0 < dropped.inst.length ∧
    dropped.packetOn 0 .video ∧ (dropped.ts 0).mode.getLsbD 0 = false ∧
    (dropped.readByte 0x41).getLsbD 7 = false ∧ (dropped.readByte 0x41).getLsbD 6 = false ∧
    (dropped.readByte 0x43).extractLsb' 4 2 = 0b01#2 ∧
    ((dropped.ts 0).stream .video).streamCont = some 4 ∧
    (dropped.readByte 0x43).extractLsb' 0 4 = 4#4 + 1 ∧
    ((dropped.ts 0).stream .video).foundFirst = false := by decide +kernel
/-- 216 bytes are there and 184 fit the 400 of the buffer exactly. -/
def fits : State := sTs 0x01 0x00 0x15 0 (vid 216)
/-- 217 bytes are there. -/
def exceeds : State := tape [yes, no] (sTs 0x01 0x00 0x15 0 (vid 217))
/-- Partial demux: 150 bytes are there of at most 200. -/
def cut : State := sTs 0x01 0x00 0x15 0 (fun d => { vid 150 d with mode := 2 })
theorem witness_PacketAccumulates_found : fits.idle ∧ fits.packetOn 0 .video ∧
    ((fits.ts 0).stream .video).foundFirst = true ∧
    ((fits.ts 0).stream .video).curBuf = some 0 ∧ 0 < (fits.ts 0).bufs.length ∧
    ((fits.ts 0).buf 0).pesBufLen + 184 ≤ fits.par.pesCapV := by decide +kernel
theorem witness_PacketAccumulates_full : exceeds.idle ∧
    exceeds.packetOn 0 .video ∧ exceeds.par.pesCapV < ((exceeds.ts 0).buf 0).pesBufLen + 184 ∧
    exceeds.tape = yes :: [no] ∧ (exceeds.ts 0).mode.getLsbD 1 = false ∧ cut.idle ∧
    cut.packetOn 0 .video ∧ (cut.ts 0).mode.getLsbD 1 = true ∧
    cut.par.partialCap < ((cut.ts 0).buf 0).pesBufLen + 184 ∧
    ((cut.ts 0).buf 0).pesBufLen ≤ cut.par.partialCap := by decide +kernel
/-- No payload, and no adaptation field either (`b3 = 0x05`); an adaptation field of 184 bytes. -/
def bare (b3 : Byte) : State := tape [yes, no] (sTs 0x01 0x00 b3 183 (fun d =>
  { vid 20 d with mode := 1, psiTimeout := 1, pktSinceCb := 1 }))
theorem witness_PacketAccumulates_bare : (bare 0x05).idle ∧ (bare 0x05).packetOn 0 .video ∧
    ((bare 0x05).readByte 0x43).extractLsb' 4 2 = 0 ∧
    ((bare 0x24).readByte 0x43).extractLsb' 4 2 = 0b10#2 ∧
    ((bare 0x24).readByte 0x43).extractLsb' 0 4 = 4#4 ∧ 1 + ((bare 0x24).readByte 0x44).toNat = 184 ∧
    ((bare 0x24).ts 0).mode.getLsbD 0 = true ∧
    ((bare 0x24).ts 0).psiTimeout.toNat <
      min (((bare 0x24).ts 0).pktSinceCb.toNat + 1) (2 ^ 32 - 1) ∧
    (bare 0x24).tape = yes :: [no] := by decide +kernel
def starts1 : State := sTs 0x41 0x01 0x13 0 id
theorem witness_PacketStartsPes : starts1.idle ∧ 0 < starts1.inst.length ∧
    starts1.packetOn 0 .audio ∧ (starts1.ts 0).mode.getLsbD 0 = false ∧
    (starts1.readByte 0x41).getLsbD 7 = false ∧ (starts1.readByte 0x41).getLsbD 6 = true ∧
    (starts1.readByte 0x43).extractLsb' 4 2 = 0b01#2 ∧ 184 - 0 ≤ starts1.par.pesCapA ∧
    ((starts1.ts 0).stream .audio).streamCont = none ∧
    ((starts1.ts 0).stream .audio).curBuf = none ∧ (starts1.ts 0).pesFree .audio = 1 :: [] ∧
    1 < (starts1.ts 0).bufs.length := by decide +kernel
def starts2 : State := sTs 0x41 0x00 0x13 0 (fun d => { d with pesFreeV := [] })
def starts3 : State := tape [yes, no] (sTs 0x41 0x00 0x15 0 (fun d =>
  { vid 20 d with pesFreeV := [1] }))
theorem witness_PacketStartsPes_other : starts2.idle ∧ starts2.packetOn 0 .video ∧
    ((starts2.ts 0).stream .video).curBuf = none ∧ (starts2.ts 0).pesFree .video = [] ∧
    starts3.idle ∧ starts3.packetOn 0 .video ∧ ((starts3.ts 0).stream .video).curBuf = some 0 ∧
    0 < ((starts3.ts 0).buf 0).pesBufLen ∧ (starts3.ts 0).pesFree .video = 1 :: [] ∧
    1 < (starts3.ts 0).bufs.length ∧ 1 ≠ 0 ∧ starts3.tape = yes :: [no] ∧
    ((starts3.ts 0).stream .video).streamCont = some 4 ∧
    (starts3.readByte 0x43).extractLsb' 0 4 = 4#4 + 1 := by decide +kernel
/-- An empty current buffer is kept; a PES is delivered while no buffer is free; a gap comes before. -/
def starts4 : State := sTs 0x41 0x00 0x15 0 (vid 0)
def starts5 (b3 : Byte) : State := tape [yes, no] (sTs 0x41 0x00 b3 0 (vid 20))
theorem witness_PacketStartsPes_kept : starts4.idle ∧ starts4.packetOn 0 .video ∧
    ((starts4.ts 0).stream .video).curBuf = some 0 ∧ 0 < (starts4.ts 0).bufs.length ∧
    ((starts4.ts 0).buf 0).pesBufLen = 0 ∧ (starts4.readByte 0x43).extractLsb' 0 4 = 4#4 + 1 ∧
    (starts5 0x15).idle ∧ (starts5 0x15).packetOn 0 .video ∧
    ((starts5 0x15).ts 0).pesFree .video = [] ∧ 0 < (((starts5 0x15).ts 0).buf 0).pesBufLen ∧
    (starts5 0x15).tape = yes :: [no] ∧ ((starts5 0x17).readByte 0x43).extractLsb' 0 4 ≠ 4#4 + 1 := by
  decide +kernel
def starts6 (q : List Nat) : State := tape [yes, no] (sTs 0x41 0x00 0x37 9 (fun d =>
  { d with pesFreeV := q, video := { d.video with streamCont := some 4 } }))
theorem witness_PacketStartsPes_gap : (starts6 [0]).idle ∧ (starts6 [0]).packetOn 0 .video ∧
    ((starts6 [0]).ts 0).pesFree .video = 0 :: [] ∧ ((starts6 []).ts 0).pesFree .video = [] ∧
    (((starts6 []).ts 0).stream .video).curBuf = none ∧ (starts6 []).tape = yes :: [no] ∧
    ((starts6 [0]).readByte 0x43).extractLsb' 0 4 ≠ 4#4 + 1 ∧
    1 + ((starts6 [0]).readByte 0x44).toNat ≤ 184 := by decide +kernel
def gap : State := tape [yes, no] (sTs 0x01 0x00 0x17 0 (vid 20))
theorem witness_PacketReports : gap.idle ∧ 0 < gap.inst.length ∧ gap.packetOn 0 .video ∧
    gap.tape = yes :: [no] ∧ yes.quiet ∧ (gap.readByte 0x41).getLsbD 7 = false ∧
    (gap.readByte 0x43).extractLsb' 4 2 ≠ 0 ∧ (gap.readByte 0x41).getLsbD 6 = false ∧
    ((gap.ts 0).stream .video).streamCont = some 4 ∧
    (gap.readByte 0x43).extractLsb' 0 4 ≠ 4#4 + 1 := by decide +kernel
def erred : State := tape [yes, no] (sTs 0x81 0x00 0x15 0 (vid 20))
def longField : State := tape [yes, no] (sTs 0x01 0x00 0x35 184 (vid 0))
theorem witness_PacketReports_error : erred.idle ∧ erred.packetOn 0 .video ∧
    erred.tape = yes :: [no] ∧ (erred.readByte 0x41).getLsbD 7 = true ∧
    ((erred.ts 0).stream .video).curBuf = some 0 ∧ 0 < ((erred.ts 0).buf 0).pesBufLen ∧
    longField.idle ∧ longField.packetOn 0 .video ∧
    184 < 1 + (longField.readByte 0x44).toNat ∧ ((longField.ts 0).buf 0).pesBufLen = 0 := by
  decide +kernel
theorem witness_FlushResult : base.idle ∧ 0 < base.inst.length ∧
    (∀ b, ((base.ts 0).stream .video).curBuf = some b → ((base.ts 0).buf b).pesBufLen = 0) ∧
    (∀ b, ((base.ts 0).stream .audio).curBuf = some b → ((base.ts 0).buf b).pesBufLen = 0) :=
  ⟨by decide, by decide, fun _ h => (by cases h), fun _ h => (by cases h)⟩
theorem witness_FlushResult_one : (gap.idle ∧ StreamType.video ≠ .audio ∧
    ((gap.ts 0).stream .video).curBuf = some 0 ∧ 0 < ((gap.ts 0).buf 0).pesBufLen ∧
    gap.tape = yes :: [no]) ∧
    (∀ b, ((gap.ts 0).stream .audio).curBuf = some b → ((gap.ts 0).buf b).pesBufLen = 0) :=
  ⟨by decide +kernel, fun _ h => by cases h⟩
def flush2 : State := tape [yes, no, yes] (base.modTs 0 both)
/-- The client gives the buffer back inside its callback. -/
def flush1 : State := tape
  [{ acts := [.write .arg0 (BitVec.ofNat 32 0), .write .cmd (encodeWord (.tsReleasePes 0))] }, no]
  (base.modTs 0 (vid 368))
theorem witness_FlushResult_two : flush2.idle ∧ (flush2.ts 0).video.curBuf = some 0 ∧
    0 < ((flush2.ts 0).buf 0).pesBufLen ∧ (flush2.ts 0).audio.curBuf = some 1 ∧
    0 < ((flush2.ts 0).buf 1).pesBufLen ∧ flush2.answers [yes, no] [yes] 2 ∧ flush1.idle ∧
    ((flush1.ts 0).stream .video).curBuf = some 0 ∧ 0 < ((flush1.ts 0).buf 0).pesBufLen ∧
    ((flush1.ts 0).stream .audio).curBuf = none ∧
    flush1.tape = { yes with acts :=
      [.write .arg0 (BitVec.ofNat 32 0), .write .cmd (encodeWord (.tsReleasePes 0))] } :: [no] := by
  decide +kernel
def observed : State := (delivered.modTs 0 (·.modBuf 0 (fun r => { r with data := [(2, 9)] }))).modDvr 0
  (fun d => d.modFrame 1 (fun r => { r with state := .dispatched, frameLen := 2, data := [(1, 8)] }))
theorem witness_ReleasePesResult_observed : 0 < (observed.ts 0).bufs.length ∧
    ((observed.ts 0).buf 0).state = .delivered ∧ ((observed.ts 0).buf 0).pesBufLen = 3 ∧
    sparseGet ((observed.ts 0).buf 0).data 2 = some 9 ∧ 1 < (observed.dvr 0).frames.length ∧
    ((observed.dvr 0).frame 1).state = .dispatched ∧ 1 < ((observed.dvr 0).frame 1).frameLen ∧
    sparseGet ((observed.dvr 0).frame 1).data 1 = some 8 := by decide +kernel
theorem witness_ReleasePesResult : delivered.halted = false ∧ 0 < delivered.inst.length := by decide
/-- Buffer 0 is Filling, buffer 1 is Free, and a TS_FLUSH is next. -/
def pesRun : State := tape [yes] (next (.host (.write .cmd 0x06020000)) (one.modTs 0 (vid 7)))
theorem witness_StepKeepsPesLaw : pesRun.every (·.ts.law) ∧
    ∃ t, step pesRun = .next t ∧ decide (t.status = 0) = true := by
  refine ⟨fun x hx => ?_, runs _ (by decide +kernel)⟩
  obtain rfl := List.mem_singleton.mp hx
  intro y
  refine ⟨by cases y <;> decide, fun b => ?_, fun b => ?_⟩
  · match b with
    | 0 => cases y <;> decide
    | 1 => cases y <;> decide
    | n + 2 =>
      refine ⟨fun h => ?_, fun h => absurd h.1 (Nat.not_lt.mpr (Nat.le_add_left 2 n))⟩
      cases y
      · have h' : n + 2 ∈ ([] : List Nat) := h
        simp at h'
      · have h' : n + 2 ∈ [1] := h
        simp at h'
  · match b with
    | 0 => cases y <;> decide
    | 1 => cases y <;> decide
    | n + 2 =>
      refine ⟨fun h => ?_, fun h => absurd h.1 (Nat.not_lt.mpr (Nat.le_add_left 2 n))⟩
      cases y
      · have h' : some 0 = some (n + 2) := h
        simp at h'
      · have h' : none = some (n + 2) := h
        cases h'

/-! Unit UNI, reset, the Port Engine and the frames. -/

theorem witness_UrxResult : (sUrx 8 id).idle ∧ 0 < (sUrx 8 id).inst.length ∧
    ((sUrx 8 id).eng 0).urxCallback = false ∧
    ¬ ((sUrx 8 id).arg0.extractLsb' 14 2 = 0b01#2 ∧ 8 < (sUrx 8 id).arg0.toNat / 2 ^ 16) ∧
    (sUrx 200 id).arg0.extractLsb' 14 2 = 0b01#2 ∧ 8 < (sUrx 200 id).arg0.toNat / 2 ^ 16 ∧
    (sUrx 200 id).par.bufBytes < (0xFF39 : Word).toNat + 200 ∧
    (0xFF38 : Word).toNat + 200 ≤ (sUrx 200 id).par.bufBytes ∧
    (cipHeader ((sUrx 200 id).readBytes 0x44 8)).dbs = 0 := by decide +kernel
theorem witness_UrxResult_demux : ((sUrx 200 id).eng 0).lastFmt = none ∧
    ((sUrx 200 id).eng 0).demuxAttach = true ∧
    (cipHeader ((sUrx 200 id).readBytes 0x40 200)).fmt = 0x20 ∧
    (cipHeader ((sUrx 200 id).readBytes 0x40 200)).dbs.toNat * 4 *
      2 ^ (cipHeader ((sUrx 200 id).readBytes 0x40 200)).fn.toNat = 192 ∧ (200 - 8) / 192 = 1 ∧
    1 ≤ (sUrx 200 id).par.maxSourcePackets ∧
    ((sUrx 200 (fun g => { g with demuxAttach := false })).eng 0).demuxAttach = false := by
  decide +kernel
/-- The raw client is set, the format changes with a PES in progress, and two source packets come. -/
def urx2 : State := tape [yes, no, yes] (args 0x01884FA0 0x40 5 0 (((withEng
  { eng .urx with demuxAttach := true, urxCallback := true, lastFmt := some 0 }).modTs 0
    (fun d => { vid 20 d with videoPid := ⟨true, 0x100⟩, pesFreeV := [1] })).writeBytes 0x40
      ([2, 6, 0xC4, 0x10, 0xA0, 0, 0, 0, 0, 0, 0x12, 0x34] ++ packet 0x41 0 0x10 0 ++
        [0, 0, 0x56, 0x78] ++ packet 0x01 0 0x11 0)))
theorem witness_UrxResult_callback : urx2.idle ∧ (urx2.eng 0).urxCallback = true ∧
    urx2.answers [yes] [no, yes] 1 ∧ (urx2.eng 0).lastFmt.isSome = true ∧
    (urx2.eng 0).lastFmt ≠ some (cipHeader (urx2.readBytes 0x40 392)).fmt ∧
    min ((392 - 8) / 192) urx2.par.maxSourcePackets = 2 ∧ urx2.par.bufBytes ≤ 2 ^ 32 ∧
    0x40 + 392 ≤ urx2.par.bufBytes ∧
    ((urx2.told [.urxPacket 0 0x01884FA0 0x40 392 5] [no, yes]).within (.tsFlush 0) 0x01884FA0 0x40
      5).drawn = 2 ∧ ∀ d ∈ urx2.tape, d.quiet := by decide +kernel
def utx : State := args 2 0 0 0 (tape
  [{ word := 0x00104FA0, acts := [.poke 0x120 7, .poke 0xFFFF 3] }, yes] (withEng (eng .utx)))
theorem witness_UtxResult : utx.idle ∧ 0 < utx.inst.length ∧ (utx.eng 0).setupDone = true ∧
    (utx.eng 0).kind = .utx ∧
    utx.arg0.toNat ≤ (utx.eng 0).segments.toNat * (utx.eng 0).cyclesPerSeg.toNat ∧
    utx.tape = { word := 0x00104FA0, acts := [.poke 0x120 7, .poke 0xFFFF 3] } :: [yes] ∧
    [HostAct.poke 0x120 7, .poke 0xFFFF 3] =
      [(0x120, 7), (0xFFFF, 3)].map (fun b : Nat × Byte => .poke b.1 b.2) ∧
    (∀ b ∈ [(0x120, (7 : Byte)), (0xFFFF, 3)], b.1 < utx.par.bufBytes) ∧
    utx.par.bufBytes ≤ 0x10000 ∧ (base.eng 0).setupDone = false := by decide +kernel
theorem witness_ResetState : (next .reset ring4).nextAction = (.reset, ring4) := rfl
def peRx : State := tape
  [{ word := 1, bytes := [1, 2, 3, 4] }, { word := 2, bytes := [5, 6, 7, 8] }, ans 9, yes] (withEng
    { running .urx with cyclesPerSeg := 2, cycleBufSize := 4, bufBase := 0xFFEC })
theorem witness_PortEngineSegment : (next (.peSegment 0) peRx).nextAction = (.peSegment 0, peRx) ∧
    0 < peRx.inst.length ∧ (peRx.eng 0).peRunning = true ∧
    (peRx.eng 0).jump[(peRx.eng 0).peSeg]? = some (.start 1) ∧
    (peRx.eng 0).kind.isReceive = true ∧
    peRx.tape = [{ word := 1, bytes := [1, 2, 3, 4] }, { word := 2, bytes := [5, 6, 7, 8] }] ++
      ans 9 :: [yes] ∧ 0xFFEC + (0 * 2 + 2) * 4 ≤ peRx.par.bufBytes := by decide +kernel
def peTx : State := tape [ans 9, yes] ((withEng
  { running .utx with
    cyclesPerSeg := 2, cycleBufSize := 4
    slotHdr := [(0, 0x00020000), (1, 0x00010000)] }).writeBytes 0x100 [1, 2, 3, 4, 5, 6, 7, 8])
theorem witness_PortEngineSegment_send :
    (next (.peSegment 0) peTx).nextAction = (.peSegment 0, peTx) ∧ (peTx.eng 0).peRunning = true ∧
    (peTx.eng 0).jump[(peTx.eng 0).peSeg]? = some (.start 1) ∧
    (peTx.eng 0).kind.isReceive = false ∧ peTx.tape = ans 9 :: [yes] ∧
    (∀ i, i < 2 → sparseGet (peTx.eng 0).slotHdr (0 * 2 + i) =
        some (if i = 0 then 0x00020000 else 0x00010000) ∧
      0x100 + (0 * 2 + i) * 4 + dataLength (if i = 0 then 0x00020000 else 0x00010000) ≤
        peTx.par.bufBytes) := by decide +kernel
/-- Segment 1 ends in the overrun descriptor, whose buffer is the last of BUF. -/
def peLast : State := tape [{ word := 1, bytes := [1, 2] }, ans 9, { word := 3, bytes := [5, 6] }, yes]
  (withEng { running .urx with peSeg := 1, cycleBufSize := 4, bufBase := 0xFFF4 })
def peLastTx : State := tape [ans 9, yes] ((withEng
  { running .utx with
    peSeg := 1, cycleBufSize := 4
    slotHdr := [(1, 0x00020000), (2, 0)] }).writeBytes 0x100 [1, 2, 3, 4, 5, 6, 7, 8])
theorem witness_PortEngineSegment_overrun :
    (next (.peSegment 0) peLast).nextAction = (.peSegment 0, peLast) ∧
    (peLast.eng 0).jump[(peLast.eng 0).peSeg]? = some .overrun ∧
    (peLast.eng 0).peSeg < (peLast.eng 0).segments.toNat ∧
    peLast.tape = [{ word := 1, bytes := [1, 2] }] ++ ans 9 :: { word := 3, bytes := [5, 6] } :: [yes] ∧
    0xFFF4 + (2 * 1 + 1) * 4 ≤ peLast.par.bufBytes ∧
    (next (.peSegment 0) peLastTx).nextAction = (.peSegment 0, peLastTx) ∧
    (peLastTx.eng 0).jump[(peLastTx.eng 0).peSeg]? = some .overrun ∧
    (∀ k, k = 1 ∨ k = 2 → sparseGet (peLastTx.eng 0).slotHdr k =
        some (if k = 1 then 0x00020000 else 0) ∧
      0x100 + k * 4 + dataLength (if k = 1 then 0x00020000 else 0) ≤ peLastTx.par.bufBytes) := by
  refine ⟨rfl, by decide, by decide, by decide, by decide, rfl, by decide, ?_⟩
  rintro k (rfl | rfl) <;> decide
theorem witness_PortEngineSegment_moves :
    (next (.peFinalize 0) ringed).nextAction = (.peFinalize 0, { ringed with agenda := [] }) ∧
    0 < (ringed.eng 0).peStops ∧ (base.eng 0).peStops = 0 ∧
    (next (.peForceStop 0) peRx).nextAction = (.peForceStop 0, peRx) ∧ (peRx.eng 0).peRunning = true ∧
    (next (.watchdog 0) armed).nextAction = (.watchdog 0, armed) ∧ (armed.eng 0).wdArmed = true ∧
    (next (.pollTimeout 0) (owed 1 true .urx)).nextAction = (.pollTimeout 0, owed 1 true .urx) ∧
    ((owed 1 true .urx).eng 0).stopHold = true ∧
    (next (.peSegment 0) base).nextAction = (.peSegment 0, base) ∧ (base.eng 0).peRunning = false :=
  ⟨rfl, by decide, by decide, rfl, by decide, rfl, by decide, rfl, by decide, rfl, by decide⟩
theorem witness_ResetState_params : Config.params.wf = true := by decide
theorem witness_ReceiveFrame : (∃ t, exec (.dvrCycle 0) done1 = .next t ∧ done1.quietTo t) ∧
    (∃ t, exec (.tsPacket 0) exceeds = .next t ∧ exceeds.quietTo t) ∧
    (∃ t, exec (.tsFlush 0) gap = .next t ∧ gap.quietTo t) ∧
    (∃ t, exec (.urxCycle 0) (sUrx 200 id) = .next t ∧ (sUrx 200 id).quietTo t) :=
  ⟨runs_quiet (by decide +kernel), runs_quiet (by decide +kernel), runs_quiet (by decide +kernel),
    runs_quiet (by decide +kernel)⟩
theorem witness_TransmitFrame : (∃ t, exec (.dvtCycle 0) sending = .next t ∧ sending.quietTo t) ∧
    (∃ t, exec (.utxCycle 0) { utx with tape := [ans 0x00104FA0] } = .next t ∧
      ({ utx with tape := [ans 0x00104FA0] } : State).quietTo t) ∧
    sending.par.dvRow (sending.dvt 0).dvMode = some row0 :=
  ⟨runs_quiet (by decide +kernel), runs_quiet (by decide +kernel), by decide⟩
theorem witness_EngineFrame : (∃ t, exec (.engStart 0) startDvr = .next t ∧ startDvr.quietTo t) ∧
    (∃ t, exec (.evSegment 0 0) ring4 = .next t ∧ ring4.quietTo t) ∧
    (∃ t, exec (.evOverrun 0) stalled = .next t ∧ stalled.quietTo t) ∧
    (∃ t, exec (.evForceStop 0) stalled = .next t ∧ stalled.quietTo t) ∧
    (∃ t, exec (.evFinalize 0) (owed 1 true .dvtx) = .next t ∧ (owed 1 true .dvtx).quietTo t) ∧
    startChecks startDvr.par (startDvr.instAt 0) = true :=
  ⟨runs_quiet (by decide +kernel), runs_quiet (by decide +kernel), runs_quiet (by decide +kernel),
    runs_quiet (by decide +kernel), runs_quiet (by decide +kernel), by decide +kernel⟩

end Sys2Proof.Tests
end

section
/-! PROOF. Every step keeps the register law (obligation O10). Each move of a step leaves the parameters and
the number of instances and of frame records as they are, and changes BUF, STATUS and FAULTS only in ways
that their laws survive; `step_moves` puts the moves together. -/

namespace Sys2Proof.Machine

/-- The register law holds afterwards if it does before. -/
def KeepsRegisterLaw (s t : State) : Prop := s.registerLaw → t.registerLaw

/-- The frame stores of one index hold as many records as the parameters say (10_state.md R30, R33). -/
def Inst.storesFilled (p : Params) (x : Inst) : Prop :=
  x.dvr.frames.length = p.fRx ∧ x.dvt.frames.length = p.fTx

theorem Inst.reset_storesFilled (p : Params) : (Inst.reset p).storesFilled p := by
  simp [Inst.storesFilled, Inst.reset, Dvr.reset, Dvt.reset]

/-! ### The registers -/

theorem Status.code_le (c : Status) : c.code.toNat ≤ 7 := by cases c <;> decide

theorem BlockFault.bit_lt (f : BlockFault) : f.bit < 7 := by cases f <;> simp [BlockFault.bit]

/-- A raise sets one of the bits 0 to 6 of FAULTS (60_exceptions.md R314). -/
theorem BlockFault.flag_lt (f : BlockFault) {w : Word} (h : w.toNat < 128) :
    (f.flag w).toNat < 128 := by
  have hbit : (1#32 <<< f.bit).toNat < 2 ^ 7 := by
    rw [BitVec.toNat_shiftLeft, Nat.shiftLeft_eq]
    exact lt_of_le_of_lt (Nat.mod_le _ _)
      (by simpa using Nat.pow_lt_pow_right (a := 2) (by decide) f.bit_lt)
  rw [BlockFault.flag, BitVec.toNat_or]
  exact Nat.or_lt_two_pow (n := 7) h hbit

/-! ### The moves, by what they change -/

/-- A move outside the parameters, the instances, BUF, STATUS and FAULTS. -/
theorem keepsRegisterLaw_of_same {s t : State} (hpar : t.par = s.par) (hinst : t.inst = s.inst)
    (hbuf : t.buf = s.buf) (hstatus : t.status = s.status) (hfaults : t.faults = s.faults) :
    KeepsRegisterLaw s t := by
  simp [KeepsRegisterLaw, State.registerLaw, State.every, hpar, hinst, hbuf, hstatus, hfaults]

theorem keepsRegisterLaw_setStatus (s : State) (c : Status) : KeepsRegisterLaw s (s.setStatus c) :=
  fun ⟨hpar, hlen, hstores, hbuf, _, hfaults⟩ => ⟨hpar, hlen, hstores, hbuf, c.code_le, hfaults⟩

theorem keepsRegisterLaw_takeFault (s : State) (f : BlockFault) :
    KeepsRegisterLaw s (s.takeFault f) :=
  fun ⟨hpar, hlen, hstores, hbuf, hstatus, hfaults⟩ =>
    ⟨hpar, hlen, hstores, hbuf, hstatus, f.flag_lt hfaults⟩

theorem keepsRegisterLaw_writeBytes (s : State) (a : Nat) (bs : List Byte)
    (h : a + bs.length ≤ s.par.bufBytes) : KeepsRegisterLaw s (s.writeBytes a bs) :=
  fun ⟨hpar, hlen, hstores, hbuf, hstatus, hfaults⟩ =>
    ⟨hpar, hlen, hstores, writeBytes_wf hbuf h, hstatus, hfaults⟩

/-- Reset brings back E_INST instances, each with its reset stores, and leaves BUF and the parameters
(70_reset_and_hazards.md R341). -/
theorem keepsRegisterLaw_resetBlock (s : State) : KeepsRegisterLaw s s.resetBlock := by
  rintro ⟨hpar, -, -, hbuf, -, -⟩
  refine ⟨hpar, List.length_replicate, fun x hx => ?_, hbuf, Nat.zero_le 7,
    (by decide : (0#32).toNat < 128)⟩
  obtain rfl : x = Inst.reset s.par := List.eq_of_mem_replicate hx
  exact Inst.reset_storesFilled s.par

/-- The units of one index may be replaced by others whose frame stores are of the same size. -/
theorem keepsRegisterLaw_setInst {s : State} {e : Nat} {x : Inst}
    (hrx : x.dvr.frames.length = (s.dvr e).frames.length)
    (htx : x.dvt.frames.length = (s.dvt e).frames.length) : KeepsRegisterLaw s (s.setInst e x) := by
  rintro ⟨hpar, hlen, hstores, hbuf, hstatus, hfaults⟩
  have hstores' : (s.setInst e x).every (Inst.storesFilled s.par) :=
    keepsEvery_setInst (fun ⟨h1, h2⟩ => ⟨hrx.trans h1, htx.trans h2⟩) hstores
  exact ⟨hpar, by simpa using hlen, hstores', hbuf, hstatus, hfaults⟩

theorem keepsRegisterLaw_modEng (s : State) (e : Nat) (g : Eng → Eng) :
    KeepsRegisterLaw s (s.modEng e g) := keepsRegisterLaw_setInst rfl rfl

theorem keepsRegisterLaw_modTs (s : State) (e : Nat) (g : Ts → Ts) :
    KeepsRegisterLaw s (s.modTs e g) := keepsRegisterLaw_setInst rfl rfl

theorem keepsRegisterLaw_modDvr {s : State} {e : Nat} {g : Dvr → Dvr}
    (hg : (g (s.dvr e)).frames.length = (s.dvr e).frames.length) :
    KeepsRegisterLaw s (s.modDvr e g) := keepsRegisterLaw_setInst hg rfl

theorem keepsRegisterLaw_modDvt {s : State} {e : Nat} {g : Dvt → Dvt}
    (hg : (g (s.dvt e)).frames.length = (s.dvt e).frames.length) :
    KeepsRegisterLaw s (s.modDvt e g) := keepsRegisterLaw_setInst rfl hg

/-- No CSR_WRITE changes the size of a frame store (10_state.md R29, R32). -/
theorem keepsRegisterLaw_csrStore (s : State) (i : Nat) (c : Csr) (w : Word) :
    KeepsRegisterLaw s (s.setInst i (c.store (s.instAt i) w)) := by
  obtain ⟨hrx, htx⟩ := Csr.store_frames (s.instAt i) w c
  exact keepsRegisterLaw_setInst (congrArg List.length hrx) (congrArg List.length htx)

/-! ### Every move of a step -/

theorem keepsRegisterLaw_calls : CallStable KeepsRegisterLaw where
  refl _ := id
  trans a b := b ∘ a
  setCmd _ _ := keepsRegisterLaw_of_same rfl rfl rfl rfl rfl
  setStatus := keepsRegisterLaw_setStatus
  setRes0 _ _ := keepsRegisterLaw_of_same rfl rfl rfl rfl rfl
  setRes1 _ _ := keepsRegisterLaw_of_same rfl rfl rfl rfl rfl
  setRes2 _ _ := keepsRegisterLaw_of_same rfl rfl rfl rfl rfl
  setRes3 _ _ := keepsRegisterLaw_of_same rfl rfl rfl rfl rfl
  hostWrite _ r _ := by cases r <;> exact keepsRegisterLaw_of_same rfl rfl rfl rfl rfl
  writeBytes := keepsRegisterLaw_writeBytes
  takeFault := keepsRegisterLaw_takeFault
  release _ _ f _ _ _ := keepsRegisterLaw_modDvr (Dvr.release_length _ f)
  releaseBuf s e _ _ _ := keepsRegisterLaw_modTs s e _
  setWatchdog s e _ := keepsRegisterLaw_modEng s e _
  enterCallback _ _ := keepsRegisterLaw_of_same rfl rfl rfl rfl rfl
  leaveCallback _ := keepsRegisterLaw_of_same rfl rfl rfl rfl rfl
  emit _ _ := keepsRegisterLaw_of_same rfl rfl rfl rfl rfl
  takeDraw _ _ _ := keepsRegisterLaw_of_same rfl rfl rfl rfl rfl

theorem keepsRegisterLaw_engine (e : Nat) : EngineMoves KeepsRegisterLaw e where
  toShared := keepsRegisterLaw_calls.shared
  abandonFrame _ f _ := keepsRegisterLaw_modDvr (Dvr.abandonFrame_length _ f)
  beginFrame _ f rest len syt ts _ _ :=
    keepsRegisterLaw_modDvr (Dvr.beginFrame_length _ f rest len syt ts)
  fillFrame _ f bytes _ := keepsRegisterLaw_modDvr (Dvr.fillFrame_length _ f bytes)
  dispatchFrame _ f _ := keepsRegisterLaw_modDvr (Dvr.dispatchFrame_length _ f)
  dropReference _ f := keepsRegisterLaw_modDvr (Dvr.dropReference_length _ f)
  endDispatch _ f := keepsRegisterLaw_modDvr (Dvr.endDispatch_length _ f)
  lawful s _ _ := keepsRegisterLaw_modTs s e _
  allocCurrent s _ _ := keepsRegisterLaw_modTs s e _
  deliverBuf s _ _ _ := keepsRegisterLaw_modTs s e _
  lastFmt s _ := keepsRegisterLaw_modEng s e _
  slotHdr s _ _ := keepsRegisterLaw_modEng s e _
  record _ _ hg := keepsRegisterLaw_modDvt (hg _)
  steal s := keepsRegisterLaw_modEng s e _
  writeBytes := keepsRegisterLaw_writeBytes
  same s _ _ := keepsRegisterLaw_modEng s e _
  addRegion _ _ := keepsRegisterLaw_of_same rfl rfl rfl rfl rfl
  setRes0 := keepsRegisterLaw_calls.setRes0
  setRes1 := keepsRegisterLaw_calls.setRes1
  setStatus := keepsRegisterLaw_setStatus
  setupFailed s _ _ := keepsRegisterLaw_modEng s e _
  finishSetup s _ _ _ _ _ := keepsRegisterLaw_modEng s e _
  armRing s := keepsRegisterLaw_modEng s e _
  enterRun s _ _ := keepsRegisterLaw_modEng s e _
  stopPe s := keepsRegisterLaw_modEng s e _
  hold s := keepsRegisterLaw_modEng s e _
  restartFailed s := keepsRegisterLaw_modEng s e _
  advance s _ _ := keepsRegisterLaw_modEng s e _

theorem keepsRegisterLaw_moves : StepMoves KeepsRegisterLaw where
  toCallStable := keepsRegisterLaw_calls
  engine := keepsRegisterLaw_engine
  register _ _ := keepsRegisterLaw_modDvr rfl
  csrStore s i c w _ := keepsRegisterLaw_csrStore s i c w
  reset := keepsRegisterLaw_resetBlock
  pushEvent s e _ _ := keepsRegisterLaw_modEng s e _
  confirmStop s e _ := keepsRegisterLaw_modEng s e _
  takeEvent s e _ _ _ _ := keepsRegisterLaw_modEng s e _
  takeFinalize s e _ _ := keepsRegisterLaw_modEng s e _
  appendWire _ _ := keepsRegisterLaw_of_same rfl rfl rfl rfl rfl
  agenda _ _ := keepsRegisterLaw_of_same rfl rfl rfl rfl rfl
  drawn _ _ := keepsRegisterLaw_of_same rfl rfl rfl rfl rfl

/-- Settles O10: the register law is one that every move of a step keeps. -/
theorem stepKeepsRegisterLaw : Obligations.StepKeepsRegisterLaw :=
  fun _ _ hlaw hstep => step_moves keepsRegisterLaw_moves hstep hlaw

end Sys2Proof.Machine
end

section
/-! PROOF. A step runs the decoded instruction, and the other registers of the command port (obligation O8).
Each move of the schedule that the statement names has one equation; that an offered instruction is the one
that runs needs beside them only that a command's decoding ignores the argument an event would carry. -/

namespace Sys2Proof

/-- Only the row of EV_SEGMENT reads the carried argument (30_encoding.md R87; 42_buffer_engine.md R163). -/
theorem decodeFields_arg {u o : Byte} (h : ¬ (u = 0x03 ∧ o = 0x10)) (m a b : Half) :
    decodeFields u o m a = decodeFields u o m b := by
  unfold decodeFields
  by_cases hu : u = 0x03
  · have ho : o ≠ 0x10 := fun ho => h ⟨hu, ho⟩
    simp only [hu, ho, if_false]
  · simp only [hu, if_false]

/-- A word that decodes to a command does so whatever argument stands beside it. -/
theorem decode_command_arg {w : Word} {a : Half} {i : Instr} (h : decode w a = .ok i)
    (hi : i.isEvent = false) (b : Half) : decode w b = .ok i := by
  have hop : ¬ (unitField w = 0x03 ∧ opField w = 0x10) := by
    rintro ⟨hu, ho⟩
    obtain ⟨hcode, -⟩ := decode_cases h
    rw [hu, ho] at hcode
    cases i <;> simp [Instr.opcode, Instr.isEvent] at hcode hi
  rw [decode, decodeFields_arg hop _ b a]
  exact h

/-- A word whose decoding is a command stands for it on CMD, too (30_encoding.md R90). -/
theorem decodeCommand_of_decode {w : Word} {a : Half} {i : Instr} (h : decode w a = .ok i)
    (hi : i.isEvent = false) : decodeCommand w = .ok i := by
  rw [decodeCommand, decode_command_arg h hi 0]
  simp [hi]

/-- The words of a table entry are the word and the argument beside it (log 18). -/
theorem decodeTableWord_eq_some {nbits w : Nat} {i : Instr} (h : decodeTableWord nbits w = some i) :
    ∃ a, decode (BitVec.ofNat 32 (w % 2 ^ nbits)) a = .ok i := by
  simp only [decodeTableWord, tableWords, decodeWords, Except.toOption] at h
  split at h
  · next j hj => exact ⟨_, by rw [hj, Option.some.inj h]⟩
  · contradiction

end Sys2Proof

namespace Sys2Proof.Machine

/-! ### The moves of the schedule -/

/-- RES, STATUS and FAULTS are not the host's to write (10_state.md R21). -/
theorem hostWrite_readOnly {s : State} {r : HostReg} {v : Word}
    (hr : r ∈ [HostReg.res0, .res1, .res2, .res3, .status, .faults]) : s.hostWrite r v = s := by
  simp only [List.mem_cons, List.not_mem_nil, or_false] at hr
  rcases hr with rfl | rfl | rfl | rfl | rfl | rfl <;> rfl

section

variable {s s' : State}

/-- A scheduled host step is what the step does (10_state.md R28). -/
theorem step_host {a : HostAct} (h : s.nextAction = (.host a, s')) : step s = hostStep a s' := by
  rw [step, h]
  rfl

/-- A host write to a register other than CMD (R21). -/
theorem step_host_write {r : HostReg} {v : Word} (hr : r ≠ .cmd)
    (h : s.nextAction = (.host (.write r v), s')) : step s = .next (s'.hostWrite r v) := by
  rw [step_host h]
  cases r with
  | cmd => exact absurd rfl hr
  | _ => rfl

/-- A word of a command written to CMD runs the command (60_exceptions.md R320). -/
theorem step_host_command {w : Word} {i : Instr} (h : s.nextAction = (.host (.write .cmd w), s'))
    (hhalt : s'.halted = false) (hhold : s'.holding = false) (hi : decodeCommand w = .ok i) :
    step s = exec i (s'.setCmd w) := by
  rw [step_host h]
  simp [hostStep, issue, hhalt, hhold, hi]

/-- The event at the head of a queue is taken off it and runs (60_exceptions.md R317). -/
theorem step_consume {e : Nat} {v : Event} {rest : List Event} (h : s.nextAction = (.consume e, s'))
    (hhalt : s'.halted = false) (hv : (s'.eng e).events = v :: rest) :
    step s = exec (v.toInstr e) (s'.modEng e (fun g => { g with events := rest })) := by
  rw [step, h]
  simp [perform, consumeEvent, hhalt, hv]

end

/-! ### Instructions that are offered to the next step (log 3) -/

theorem asEventOf_of_command {i : Instr} (h : i.isEvent = false) : Instr.asEventOf i = none := by
  cases i <;> simp [Instr.isEvent, Instr.asEventOf] at h ⊢

/-- An event word is the event of the index it names. -/
theorem asEventOf_of_event {i : Instr} (h : i.isEvent = true) :
    ∃ e v, Instr.asEventOf i = some (e, v) ∧ Event.toInstr e v = i ∧ namedInstance i = some e := by
  cases i <;> simp only [Instr.isEvent, Bool.false_eq_true] at h
  all_goals exact ⟨_, _, rfl, rfl, rfl⟩

section

variable {nbits w : Nat} {i : Instr} (s : State)

theorem withFetchWord_event {e : Nat} {v : Event} (hw : decodeTableWord nbits w = some i)
    (hev : Instr.asEventOf i = some (e, v)) : s.withFetchWord nbits w = s.offerEvent e v := by
  have hbind : (decodeTableWord nbits w).bind Instr.asEventOf = some (e, v) := by
    rw [hw, Option.bind_some, hev]
  simp only [decodeTableWord, tableWords] at hbind
  simp only [State.withFetchWord, tableWords, State.offerWords, hbind]

theorem withFetchWord_command (hw : decodeTableWord nbits w = some i) (hi : i.isEvent = false) :
    s.withFetchWord nbits w = s.offerCommand (BitVec.ofNat 32 (w % 2 ^ nbits)) := by
  have hbind : (decodeTableWord nbits w).bind Instr.asEventOf = none := by
    rw [hw, Option.bind_some, asEventOf_of_command hi]
  simp only [decodeTableWord, tableWords] at hbind
  simp only [State.withFetchWord, tableWords, State.offerWords, hbind]

end

/-- The event offered is the next step, and taking it off its queue gives the state before the offer. -/
theorem step_offerEvent {s : State} {e : Nat} (v : Event) (hhalt : s.halted = false)
    (he : e < s.inst.length) : step (s.offerEvent e v) = exec (v.toInstr e) s := by
  have hnext : (s.offerEvent e v).nextAction =
      (.consume e, s.modEng e (fun g => { g with events := v :: g.events })) := rfl
  rw [step_consume hnext hhalt (by rw [eng_modEng_same s _ he]), modEng_modEng, modEng_self s e _ rfl]

/-- The command offered is the next step. -/
theorem step_offerCommand {s : State} {w : Word} {i : Instr} (hhalt : s.halted = false)
    (hhold : s.holding = false) (hi : decodeCommand w = .ok i) :
    step (s.offerCommand w) = exec i (s.setCmd w) :=
  step_host_command (s := s.offerCommand w) (s' := s) rfl hhalt hhold hi

/-- An instruction placed by `withFetchWord` is the one that the next step runs. -/
theorem step_withFetchWord {s : State} {nbits w : Nat} {i : Instr} (hhalt : s.halted = false)
    (hhold : s.holding = false) (hw : decodeTableWord nbits w = some i)
    (hinst : i.isEvent = true → s.hasInstance i = true) :
    step (s.withFetchWord nbits w) =
      exec i (if i.isEvent then s else s.setCmd (BitVec.ofNat 32 (w % 2 ^ nbits))) := by
  cases hi : i.isEvent with
  | true =>
    obtain ⟨e, v, hev, rfl, hname⟩ := asEventOf_of_event hi
    have he : e < s.inst.length := by
      have hexists := hinst hi
      rw [State.hasInstance, hname] at hexists
      exact of_decide_eq_true hexists
    rw [withFetchWord_event s hw hev]
    exact step_offerEvent v hhalt he
  | false =>
    obtain ⟨a, ha⟩ := decodeTableWord_eq_some hw
    rw [withFetchWord_command s hw hi]
    exact step_offerCommand hhalt hhold (decodeCommand_of_decode ha hi)

/-- Settles O8: each clause is the equation of its move of the schedule. -/
theorem stepRunsTheInstruction : Obligations.StepRunsTheInstruction := by
  refine ⟨fun s s' v => ⟨?arg0, ?arg1, ?arg2, ?arg3, ?ignored⟩, ?reads, ?values, ?command, ?event,
    ?offered⟩
  case arg0 | arg1 | arg2 | arg3 => exact step_host_write (by decide)
  case ignored =>
    intro r hr h
    have hcmd : r ≠ .cmd := by rintro rfl; simp at hr
    rw [step_host_write hcmd h, hostWrite_readOnly hr]
  case reads => exact fun s s' r h => step_host h
  case values =>
    intro s r v h
    cases r <;> simp_all [State.hostRead]
  case command => exact fun s s' w i => step_host_command
  case event => exact fun s s' e v rest => step_consume
  case offered => exact fun s nbits w i => step_withFetchWord

end Sys2Proof.Machine
end

section
/-! PROOF. What a legal CSR_WRITE stores, and that a successful one is read back (obligations O19 and O22).
CSR_WRITE has one equation for every CSR; what is left are facts about the fields: the store of a field takes
no other bits than its mask's, and its view shows exactly those. -/

namespace Sys2Proof.Machine

/-! ### Masks -/

section

variable {m : Word} {k : Nat}

/-- A mask of the low `k` bits cuts a word's value to them. -/
theorem toNat_and_lowMask (hm : m = (BitVec.allOnes k).setWidth 32) (hk : k ≤ 32) (v : Word) :
    (v &&& m).toNat = v.toNat % 2 ^ k := by
  have hlt : 2 ^ k - 1 < 2 ^ 32 :=
    lt_of_lt_of_le (Nat.sub_lt (Nat.two_pow_pos k) Nat.one_pos) (Nat.pow_le_pow_right (by decide) hk)
  rw [hm, BitVec.toNat_and, BitVec.toNat_setWidth, BitVec.toNat_allOnes, Nat.mod_eq_of_lt hlt,
    Nat.and_two_pow_sub_one_eq_mod]

/-- A field of `k` bits takes no others of the word written to it. -/
theorem setWidth_and_lowMask (hm : m.setWidth k = BitVec.allOnes k) (v : Word) :
    (v &&& m).setWidth k = v.setWidth k := by
  rw [BitVec.setWidth_and, hm, BitVec.and_allOnes]

/-- A field of `k` bits shows the word written to it cut to them. -/
theorem setWidth_setWidth_lowMask (hm : m = (BitVec.allOnes k).setWidth 32) (v : Word) :
    (v.setWidth k).setWidth 32 = v &&& m := by
  apply BitVec.eq_of_getLsbD_eq
  intro j hj
  simp [hm, hj, Bool.and_comm]

end

/-- A field of one bit shows that bit of the word written to it. -/
theorem setWidth_ofBool_getLsbD (v : Word) : (BitVec.ofBool (v.getLsbD 0)).setWidth 32 = v &&& 1 := by
  apply BitVec.eq_of_getLsbD_eq
  intro j hj
  rcases j with _ | j <;> simp

/-! ### The fields of a register -/

@[simp] theorem Kind.ofCode_code (c : BitVec 2) : (Kind.ofCode c).code = c := by
  revert c
  decide

theorem PidReg.ofWord_eq (v : Word) : PidReg.ofWord v = ⟨v.getLsbD 15, v.setWidth 13⟩ := rfl

theorem PidReg.ofWord_and_mask (v : Word) : PidReg.ofWord (v &&& 0x9FFF) = PidReg.ofWord v := by
  rw [PidReg.ofWord_eq, setWidth_and_lowMask (by decide)]
  simp [PidReg.ofWord_eq]

/-- A PID register shows bit 15 and bits [12:0] of the word written to it (10_state.md R34; log 28). -/
theorem PidReg.word_ofWord (v : Word) : (PidReg.ofWord v).word = v &&& 0x9FFF := by
  apply BitVec.eq_of_getLsbD_eq
  intro j hj
  simp only [PidReg.word, PidReg.ofWord_eq, BitVec.getLsbD_setWidth, BitVec.getLsbD_append,
    BitVec.getLsbD_and]
  interval_cases j <;> simp

/-- A stream's reset leaves the registers of its unit (45_ts_demux.md R290). -/
@[simp] theorem Ts.resetStream_registers (t : Ts) (y : StreamType) :
    (t.resetStream y).mode = t.mode ∧ (t.resetStream y).videoPid = t.videoPid ∧
      (t.resetStream y).audioPid = t.audioPid := by
  unfold Ts.resetStream Ts.emptyCurrent
  split <;> cases y <;> exact ⟨rfl, rfl, rfl⟩

/-! ### The store and the view of a CSR -/

/-- A store takes no other bits of the word written than those of the field's mask (10_state.md R25). -/
theorem Csr.store_and_mask (c : Csr) (x : Inst) (v : Word) : c.store x (v &&& c.mask) = c.store x v := by
  cases c with
  | engKind | engSegments | engCyclesPerSeg | engMinPayload | engChannel | engRecoveryThreshold
  | dvrDvMode | dvrFrameSel | dvtDvMode | dvtBlocksPerCycle | dvtFrameSel =>
    simp only [Csr.store, Csr.mask]
    rw [setWidth_and_lowMask (by decide)]
  | tsMode =>
    have hbits := setWidth_and_lowMask (m := Csr.mask .tsMode) (k := 4) (by decide) v
    simp only [Csr.store, hbits]
  | engDemuxAttach | engUrxCallback => simp [Csr.store, Csr.mask]
  | dvtTxFrameBase | tsPsiTimeout =>
    simp only [Csr.mask]
    rw [show v &&& 0xFFFFFFFF = v from BitVec.and_allOnes]
  | tsVideoPid | tsAudioPid | tsPmtPid => simp only [Csr.store, Csr.mask, PidReg.ofWord_and_mask]
  | _ => rfl

/-- A field that is not read-only shows the word stored, cut to its mask (47_control.md R301, R302). -/
theorem Csr.value_store {c : Csr} (hc : c.access ≠ .ro) (x : Inst) (v : Word) :
    c.value (c.store x v) = v &&& c.mask := by
  cases c with
  | engSegments | engCyclesPerSeg | engMinPayload | engChannel | engRecoveryThreshold
  | dvrDvMode | dvrFrameSel | dvtDvMode | dvtBlocksPerCycle | dvtFrameSel =>
    exact setWidth_setWidth_lowMask (by decide) v
  | engKind =>
    rw [Csr.value, Csr.store, Kind.ofCode_code]
    exact setWidth_setWidth_lowMask (by decide) v
  | engDemuxAttach | engUrxCallback => exact setWidth_ofBool_getLsbD v
  | dvtTxFrameBase | tsPsiTimeout => exact BitVec.and_allOnes.symm
  | tsMode =>
    simp only [Csr.value, Csr.store]
    split <;> simp only [Ts.resetStream_registers] <;> exact setWidth_setWidth_lowMask (by decide) v
  | tsVideoPid | tsAudioPid =>
    simp only [Csr.value, Csr.store]
    split <;> simp only [Ts.resetStream_registers] <;> exact PidReg.word_ofWord v
  | tsPmtPid => exact PidReg.word_ofWord v
  | _ => exact absurd rfl hc

/-! ### What a write asks of the engine and of the value -/

section

variable {g : Eng} {c : Csr}

theorem Csr.access_of_writable (h : c.writable g = true) : c.access ≠ .ro := by
  intro hro
  simp [Csr.writable, hro] at h

theorem Csr.writable_rw (hc : c.access = .rw) : c.writable g = true := by
  simp [Csr.writable, hc]

theorem Csr.writable_rws (hc : c.access = .rws) (h : g.setupDone = false) : c.writable g = true := by
  simp [Csr.writable, hc, h]

theorem Csr.writable_rwt (hc : c.access = .rwt) (h : g.running = false) : c.writable g = true := by
  simp [Csr.writable, hc, h]

end

theorem Csr.legal_blocksPerCycle {p : Params} {x : Inst} {v : Word} (h : v.toNat % 8 ∈ [1, 2, 4]) :
    Csr.legal p x (v &&& Csr.mask .dvtBlocksPerCycle) .dvtBlocksPerCycle = true := by
  have hcut : (v &&& 7).toNat = v.toNat % 8 := toNat_and_lowMask (k := 3) (by decide) (by decide) v
  have hword : ∀ w : Word, w.toNat ∈ [1, 2, 4] → (w == 1 || w == 2 || w == 4) = true := by
    intro w hw
    simpa [← BitVec.toNat_inj, or_assoc] using hw
  exact hword _ (hcut ▸ h)

theorem Csr.legal_psiTimeout {p : Params} {x : Inst} {v : Word} (h : v ≠ 0) :
    Csr.legal p x (v &&& Csr.mask .tsPsiTimeout) .tsPsiTimeout = true := by
  rw [show v &&& Csr.mask .tsPsiTimeout = v from BitVec.and_allOnes]
  have hpos : v.toNat ≠ 0 := fun h0 => h (BitVec.eq_of_toNat_eq h0)
  exact decide_eq_true (Nat.one_le_iff_ne_zero.mpr hpos)

/-! ### The two commands -/

section

variable {s : State} {u i n : Nat} {c : Csr}

/-- CSR_READ may run inside a callback (60_exceptions.md R319). -/
theorem exec_csrRead_run (hhalt : s.halted = false) (hi : i < s.inst.length) :
    exec (.csrRead u i n) s = .next (endCommand (csrReadBody u i n s)) :=
  asCommand_run_instance rfl hhalt hi (.inr rfl)

theorem exec_csrWrite_run (hs : s.idle) (hi : i < s.inst.length) :
    exec (.csrWrite u i n) s = .next (endCommand (csrWriteBody u i n s)) :=
  asCommand_run_instance rfl hs.1 hi (.inl hs.2)

/-- CSR_READ of a CSR that exists (47_control.md R301). -/
theorem exec_csrRead (hhalt : s.halted = false) (hi : i < s.inst.length) (hc : csrAt u n = some c) :
    exec (.csrRead u i n) s =
      .next ((s.setRes0 (c.value (s.instAt i))).setStatus .success) := by
  rw [exec_csrRead_run hhalt hi]
  simp [csrReadBody, hc]

/-- CSR_WRITE of a CSR that does not exist is refused (10_state.md R25). -/
theorem exec_csrWrite_undefined (hs : s.idle) (hi : i < s.inst.length) (hc : csrAt u n = none) :
    exec (.csrWrite u i n) s = .next (s.setStatus .badArgument) := by
  rw [exec_csrWrite_run hs hi]
  simp [csrWriteBody, hc]

/-- CSR_WRITE of a CSR that exists (47_control.md R302). -/
theorem exec_csrWrite (hs : s.idle) (hi : i < s.inst.length) (hc : csrAt u n = some c) :
    exec (.csrWrite u i n) s = .next (
      if c.writable (s.eng i) = true ∧ c.legal s.par (s.instAt i) (s.arg0 &&& c.mask) = true then
        (s.setInst i (c.store (s.instAt i) s.arg0)).setStatus .success
      else s.setStatus .badArgument) := by
  rw [exec_csrWrite_run hs hi, ← Csr.store_and_mask, State.eng]
  cases hw : c.writable (s.instAt i).eng <;>
    cases hl : c.legal s.par (s.instAt i) (s.arg0 &&& c.mask) <;> simp [csrWriteBody, hc, hw, hl]

/-- A CSR_WRITE that the access type and the legal set allow stores the field. -/
theorem exec_csrWrite_allowed (hs : s.idle) (hi : i < s.inst.length) (hc : csrAt u n = some c)
    (hw : c.writable (s.eng i) = true)
    (hl : c.legal s.par (s.instAt i) (s.arg0 &&& c.mask) = true) :
    exec (.csrWrite u i n) s =
      .next ((s.setInst i (c.store (s.instAt i) s.arg0)).setStatus .success) := by
  rw [exec_csrWrite hs hi hc, if_pos ⟨hw, hl⟩]

/-- A CSR_WRITE that answers Success has stored a field that it may write. -/
theorem exec_csrWrite_success {t : State} (hs : s.idle) (hi : i < s.inst.length)
    (ht : exec (.csrWrite u i n) s = .next t) (hst : t.status = 0x00) :
    ∃ c, csrAt u n = some c ∧ c.writable (s.eng i) = true ∧
      t = (s.setInst i (c.store (s.instAt i) s.arg0)).setStatus .success := by
  have hbad : t ≠ s.setStatus .badArgument := by
    rintro rfl
    exact absurd hst (by decide : Status.badArgument.code ≠ 0x00)
  cases hc : csrAt u n with
  | none =>
    rw [exec_csrWrite_undefined hs hi hc, Host.Outcome.next.injEq] at ht
    exact absurd ht.symm hbad
  | some c =>
    rw [exec_csrWrite hs hi hc, Host.Outcome.next.injEq] at ht
    split at ht
    · next h => exact ⟨c, rfl, h.1, ht.symm⟩
    · exact absurd ht.symm hbad

end

/-- Settles O22: a CSR_WRITE that answers Success has stored its field, whose view is the word written, cut to
the field's mask. -/
theorem csrReadsBackWrite : Obligations.CsrReadsBackWrite := by
  intro s t u i n hs hi ht hst
  obtain ⟨c, hc, hw, rfl⟩ := exec_csrWrite_success hs hi ht hst
  refine ⟨c, hc, ?_⟩
  have hinst : ((s.setInst i (c.store (s.instAt i) s.arg0)).setStatus .success).instAt i =
      c.store (s.instAt i) s.arg0 := instAt_setInst_same s _ hi
  rw [exec_csrRead (by simpa using hs.1) (by simpa using hi) hc, hinst,
    Csr.value_store (Csr.access_of_writable hw)]
  rfl

/-- Settles O19: each row of the table is a CSR whose access type and legal set the row's premise states. -/
theorem csrWriteStores : Obligations.CsrWriteStores := by
  intro s i hs hi v stopped unset u n c t hrow hc
  have hcut16 : (v &&& 0xFFFF).toNat = v.toNat % 2 ^ 16 :=
    toNat_and_lowMask (by decide) (by decide) v
  have hrow8 : (s.par.dvRow ((v &&& 0xFF).setWidth 8)).isSome =
      (s.par.dvRow (v.setWidth 8)).isSome := by
    rw [setWidth_and_lowMask (by decide)]
  simp only [List.mem_cons, Prod.mk.injEq, List.not_mem_nil, or_false] at hrow
  rcases hrow with ⟨rfl, rfl, rfl, rfl⟩ | ⟨rfl, rfl, rfl, rfl⟩ | ⟨rfl, rfl, rfl, rfl⟩ |
    ⟨rfl, rfl, rfl, rfl⟩ | ⟨rfl, rfl, rfl, rfl⟩ | ⟨rfl, rfl, rfl, rfl⟩ | ⟨rfl, rfl, rfl, rfl⟩ |
    ⟨rfl, rfl, rfl, rfl⟩ | ⟨rfl, rfl, rfl, rfl⟩ | ⟨rfl, rfl, rfl, rfl⟩ | ⟨rfl, rfl, rfl, rfl⟩ |
    ⟨rfl, rfl, rfl, rfl⟩ | ⟨rfl, rfl, rfl, rfl⟩ | ⟨rfl, rfl, rfl, rfl⟩ | ⟨rfl, rfl, rfl, rfl⟩ |
    ⟨rfl, rfl, rfl, rfl⟩
  · exact exec_csrWrite_allowed (c := .engKind) hs hi rfl (Csr.writable_rws rfl hc) rfl
  · exact exec_csrWrite_allowed (c := .engSegments) hs hi rfl (Csr.writable_rws rfl hc.1)
      (decide_eq_true (hc.2.trans_eq hcut16.symm))
  · exact exec_csrWrite_allowed (c := .engCyclesPerSeg) hs hi rfl (Csr.writable_rws rfl hc.1)
      (decide_eq_true (hc.2.trans_eq hcut16.symm))
  · exact exec_csrWrite_allowed (c := .engMinPayload) hs hi rfl (Csr.writable_rws rfl hc.1)
      (decide_eq_true (hc.2.trans_eq hcut16.symm))
  · exact exec_csrWrite_allowed (c := .engChannel) hs hi rfl (Csr.writable_rwt rfl hc) rfl
  · exact exec_csrWrite_allowed (c := .engRecoveryThreshold) hs hi rfl (Csr.writable_rw rfl) rfl
  · exact exec_csrWrite_allowed (c := .engDemuxAttach) hs hi rfl (Csr.writable_rwt rfl hc) rfl
  · exact exec_csrWrite_allowed (c := .engUrxCallback) hs hi rfl (Csr.writable_rw rfl) rfl
  · exact exec_csrWrite_allowed (c := .dvrDvMode) hs hi rfl (Csr.writable_rwt rfl hc.1)
      (hrow8.trans hc.2)
  · exact exec_csrWrite_allowed (c := .dvrFrameSel) hs hi rfl (Csr.writable_rw rfl)
      (decide_eq_true (hcut16.trans_lt hc))
  · exact exec_csrWrite_allowed (c := .dvtDvMode) hs hi rfl (Csr.writable_rwt rfl hc.1)
      (hrow8.trans hc.2)
  · exact exec_csrWrite_allowed (c := .dvtBlocksPerCycle) hs hi rfl (Csr.writable_rwt rfl hc.1)
      (Csr.legal_blocksPerCycle (by simpa using hc.2))
  · exact exec_csrWrite_allowed (c := .dvtTxFrameBase) hs hi rfl (Csr.writable_rwt rfl hc) rfl
  · exact exec_csrWrite_allowed (c := .dvtFrameSel) hs hi rfl (Csr.writable_rw rfl)
      (decide_eq_true (hcut16.trans_lt hc))
  · exact exec_csrWrite_allowed (c := .tsPmtPid) hs hi rfl (Csr.writable_rw rfl) rfl
  · exact exec_csrWrite_allowed (c := .tsPsiTimeout) hs hi rfl (Csr.writable_rw rfl)
      (Csr.legal_psiTimeout hc)

end Sys2Proof.Machine
end

section
/-! PROOF. Every step keeps the transport law (obligation O37): a running engine is set up and not fatal, and
the FINALIZE events still to come are those owed. Each move of an engine's transport state and of its queue
keeps it; `keepsEvery_moves` carries it over a step. -/

namespace Sys2Proof.Machine

/-- The law speaks of fields that the cycles of an engine leave as they are. -/
theorem Eng.transportLaw_of_same {x g : Eng} (h : EngSame x g) (hx : x.transportLaw) :
    g.transportLaw := by
  simpa only [Eng.transportLaw, h.running, h.setupDone, h.fatal, h.finalizeOwed, h.peStops, h.events]
    using hx

/-- Each move of the transport state and of the queue keeps the law (20_memory.md R71, R74;
42_buffer_engine.md R151, R155, R158, R159, R172). -/
theorem Eng.transportLaw_of_move {x g : Eng} (h : EngMove x g) (hx : x.transportLaw) :
    g.transportLaw := by
  obtain ⟨hrun, howed⟩ := hx
  cases h with
  | setupFailed hset hfatal =>
    have hstopped : x.running ≠ true := fun hr => by
      obtain ⟨hdone, -⟩ := hrun hr
      simp [hset] at hdone
    exact ⟨fun hr => absurd hr hstopped, howed⟩
  | finishSetup cbs base hset hfatal hsegs => exact ⟨fun _ => ⟨rfl, hfatal⟩, howed⟩
  | armRing => exact ⟨hrun, howed⟩
  | enterRun hset hfatal => exact ⟨fun _ => ⟨hset, hfatal⟩, howed⟩
  | stopPe =>
    refine ⟨hrun, ?_⟩
    show x.finalizeOwed + 1 = x.peStops + 1 + x.events.count .finalize
    omega
  | hold => exact ⟨fun hr => absurd hr Bool.false_ne_true, howed⟩
  | restartFailed => exact ⟨fun hr => absurd hr Bool.false_ne_true, howed⟩
  | advance => exact ⟨hrun, howed⟩
  | pushEvent v hv =>
    refine ⟨hrun, ?_⟩
    show x.finalizeOwed = x.peStops + (x.events ++ [v]).count .finalize
    rw [howed, List.count_append, List.count_singleton, if_neg (by simpa using hv), Nat.add_zero]
  | confirmStop hstops =>
    refine ⟨hrun, ?_⟩
    show x.finalizeOwed = x.peStops - 1 + (x.events ++ [Event.finalize]).count .finalize
    rw [howed, List.count_append, List.count_singleton_self]
    omega
  | takeEvent v rest hq hv =>
    refine ⟨hrun, ?_⟩
    rw [hq, List.count_cons_of_ne hv] at howed
    exact howed
  | takeFinalize rest hq =>
    refine ⟨hrun, ?_⟩
    rw [hq, List.count_cons_self] at howed
    show x.finalizeOwed - 1 = x.peStops + rest.count .finalize
    omega

/-- No CSR_WRITE touches the transport state or the queue (10_state.md R26). -/
theorem Csr.transportLaw_store {x : Inst} (c : Csr) (w : Word) (hx : x.eng.transportLaw) :
    (c.store x w).eng.transportLaw := by
  cases c <;> exact hx

theorem transportLaw_moves : InstMoves (·.eng.transportLaw) where
  reset _ := ⟨fun hr => absurd hr Bool.false_ne_true, rfl⟩
  dvt _ _ _ := id
  engSame _ _ := Eng.transportLaw_of_same
  engMove _ _ := Eng.transportLaw_of_move
  abandonFrame _ _ _ := id
  beginFrame _ _ _ _ _ _ _ _ := id
  fillFrame _ _ _ _ := id
  dispatchFrame _ _ _ := id
  dropReference _ _ := id
  endDispatch _ _ := id
  release _ _ _ _ := id
  register _ _ := id
  lawful _ _ _ := id
  allocCurrent _ _ _ := id
  deliverBuf _ _ _ _ := id
  releaseBuf _ _ _ _ := id
  csrStore _ c w _ := Csr.transportLaw_store c w

/-- Settles O37: the transport law of one engine is kept by every move, and so by every step. -/
theorem stepKeepsTransportLaw : Obligations.StepKeepsTransportLaw :=
  fun _ _ hlaw hstep => step_moves (keepsEvery_moves transportLaw_moves) hstep hlaw

end Sys2Proof.Machine
end

section
/-! PROOF. Legal and illegal accesses to BUF (obligation O9). -/

namespace Sys2Proof.Machine

/-- Settles O9: the four equations of `MemRead` and `MemWrite`, and the bytes read after a write. -/
theorem bufAccess : Obligations.BufAccess := by
  intro s a bs
  refine ⟨fun n => ?read, fun hout => ?illegal, fun hin => ⟨run_memWrite_ok hin, ?bytes, rfl⟩⟩
  case read =>
    by_cases hn : a + n ≤ s.par.bufBytes
    · rw [run_memRead_ok hn, if_pos hn]
      rfl
    · rw [run_memRead_bad hn, if_neg hn]
  case illegal => exact run_memWrite_bad (Nat.not_le.mpr hout)
  case bytes => exact readByte_writeBytes s a bs

end Sys2Proof.Machine
end

section
/-! PROOF. DVT_CYCLE (obligations O45 and O46). -/

namespace Sys2Proof.Machine

/-! ### Runs of bytes next to each other -/

theorem runFrom_append {α : Type} (a : Nat) (vs ws : List α) :
    runFrom a (vs ++ ws) = runFrom a vs ++ runFrom (a + vs.length) ws := by
  induction vs generalizing a with
  | nil => simp [runFrom]
  | cons v vs ih => simp [runFrom, ih, Nat.add_assoc, Nat.add_comm 1]

/-- A run stored right behind another is stored with it. -/
theorem sparseSetRun_next {α : Type} (m : Sparse α) (a : Nat) (vs ws : List α) :
    sparseSetRun (sparseSetRun m a vs) (a + vs.length) ws = sparseSetRun m a (vs ++ ws) := by
  have hlow : (sparseSetRun m a vs).filter (fun c => decide (c.1 < a + vs.length)) =
      m.filter (fun c => decide (c.1 < a)) ++ runFrom a vs := by
    simp only [sparseSetRun, List.filter_append, List.filter_filter]
    have h1 : m.filter (fun c => decide (c.1 < a + vs.length) && decide (c.1 < a)) =
        m.filter (fun c => decide (c.1 < a)) :=
      List.filter_congr fun c _ => by simp; omega
    have h2 : (runFrom a vs).filter (fun c => decide (c.1 < a + vs.length)) = runFrom a vs :=
      List.filter_eq_self.mpr fun c hc => by simpa using (mem_runFrom hc).2
    have h3 : m.filter (fun c => decide (c.1 < a + vs.length) && decide (a + vs.length ≤ c.1)) = [] :=
      List.filter_eq_nil_iff.mpr fun c _ => by simp
    rw [h1, h2, h3, List.append_nil]
  have hhigh : (sparseSetRun m a vs).filter (fun c => decide (a + vs.length + ws.length ≤ c.1)) =
      m.filter (fun c => decide (a + (vs ++ ws).length ≤ c.1)) := by
    simp only [sparseSetRun, List.filter_append, List.filter_filter]
    have h1 : m.filter (fun c => decide (a + vs.length + ws.length ≤ c.1) && decide (c.1 < a)) = [] :=
      List.filter_eq_nil_iff.mpr fun c _ => by simp; omega
    have h2 : (runFrom a vs).filter (fun c => decide (a + vs.length + ws.length ≤ c.1)) = [] :=
      List.filter_eq_nil_iff.mpr fun c hc => by have := (mem_runFrom hc).2; simp; omega
    rw [h1, h2, List.nil_append, List.nil_append]
    exact List.filter_congr fun c _ => by simp [Nat.add_assoc]; omega
  rw [sparseSetRun, hlow, hhigh, sparseSetRun, runFrom_append]
  simp

theorem writeBytes_writeBytes_next (s : State) (a : Nat) (bs cs : List Byte) :
    (s.writeBytes a bs).writeBytes (a + bs.length) cs = s.writeBytes a (bs ++ cs) := by
  simp only [State.writeBytes, sparseSetRun_next]

theorem readBytes_add (s : State) (a n k : Nat) :
    s.readBytes a (n + k) = s.readBytes a n ++ s.readBytes (a + n) k := by
  simp [State.readBytes, List.range_add, Nat.add_assoc]

/-! ### The records of DV transmit -/

theorem Dvt.frame_modFrame (d : Dvt) (f : Nat) (g : TxFrame → TxFrame) (j : Nat) :
    (d.modFrame f g).frame j = if f = j ∧ f < d.frames.length then g (d.frame f) else d.frame j := by
  simp only [Dvt.modFrame, Dvt.frame, List.getD_eq_getElem?_getD, List.getElem?_set]
  by_cases h : f = j
  · subst h
    by_cases h2 : f < d.frames.length <;> simp [h2]
  · simp [h]

theorem Dvt.modFrame_modFrame (d : Dvt) (f : Nat) (g h : TxFrame → TxFrame) :
    (d.modFrame f g).modFrame f h = d.modFrame f (fun r => h (g r)) := by
  by_cases hf : f < d.frames.length
  · rw [Dvt.modFrame, Dvt.frame_modFrame, if_pos ⟨rfl, hf⟩]
    simp [Dvt.modFrame]
  · simp [Dvt.modFrame, List.set_eq_of_length_le (Nat.not_lt.mp hf)]

/-- What no change of a reference count or of `inUse` touches stays when a buffer's references are dropped
(44_dv_transmit.md R242, R244). -/
theorem releaseSlot_keeps {β : Type} (φ : Dvt → β)
    (hframe : ∀ d f g, (∀ r, (g r).curOffset = r.curOffset) → φ (Dvt.modFrame d f g) = φ d)
    (hrefs : ∀ d m, φ { d with slotRefs := m } = φ d) (d : Dvt) (gone : List Nat) (k : Nat) :
    φ (Dvt.releaseSlot (d, gone) k).1 = φ d := by
  have hstep : ∀ (a : Dvt × List Nat) (f : Nat), φ (Dvt.dropRef a f).1 = φ a.1 := by
    intro a f
    have hcount : φ (a.1.modFrame f fun r => { r with dclProgramRefCount := r.dclProgramRefCount - 1 }) =
        φ a.1 := hframe _ _ _ (by exact fun _ => rfl)
    simp only [Dvt.dropRef]
    split
    · exact (hframe _ _ (fun r => { r with inUse := false }) fun _ => rfl).trans hcount
    · exact hcount
  have hdrop : ∀ (fs : List Nat) (a : Dvt × List Nat), φ (fs.foldl Dvt.dropRef a).1 = φ a.1 := by
    intro fs
    induction fs with
    | nil => exact fun _ => rfl
    | cons f fs ih => exact fun a => (ih _).trans (hstep a f)
  exact (hrefs _ _).trans (hdrop _ _)

/-- The registers of a DVT record and what its frames hold: all but its frames' reference counts and
`inUse`, and its slot references. -/
structure Dvt.SameCourse (x y : Dvt) : Prop where
  dvMode : y.dvMode = x.dvMode
  blocksPerCycle : y.blocksPerCycle = x.blocksPerCycle
  txFrameBase : y.txFrameBase = x.txFrameBase
  curFrame : y.curFrame = x.curFrame
  dbc : y.dbc = x.dbc
  txCycleCount : y.txCycleCount = x.txCycleCount
  txClock : y.txClock = x.txClock
  frames : y.frames.length = x.frames.length
  curOffset : ∀ f, (y.frame f).curOffset = (x.frame f).curOffset

theorem releaseSlot_sameCourse (d : Dvt) (gone : List Nat) (k : Nat) :
    d.SameCourse (Dvt.releaseSlot (d, gone) k).1 where
  dvMode := releaseSlot_keeps Dvt.dvMode (fun _ _ _ _ => rfl) (fun _ _ => rfl) d gone k
  blocksPerCycle := releaseSlot_keeps Dvt.blocksPerCycle (fun _ _ _ _ => rfl) (fun _ _ => rfl) d gone k
  txFrameBase := releaseSlot_keeps Dvt.txFrameBase (fun _ _ _ _ => rfl) (fun _ _ => rfl) d gone k
  curFrame := releaseSlot_keeps Dvt.curFrame (fun _ _ _ _ => rfl) (fun _ _ => rfl) d gone k
  dbc := releaseSlot_keeps Dvt.dbc (fun _ _ _ _ => rfl) (fun _ _ => rfl) d gone k
  txCycleCount := releaseSlot_keeps Dvt.txCycleCount (fun _ _ _ _ => rfl) (fun _ _ => rfl) d gone k
  txClock := releaseSlot_keeps Dvt.txClock (fun _ _ _ _ => rfl) (fun _ _ => rfl) d gone k
  frames := releaseSlot_keeps (fun x => x.frames.length) (fun _ _ _ _ => Dvt.modFrame_length _ _ _)
    (fun _ _ => rfl) d gone k
  curOffset f := by
    refine releaseSlot_keeps (fun x => (x.frame f).curOffset) (fun x j g hg => ?_) (fun _ _ => rfl)
      d gone k
    simp only [Dvt.frame_modFrame]
    split
    · next h => rw [hg, h.1]
    · rfl

/-- The buffer refers to no frame afterwards. -/
theorem releaseSlot_refs (d : Dvt) (gone : List Nat) (k : Nat) :
    (Dvt.releaseSlot (d, gone) k).1.refs k = [] := by
  show (sparseGet (sparseErase _ k) k).getD [] = []
  rw [sparseGet_erase, if_pos rfl]
  rfl

/-! ### Blocks of a frame -/

/-- `n` blocks of the frame `f` have gone into buffer `k`, none of whose blocks was of `f` before
(44_dv_transmit.md R243). -/
def Dvt.copied (d : Dvt) (k f n blk len : Nat) : Dvt :=
  { d.modFrame f (fun r =>
      { r with
        curOffset := r.curOffset + n * blk, dclProgramRefCount := r.dclProgramRefCount + 1 }) with
    slotRefs := sparseSet d.slotRefs k (insertIndex f (d.refs k))
    curFrame := if (d.frame f).curOffset + n * blk = len then none else some f }

/-- The same for any number of blocks, no block among them. -/
def Dvt.copiedAny (d : Dvt) (k f n blk len : Nat) : Dvt := if n = 0 then d else d.copied k f n blk len

/-- `off` bytes of the frame `f`, the frame in progress, have gone into buffer `k`. -/
def Dvt.sending (d : Dvt) (k f off : Nat) : Dvt :=
  { d.modFrame f (fun r =>
      { r with curOffset := r.curOffset + off, dclProgramRefCount := r.dclProgramRefCount + 1 }) with
    slotRefs := sparseSet d.slotRefs k (insertIndex f (d.refs k)), curFrame := some f }

/-- A frame copied to its end is fully consumed (R243). -/
def Dvt.endAt (d : Dvt) (f len : Nat) : Dvt :=
  if (d.frame f).curOffset = len then { d with curFrame := none } else d

theorem Dvt.blockCopied_eq (d : Dvt) (k f blk len : Nat) :
    d.blockCopied k f blk len =
      ((d.modFrame f (fun r => { r with curOffset := r.curOffset + blk })).addRef k f).endAt f len := rfl

theorem mem_insertIndex (f : Nat) (l : List Nat) : f ∈ insertIndex f l := by
  induction l with
  | nil => simp [insertIndex]
  | cons g gs ih =>
    unfold insertIndex
    split
    · simp
    split
    · next h => simp [h]
    · simp [ih]

section

variable {d : Dvt} {k f n off blk len : Nat}

theorem Dvt.frame_sending (hf : f < d.frames.length) :
    (d.sending k f off).frame f = { d.frame f with
      curOffset := (d.frame f).curOffset + off
      dclProgramRefCount := (d.frame f).dclProgramRefCount + 1 } :=
  (Dvt.frame_modFrame d f (fun r => { r with
    curOffset := r.curOffset + off, dclProgramRefCount := r.dclProgramRefCount + 1 }) f).trans
      (if_pos ⟨rfl, hf⟩)

theorem Dvt.sending_addRef : (d.sending k f off).addRef k f = d.sending k f off := by
  refine if_pos ?_
  show f ∈ (sparseGet (sparseSet d.slotRefs k _) k).getD []
  rw [sparseGet_set, if_pos rfl]
  exact mem_insertIndex _ _

/-- The first block of a frame joins the frame to the buffer's references. -/
theorem Dvt.addRef_first (hfresh : f ∉ d.refs k) (hcur : d.curFrame = some f) :
    (d.modFrame f (fun r => { r with curOffset := r.curOffset + off })).addRef k f =
      d.sending k f off := by
  refine (if_neg hfresh).trans ?_
  rw [Dvt.modFrame_modFrame, Dvt.sending, ← hcur]
  rfl

theorem Dvt.sending_modFrame :
    (d.sending k f off).modFrame f (fun r => { r with curOffset := r.curOffset + blk }) =
      d.sending k f (off + blk) := by
  have hm := Dvt.modFrame_modFrame d f
    (fun r => { r with curOffset := r.curOffset + off, dclProgramRefCount := r.dclProgramRefCount + 1 })
    (fun r => { r with curOffset := r.curOffset + blk })
  have hframes := congrArg Dvt.frames hm
  simp only [Nat.add_assoc] at hframes
  exact congrArg (fun fs => { d.sending k f off with frames := fs }) hframes

theorem Dvt.copied_eq (hf : f < d.frames.length) :
    d.copied k f n blk len = (d.sending k f (n * blk)).endAt f len := by
  simp only [Dvt.copied, Dvt.endAt, Dvt.frame_sending hf]
  split <;> rfl

/-- A frame that has not ended yet is still in progress. -/
theorem Dvt.copied_of_not_end (hend : (d.frame f).curOffset + n * blk ≠ len) :
    d.copied k f n blk len = d.sending k f (n * blk) := by
  rw [Dvt.copied, if_neg hend]
  rfl

/-- One block more. -/
theorem Dvt.blockCopied_copiedAny (hf : f < d.frames.length) (hfresh : f ∉ d.refs k)
    (hcur : d.curFrame = some f) (hend : n ≠ 0 → (d.frame f).curOffset + n * blk ≠ len) :
    (d.copiedAny k f n blk len).blockCopied k f blk len = d.copiedAny k f (n + 1) blk len := by
  rw [Dvt.copiedAny, Dvt.copiedAny, if_neg n.succ_ne_zero, Dvt.copied_eq (n := n + 1) hf, Nat.succ_mul,
    Dvt.blockCopied_eq]
  by_cases hn : n = 0
  · rw [if_pos hn, Dvt.addRef_first hfresh hcur, hn, Nat.zero_mul, Nat.zero_add]
  · rw [if_neg hn, Dvt.copied_of_not_end (hend hn), Dvt.sending_modFrame, Dvt.sending_addRef]

theorem Dvt.copiedAny_curOffset (hf : f < d.frames.length) :
    ((d.copiedAny k f n blk len).frame f).curOffset = (d.frame f).curOffset + n * blk := by
  have hend : ∀ c : Dvt, (c.endAt f len).frame f = c.frame f := fun c => by
    unfold Dvt.endAt
    split <;> rfl
  by_cases hn : n = 0
  · simp [Dvt.copiedAny, hn]
  · rw [Dvt.copiedAny, if_neg hn, Dvt.copied_eq hf, hend, Dvt.frame_sending hf]

theorem Dvt.copiedAny_txFrameBase : (d.copiedAny k f n blk len).txFrameBase = d.txFrameBase := by
  unfold Dvt.copiedAny
  split <;> rfl

/-- While the frame has not ended it stays in progress. -/
theorem Dvt.copiedAny_curFrame (hcur : d.curFrame = some f)
    (hend : n ≠ 0 → (d.frame f).curOffset + n * blk ≠ len) :
    (d.copiedAny k f n blk len).curFrame = some f := by
  unfold Dvt.copiedAny
  split
  · exact hcur
  · next h => exact if_neg (hend h)

end

/-! ### The loop of DVT_CYCLE -/

/-- Where the block that frame `f` sends next lies in BUF (R241, R243). -/
def Dvt.nextBlock (d : Dvt) (row : DvFormat) (f : Nat) : Nat :=
  d.txFrameBase.toNat + f * row.frameSize + (d.frame f).curOffset

/-- Where block `nb` of the packet in cycle buffer `k` lies in BUF (R243). -/
def Eng.blockAddr (g : Eng) (k : Nat) (row : DvFormat) (nb : Nat) : Nat := g.slotAddr k + 8 + nb * row.blk

section

variable {s : State} {e k nb f : Nat} {row : DvFormat} {w : Half}

theorem run_copyOut_ok (hread : (s.dvt e).nextBlock row f + row.blk ≤ s.par.bufBytes)
    (hwrite : (s.eng e).blockAddr k row nb + row.blk ≤ s.par.bufBytes) :
    copyOut e k row nb f s =
      .ok () ((s.writeBytes ((s.eng e).blockAddr k row nb)
        (s.readBytes ((s.dvt e).nextBlock row f) row.blk)).modDvt e
          (·.blockCopied k f row.blk row.frameSize)) := by
  have hr : memRead ((s.dvt e).txFrameBase.toNat + f * row.frameSize + ((s.dvt e).frame f).curOffset)
      row.blk s = .ok (s.readBytes ((s.dvt e).nextBlock row f) row.blk) s := run_memRead_ok hread
  have hw := run_memWrite_ok (s := s) (a := (s.eng e).slotAddr k + 8 + nb * row.blk)
    (bs := s.readBytes ((s.dvt e).nextBlock row f) row.blk) (by rw [readBytes_length]; exact hwrite)
  simp only [copyOut, run_bind, run_getEng, run_getDvt, hr, hw, run_modDvt]
  rfl

/-- The block lies outside BUF (20_memory.md R62). -/
theorem run_copyOut_badSource (h : s.par.bufBytes < (s.dvt e).nextBlock row f + row.blk) :
    copyOut e k row nb f s =
      .error .fault (s.takeFault (.badAddress ((s.dvt e).nextBlock row f) row.blk)) := by
  have hr : memRead ((s.dvt e).txFrameBase.toNat + f * row.frameSize + ((s.dvt e).frame f).curOffset)
      row.blk s = _ := run_memRead_bad (Nat.not_le.mpr h)
  simp only [copyOut, run_bind, run_getEng, run_getDvt, hr]
  rfl

/-- Its place in the cycle buffer lies outside BUF (R62). -/
theorem run_copyOut_badTarget (hread : (s.dvt e).nextBlock row f + row.blk ≤ s.par.bufBytes)
    (h : s.par.bufBytes < (s.eng e).blockAddr k row nb + row.blk) :
    copyOut e k row nb f s =
      .error .fault (s.takeFault (.badAddress ((s.eng e).blockAddr k row nb) row.blk)) := by
  have hr : memRead ((s.dvt e).txFrameBase.toNat + f * row.frameSize + ((s.dvt e).frame f).curOffset)
      row.blk s = .ok (s.readBytes ((s.dvt e).nextBlock row f) row.blk) s := run_memRead_ok hread
  have hw := run_memWrite_bad (s := s) (a := (s.eng e).slotAddr k + 8 + nb * row.blk)
    (bs := s.readBytes ((s.dvt e).nextBlock row f) row.blk)
    (by rw [readBytes_length]; exact Nat.not_le.mpr h)
  simp only [copyOut, run_bind, run_getEng, run_getDvt, hr, hw, readBytes_length]
  rfl

@[simp] theorem run_fillSlot_zero : fillSlot e k row 0 nb w s = .ok (nb, w) s := rfl

variable {n : Nat}

/-- With a frame in progress the next block is one of its own. -/
theorem run_fillSlot_current (hcur : (s.dvt e).curFrame = some f) :
    fillSlot e k row (n + 1) nb w s =
      (copyOut e k row nb f >>= fun _ => fillSlot e k row n (nb + 1) w) s := by
  rw [fillSlot, run_bind, run_getDvt]
  simp only [hcur]

/-- With none a frame is pulled, and its SYT goes with the packet if its first block comes first (R246). -/
theorem run_fillSlot_pulled {t : State} (hcur : (s.dvt e).curFrame = none)
    (hpull : pullFrame e row s = .ok true t) (hf : (t.dvt e).curFrame = some f) :
    fillSlot e k row (n + 1) nb w s =
      fillSlot e k row (n + 1) nb (if nb = 0 then ((t.dvt e).frame f).frameSYTTime else w) t := by
  rw [run_fillSlot_current hf, fillSlot, run_bind, run_getDvt]
  simp only [hcur, run_bind, hpull, if_true, run_getDvt, hf]

/-- When no frame is pulled the packet ends there. -/
theorem run_fillSlot_refused {t : State} (hcur : (s.dvt e).curFrame = none)
    (hpull : pullFrame e row s = .ok false t) :
    fillSlot e k row (n + 1) nb w s = .ok (nb, w) t := by
  rw [fillSlot, run_bind, run_getDvt]
  simp [hcur, hpull]

/-! ### The pull (R248) -/

variable {d : Draw} {rest : List Draw}

theorem run_pullFrame_ok (ht : s.tape = d :: rest) (hq : d.quiet) (hd : d.status = 0)
    (hlen : d.word.toNat < (s.dvt e).frames.length)
    (hfree : ((s.dvt e).frame d.word.toNat).inUse = false) :
    pullFrame e row s = .ok true ((s.told [.framePull e] rest).modDvt e
      (·.beginFrame d.word.toNat (s.par.sytOf (s.dvt e).txClock row.startingSYTOffset))) := by
  have hc : callback (.framePull e) s = .ok d (s.told [.framePull e] rest) := run_callback_quiet ht hq
  simp [pullFrame, hc, drawAgrees, hd, hlen, hfree]

theorem run_pullFrame_refused (ht : s.tape = d :: rest) (hq : d.quiet)
    (h : d.status ≠ 0 ∨ (s.dvt e).frames.length ≤ d.word.toNat ∨
      ((s.dvt e).frame d.word.toNat).inUse = true) :
    pullFrame e row s = .ok false (s.told [.framePull e] rest) := by
  have hc : callback (.framePull e) s = .ok d (s.told [.framePull e] rest) := run_callback_quiet ht hq
  have hno : drawAgrees d = false ∨ (s.dvt e).frames.length ≤ d.word.toNat ∨
      ((s.dvt e).frame d.word.toNat).inUse = true := by simpa [drawAgrees] using h
  simp [pullFrame, hc, hno]

end

/-! ### Several blocks of one frame -/

/-- `m` blocks of the frame `f`, which the DVT record `z` has in progress, can be copied into buffer `k` from
block `nb` of its packet on: source and target lie in BUF, the frame does not end before the last of them, and
where there are several the source is no part of the target. -/
structure State.CanCopy (s : State) (e : Nat) (z : Dvt) (k f : Nat) (row : DvFormat) (nb m : Nat) : Prop where
  instance_lt : e < s.inst.length
  current : z.curFrame = some f
  frame_lt : f < z.frames.length
  fresh : f ∉ z.refs k
  source : 0 < m → z.nextBlock row f + m * row.blk ≤ s.par.bufBytes
  target : 0 < m → (s.eng e).blockAddr k row nb + m * row.blk ≤ s.par.bufBytes
  inside : ∀ i, 0 < i → i < m → (z.frame f).curOffset + i * row.blk ≠ row.frameSize
  apart : 1 < m → z.nextBlock row f + m * row.blk ≤ (s.eng e).blockAddr k row nb ∨
    (s.eng e).blockAddr k row nb + m * row.blk ≤ z.nextBlock row f

theorem State.CanCopy.pred {s : State} {e k f nb m : Nat} {z : Dvt} {row : DvFormat}
    (h : s.CanCopy e z k f row nb (m + 1)) : s.CanCopy e z k f row nb m where
  instance_lt := h.instance_lt
  current := h.current
  frame_lt := h.frame_lt
  fresh := h.fresh
  source _ := le_trans (Nat.add_le_add_left (Nat.mul_le_mul_right _ m.le_succ) _) (h.source m.succ_pos)
  target _ := le_trans (Nat.add_le_add_left (Nat.mul_le_mul_right _ m.le_succ) _) (h.target m.succ_pos)
  inside i hi hm := h.inside i hi (Nat.lt_succ_of_lt hm)
  apart hm := (h.apart (Nat.lt_succ_of_lt hm)).imp
    (le_trans (Nat.add_le_add_left (Nat.mul_le_mul_right _ m.le_succ) _))
    (le_trans (Nat.add_le_add_left (Nat.mul_le_mul_right _ m.le_succ) _))

/-- The state after the `m` blocks `bytes` have gone into the cycle buffer from `dst` on. -/
def State.storedAny (s : State) (dst m : Nat) (bytes : List Byte) : State :=
  if m = 0 then s else s.writeBytes dst bytes

/-- The state, with the DVT record `z`, after `m` blocks of the frame `f` have been copied. -/
def State.afterBlocks (s : State) (e : Nat) (z : Dvt) (k f : Nat) (row : DvFormat) (nb m : Nat) : State :=
  (s.storedAny ((s.eng e).blockAddr k row nb) m
    (s.readBytes (z.nextBlock row f) (m * row.blk))).modDvt e
      (fun _ => z.copiedAny k f m row.blk row.frameSize)

theorem Eng.blockAddr_add (g : Eng) (k : Nat) (row : DvFormat) (nb m : Nat) :
    g.blockAddr k row (nb + m) = g.blockAddr k row nb + m * row.blk := by
  simp only [Eng.blockAddr, Nat.add_mul, Nat.add_assoc]

theorem Dvt.nextBlock_copiedAny {z : Dvt} {k f m : Nat} {row : DvFormat} (hf : f < z.frames.length) :
    (z.copiedAny k f m row.blk row.frameSize).nextBlock row f = z.nextBlock row f + m * row.blk := by
  simp only [Dvt.nextBlock, Dvt.copiedAny_txFrameBase, Dvt.copiedAny_curOffset hf, Nat.add_assoc]

section

variable {s : State} {e k f nb m : Nat} {z : Dvt} {row : DvFormat} {w : Half}

@[simp] theorem State.storedAny_par (dst : Nat) (bytes : List Byte) :
    (s.storedAny dst m bytes).par = s.par := by unfold State.storedAny; split <;> rfl

@[simp] theorem State.storedAny_inst (dst : Nat) (bytes : List Byte) :
    (s.storedAny dst m bytes).inst = s.inst := by unfold State.storedAny; split <;> rfl

@[simp] theorem State.storedAny_eng (dst : Nat) (bytes : List Byte) (j : Nat) :
    (s.storedAny dst m bytes).eng j = s.eng j := by unfold State.storedAny; split <;> rfl

@[simp] theorem State.afterBlocks_par : (s.afterBlocks e z k f row nb m).par = s.par := by
  simp [State.afterBlocks]

@[simp] theorem State.afterBlocks_eng (j : Nat) :
    (s.afterBlocks e z k f row nb m).eng j = s.eng j := by simp [State.afterBlocks]

theorem State.afterBlocks_dvt (he : e < s.inst.length) :
    (s.afterBlocks e z k f row nb m).dvt e = z.copiedAny k f m row.blk row.frameSize :=
  dvt_modDvt_same _ _ (by simpa using he)

/-- What lies outside the blocks written reads as before. -/
theorem State.readBytes_afterBlocks {a n : Nat}
    (h : m ≠ 0 → a + n ≤ (s.eng e).blockAddr k row nb ∨
      (s.eng e).blockAddr k row nb + m * row.blk ≤ a) :
    (s.afterBlocks e z k f row nb m).readBytes a n = s.readBytes a n := by
  show (s.storedAny _ m _).readBytes a n = _
  unfold State.storedAny
  split
  · rfl
  · next hm => exact readBytes_writeBytes_other _ _ _ _ _ (by simpa using h hm)

/-- The next block, behind the `m` that are there. -/
theorem State.CanCopy.copyOut_afterBlocks (h : s.CanCopy e z k f row nb (m + 1)) :
    copyOut e k row (nb + m) f (s.afterBlocks e z k f row nb m) =
      .ok () (s.afterBlocks e z k f row nb (m + 1)) := by
  have hdvt := State.afterBlocks_dvt (z := z) (k := k) (f := f) (row := row) (nb := nb) (m := m)
    h.instance_lt
  have hnext : ((s.afterBlocks e z k f row nb m).dvt e).nextBlock row f =
      z.nextBlock row f + m * row.blk := by rw [hdvt, Dvt.nextBlock_copiedAny h.frame_lt]
  have haddr : ((s.afterBlocks e z k f row nb m).eng e).blockAddr k row (nb + m) =
      (s.eng e).blockAddr k row nb + m * row.blk := by
    rw [State.afterBlocks_eng, Eng.blockAddr_add]
  have hsource := h.source m.succ_pos
  have htarget := h.target m.succ_pos
  rw [Nat.succ_mul] at hsource htarget
  have hbytes : (s.afterBlocks e z k f row nb m).readBytes (z.nextBlock row f + m * row.blk) row.blk =
      s.readBytes (z.nextBlock row f + m * row.blk) row.blk := by
    refine State.readBytes_afterBlocks fun hm => ?_
    have hapart := h.apart (by omega)
    rw [Nat.succ_mul] at hapart
    omega
  rw [run_copyOut_ok (by rw [hnext, State.afterBlocks_par]; omega)
    (by rw [haddr, State.afterBlocks_par]; omega), hnext, haddr, hbytes]
  have hrec := Dvt.blockCopied_copiedAny (n := m) (blk := row.blk) (len := row.frameSize)
    h.frame_lt h.fresh h.current (fun hm => h.inside m (Nat.pos_of_ne_zero hm) m.lt_succ_self)
  have hstore : (s.storedAny ((s.eng e).blockAddr k row nb) m
        (s.readBytes (z.nextBlock row f) (m * row.blk))).writeBytes
        ((s.eng e).blockAddr k row nb + m * row.blk)
        (s.readBytes (z.nextBlock row f + m * row.blk) row.blk) =
      s.storedAny ((s.eng e).blockAddr k row nb) (m + 1)
        (s.readBytes (z.nextBlock row f) ((m + 1) * row.blk)) := by
    by_cases hm : m = 0
    · simp [State.storedAny, hm]
    · rw [State.storedAny, State.storedAny, if_neg hm, if_neg m.succ_ne_zero, Nat.succ_mul,
        readBytes_add, ← writeBytes_writeBytes_next, readBytes_length]
  simp only [State.afterBlocks, ← hstore, ← hrec, modDvt_writeBytes, modDvt_modDvt]

/-- `m` blocks of one frame, one after the other (44_dv_transmit.md R243). -/
theorem State.CanCopy.run_fillSlot (n : Nat) (h : s.CanCopy e z k f row nb m) :
    fillSlot e k row (m + n) nb w (s.modDvt e (fun _ => z)) =
      fillSlot e k row n (nb + m) w (s.afterBlocks e z k f row nb m) := by
  induction m generalizing n with
  | zero => simp [State.afterBlocks, State.storedAny, Dvt.copiedAny]
  | succ m ih =>
    have hcur : ((s.afterBlocks e z k f row nb m).dvt e).curFrame = some f := by
      rw [State.afterBlocks_dvt h.instance_lt]
      exact Dvt.copiedAny_curFrame h.current
        fun hm => h.inside m (Nat.pos_of_ne_zero hm) m.lt_succ_self
    rw [Nat.add_right_comm, Nat.add_assoc, ih (n + 1) h.pred, run_fillSlot_current hcur, run_bind,
      h.copyOut_afterBlocks]
    rfl

end

/-! ### The command around its loop -/

/-- The headers of a packet of `n` blocks with SYT `w`, then the counters and the clock (R243, R245, R249). -/
def sendPacket (e k : Nat) (row : DvFormat) (n : Nat) (w : Half) : M (Status × Nat) := do
  writeHeader e k row n w
  modDvt e (fun d => { d with dbc := d.dbc + BitVec.ofNat 8 n, txCycleCount := d.txCycleCount + 1 })
  let d ← getDvt e
  let t ← addCycles d.txClock 1
  modDvt e (fun d => { d with txClock := t })
  pure (.success, 8 + n * row.blk)

/-- A stolen cycle that carries data is taken off the count (R247). -/
def Eng.stolen (g : Eng) : Eng := { g with stealCount := g.stealCount - 1 }

/-- What DVT_CYCLE does when its blocks are in the cycle buffer, `a` their number and the packet's SYT. -/
def finishPacket (e k : Nat) (row : DvFormat) (steal : Bool) (a : Nat × Half) : M (Status × Nat) := do
  if steal ∧ 0 < a.1 then modEng e Eng.stolen else pure ()
  sendPacket e k row a.1 a.2

section

variable {s : State} {e : Nat}

theorem exec_dvtCycle_run (hs : s.idle) (he : e < s.inst.length) :
    exec (.dvtCycle e) s = .next (endCommand (producerBody (dvtCycle e) s)) :=
  asCommand_run_instance rfl hs.1 he (.inl hs.2)

/-- DVT_CYCLE on a buffer for which the engine produces none (R243). -/
theorem exec_dvtCycle_refused (hs : s.idle) (he : e < s.inst.length)
    (h : (s.eng e).setupDone = false ∨ (s.eng e).kind ≠ .dvtx ∨ (s.eng e).slots ≤ s.arg0.toNat) :
    exec (.dvtCycle e) s = .next (s.setStatus .badArgument) := by
  rw [exec_dvtCycle_run hs he]
  simp [producerBody, dvtCycle, h]

/-- DVT_CYCLE in a mode without a format row (R243). -/
theorem exec_dvtCycle_noRow (hs : s.idle) (he : e < s.inst.length)
    (h : s.par.dvRow (s.dvt e).dvMode = none) :
    exec (.dvtCycle e) s = .next (s.setStatus .badArgument) := by
  rw [exec_dvtCycle_run hs he]
  simp [producerBody, dvtCycle, h]

/-- DVT_CYCLE on a buffer of the engine's ring: the drop of its references, the blocks of a cycle that carries
data or is stolen, and the rest (R243, R247). -/
theorem run_dvtCycle {t : State} {k : Nat} {row : DvFormat} (hset : (s.eng e).setupDone = true)
    (hkind : (s.eng e).kind = .dvtx) (hk : k < (s.eng e).slots)
    (hrow : s.par.dvRow (s.dvt e).dvMode = some row) (hdrop : releaseSlotRefs e k s = .ok () t) :
    let data := s.par.dataCycle (t.dvt e).txCycleCount.toNat
    let steal := !data && decide (0 < (t.eng e).stealCount.toNat)
    dvtCycle e k s = ((if data || steal then
        fillSlot e k row (t.dvt e).blocksPerCycle.toNat 0 0xFFFF else pure (0, 0xFFFF)) >>=
      finishPacket e k row steal) t := by
  have haccept : ¬ ((s.eng e).setupDone = false ∨ (s.eng e).kind ≠ .dvtx ∨
      (s.eng e).slots ≤ k) := by simp [hset, hkind, hk]
  rw [dvtCycle, run_bind, run_getState]
  dsimp only
  rw [run_ite, if_neg haccept, hrow]
  dsimp only
  rw [run_bind, hdrop]
  dsimp only
  rw [run_bind, run_getDvt]
  dsimp only
  rw [run_bind, run_getEng]
  dsimp only
  rw [run_ite, run_bind, run_bind, run_bind, run_ite]
  split <;> rfl

/-- How a producer command ends: its length goes to RES0 (R243). -/
theorem endCommand_producerBody {produce : Nat → M (Status × Nat)} {t : State} {n : Nat}
    (h : produce s.arg0.toNat s = .ok (.success, n) t) :
    endCommand (producerBody produce s) =
      { t with res0 := BitVec.ofNat 32 n, status := 0x00 } := by
  simp only [producerBody, run_bind, run_getState, h, if_true, run_writeRes0, run_answer]
  rfl

/-- How it ends at a raise. -/
theorem endCommand_producerBody_fault {produce : Nat → M (Status × Nat)} {t : State}
    (h : produce s.arg0.toNat s = .error .fault t) : endCommand (producerBody produce s) = t := by
  simp only [producerBody, run_bind, run_getState, h]
  rfl

end

/-! ### The headers of a packet (R245) -/

/-- The eight bytes of the CIP header. -/
theorem cipHeader_bytes (sid : BitVec 6) (row : DvFormat) (dbc : Byte) (w : Half) :
    be32Bytes (dvQuadlet0 sid row dbc) ++ be32Bytes (dvQuadlet1 row w) =
      [sid.setWidth 8, row.dbs, row.fn ++ 0#6, dbc, 0x80, row.mode, w.extractLsb' 8 8,
        w.extractLsb' 0 8] := by
  simp only [be32Bytes, List.cons_append, List.nil_append, List.cons.injEq, and_true]
  refine ⟨?_, ?_, ?_, ?_, ?_, ?_, ?_, ?_⟩
  all_goals
    apply BitVec.eq_of_getLsbD_eq
    intro j hj
    simp only [dvQuadlet0, dvQuadlet1, BitVec.getLsbD_extractLsb', BitVec.getLsbD_append,
      BitVec.getLsbD_setWidth]
    interval_cases j <;> simp

section

variable {t : State} {e k : Nat} {row : DvFormat} {n : Nat} {w : Half}

theorem run_writeHeader_ok (hb : (t.eng e).slotAddr k + 8 ≤ t.par.bufBytes) :
    writeHeader e k row n w t = .ok () ((t.writeBytes ((t.eng e).slotAddr k)
      [(t.eng e).localSid.setWidth 8, row.dbs, row.fn ++ 0#6, (t.dvt e).dbc, 0x80, row.mode,
        w.extractLsb' 8 8, w.extractLsb' 0 8]).modEng e (fun g =>
          g.setSlotHdr k (isoHeader (8 + n * row.blk) (t.eng e).channel))) := by
  simp only [writeHeader, run_bind, run_getEng, run_getDvt, cipHeader_bytes]
  rw [run_memWrite_ok (by simpa using hb)]
  rfl

/-- The cycle buffer's header leaves BUF (20_memory.md R62). -/
theorem run_writeHeader_bad (hb : t.par.bufBytes < (t.eng e).slotAddr k + 8) :
    writeHeader e k row n w t = .error .fault (t.takeFault (.badAddress ((t.eng e).slotAddr k) 8)) := by
  simp only [writeHeader, run_bind, run_getEng, run_getDvt, cipHeader_bytes]
  rw [run_memWrite_bad (by simpa using hb)]
  rfl

/-- The packet of `n` blocks with SYT `w` is in buffer `k`; `x` is the DVT record before the command, `z` the
one after the blocks. -/
def State.withPacket (t : State) (e k : Nat) (row : DvFormat) (n : Nat) (w : Half) (x z : Dvt)
    (clock : Word) : State :=
  ((t.writeBytes ((t.eng e).slotAddr k)
      [(t.eng e).localSid.setWidth 8, row.dbs, row.fn ++ 0#6, x.dbc, 0x80, row.mode,
        w.extractLsb' 8 8, w.extractLsb' 0 8]).modEng e
          (·.setSlotHdr k (isoHeader (8 + n * row.blk) (t.eng e).channel))).modDvt e
    (fun _ =>
      { z with
        dbc := x.dbc + BitVec.ofNat 8 n, txCycleCount := x.txCycleCount + 1, txClock := clock })

/-- The blocks of a packet change neither the counters nor the clock. -/
structure Dvt.SameCounters (x z : Dvt) : Prop where
  dbc : z.dbc = x.dbc
  txCycleCount : z.txCycleCount = x.txCycleCount
  txClock : z.txClock = x.txClock

theorem Dvt.SameCourse.counters {x y : Dvt} (h : x.SameCourse y) : x.SameCounters y :=
  ⟨h.dbc, h.txCycleCount, h.txClock⟩

/-- A packet whose cycle buffer lies in BUF: the clock goes on by a cycle, or raises (R249;
41_cycle_time.md R141). -/
theorem run_sendPacket {x z : Dvt} (he : e < t.inst.length)
    (hb : (t.eng e).slotAddr k + 8 ≤ t.par.bufBytes) (hx : x.SameCounters z) :
    sendPacket e k row n w (t.modDvt e (fun _ => z)) =
      if ctLegal x.txClock then
        .ok (.success, 8 + n * row.blk) (t.withPacket e k row n w x z (ctSum x.txClock (ctCycles 1)))
      else .error .fault ((t.withPacket e k row n w x z x.txClock).takeFault (.ctRange x.txClock)) := by
  obtain ⟨hdbc, hcount, hclock⟩ := hx
  have hwrite := run_writeHeader_ok (t := t.modDvt e (fun _ => z)) (e := e) (k := k) (row := row) (n := n)
    (w := w) (by simpa using hb)
  simp only [eng_modDvt, dvt_modDvt_same t _ he, hdbc] at hwrite
  by_cases hc : ctLegal x.txClock
  · simp [sendPacket, hwrite, he, hdbc, hcount, hclock, run_addCycles_ok hc, State.withPacket, hc]
  · simp [sendPacket, hwrite, he, hdbc, hcount, hclock, run_addCycles_bad hc, State.withPacket, hc]

/-- A packet whose header leaves BUF (20_memory.md R62). -/
theorem run_sendPacket_bad (hb : t.par.bufBytes < (t.eng e).slotAddr k + 8) :
    sendPacket e k row n w t =
      .error .fault (t.takeFault (.badAddress ((t.eng e).slotAddr k) 8)) := by
  simp only [sendPacket, run_bind, run_writeHeader_bad hb]

end

/-! ### A command that is accepted -/

/-- The state in which a packet is built: the buffer's references are dropped, and the client has been told
which frames are released (R242, R244). -/
def State.slotReleased (s : State) (e : Nat) (rest : List Draw) : State :=
  (s.told ((Dvt.releaseSlot (s.dvt e, []) s.arg0.toNat).2.map (.frameRelease e)) rest).modDvt e
    (fun _ => (Dvt.releaseSlot (s.dvt e, []) s.arg0.toNat).1)

/-- The engine takes a DVT_CYCLE on buffer ARG0, in the format `row` (R243). -/
structure State.TakesCycle (s : State) (e : Nat) (row : DvFormat) : Prop where
  idle : s.idle
  instance_lt : e < s.inst.length
  setupDone : (s.eng e).setupDone = true
  kind : (s.eng e).kind = .dvtx
  slot_lt : s.arg0.toNat < (s.eng e).slots
  format : s.par.dvRow (s.dvt e).dvMode = some row

section

variable {s : State} {e : Nat} {row : DvFormat} {ds rest : List Draw}

/-- A cycle that carries no data and is not stolen has no blocks (R247). -/
theorem State.TakesCycle.run_cipOnly (h : s.TakesCycle e row)
    (hans : s.answers ds rest (Dvt.releaseSlot (s.dvt e, []) s.arg0.toNat).2.length)
    (hdata : s.par.dataCycle (s.dvt e).txCycleCount.toNat = false)
    (hsteal : (s.eng e).stealCount = 0) :
    dvtCycle e s.arg0.toNat s =
      sendPacket e s.arg0.toNat row 0 0xFFFF (s.slotReleased e rest) := by
  have hsame := releaseSlot_sameCourse (s.dvt e) [] s.arg0.toNat
  rw [run_dvtCycle h.setupDone h.kind h.slot_lt h.format (run_releaseSlotRefs h.instance_lt hans)]
  simp [h.instance_lt, hsame.txCycleCount, hdata, hsteal, finishPacket, State.slotReleased]

/-- A cycle that carries data, or is stolen, takes its blocks first (R247). -/
theorem State.TakesCycle.run_blocks (h : s.TakesCycle e row)
    (hans : s.answers ds rest (Dvt.releaseSlot (s.dvt e, []) s.arg0.toNat).2.length)
    (hsend : s.par.dataCycle (s.dvt e).txCycleCount.toNat = true ∨ 0 < (s.eng e).stealCount.toNat) :
    dvtCycle e s.arg0.toNat s =
      (fillSlot e s.arg0.toNat row (s.dvt e).blocksPerCycle.toNat 0 0xFFFF >>=
        finishPacket e s.arg0.toNat row (!s.par.dataCycle (s.dvt e).txCycleCount.toNat))
          (s.slotReleased e rest) := by
  have hsame := releaseSlot_sameCourse (s.dvt e) [] s.arg0.toNat
  rw [run_dvtCycle h.setupDone h.kind h.slot_lt h.format (run_releaseSlotRefs h.instance_lt hans)]
  simp only [State.told_eng, eng_modDvt, dvt_modDvt_same (State.told _ _ _) _ h.instance_lt,
    hsame.txCycleCount, hsame.blocksPerCycle]
  cases hdata : s.par.dataCycle (s.dvt e).txCycleCount.toNat with
  | true => rfl
  | false =>
    have hsteal : decide (0 < (s.eng e).stealCount.toNat) = true :=
      decide_eq_true (hsend.resolve_left (by simp [hdata]))
    simp only [hsteal]
    rfl

end

/-- The packet of a cycle without data. -/
theorem State.withPacket_cipOnly {t : State} {e k : Nat} {row : DvFormat} {x z : Dvt} {clock : Word}
    (hx : x.SameCounters z) :
    t.withPacket e k row 0 0xFFFF x z clock =
      ((t.writeBytes ((t.eng e).slotAddr k) [(t.eng e).localSid.setWidth 8, row.dbs, row.fn ++ 0#6, x.dbc,
        0x80, row.mode, 0xFF, 0xFF]).modEng e (fun g =>
          { g with
            slotHdr := sparseSet g.slotHdr k
              (0x0008#16 ++ 0b01#2 ++ g.channel ++ 0xA#4 ++ 0x0#4) })).modDvt e
        (fun _ => { z with txCycleCount := x.txCycleCount + 1, txClock := clock }) := by
  have hdbc : x.dbc + BitVec.ofNat 8 0 = z.dbc := by simp [hx.dbc]
  rw [State.withPacket, hdbc, Nat.zero_mul]
  rfl

/-- The same when the clock raises, and stays. -/
theorem State.withPacket_cipOnly_clock {t : State} {e k : Nat} {row : DvFormat} {x z : Dvt}
    (hx : x.SameCounters z) :
    t.withPacket e k row 0 0xFFFF x z x.txClock =
      ((t.writeBytes ((t.eng e).slotAddr k) [(t.eng e).localSid.setWidth 8, row.dbs, row.fn ++ 0#6, x.dbc,
        0x80, row.mode, 0xFF, 0xFF]).modEng e (fun g =>
          { g with
            slotHdr := sparseSet g.slotHdr k
              (0x0008#16 ++ 0b01#2 ++ g.channel ++ 0xA#4 ++ 0x0#4) })).modDvt e
        (fun _ => { z with txCycleCount := x.txCycleCount + 1 }) := by
  rw [State.withPacket_cipOnly hx, ← hx.txClock]

/-- Settles O45: the two refusals, and the packet that `sendPacket` builds of no blocks. -/
theorem producesCipOnly : Obligations.ProducesCipOnly := by
  intro s e hs he g x k a accepted r
  refine ⟨?refused, ?cipOnly⟩
  case refused =>
    rintro (hno | hrow)
    · refine exec_dvtCycle_refused hs he ?_
      by_contra hall
      simp only [not_or, Bool.not_eq_false, not_not, not_le] at hall
      exact hno hall
    · exact exec_dvtCycle_noRow hs he hrow
  case cipOnly =>
    rintro row ds rest ⟨hset, hkind, hk⟩ hrow hans hdata hsteal freed built
    have htakes : s.TakesCycle e row := ⟨hs, he, hset, hkind, hk, hrow⟩
    have hcount : x.SameCounters r.1 := (releaseSlot_sameCourse x [] k).counters
    have hrun := htakes.run_cipOnly hans hdata hsteal
    have hsend := fun hin => run_sendPacket (t := freed) (k := k) (row := row) (n := 0) (w := 0xFFFF) he hin
      hcount
    rw [exec_dvtCycle_run hs he]
    refine ⟨fun hin hclock => ?_, fun hin hclock => ?_, fun hout => ?_⟩
    · rw [endCommand_producerBody (hrun.trans ((hsend hin).trans (if_pos hclock))),
        State.withPacket_cipOnly hcount, Nat.zero_mul]
      rfl
    · rw [endCommand_producerBody_fault (hrun.trans ((hsend hin).trans (if_neg hclock))),
        State.withPacket_cipOnly_clock hcount]
      rfl
    · have heng : (s.slotReleased e rest).eng e = g := eng_modDvt _ _ _ _
      have hbad := run_sendPacket_bad (t := s.slotReleased e rest) (e := e) (k := k) (row := row) (n := 0)
        (w := 0xFFFF) (by rw [heng]; exact hout)
      rw [endCommand_producerBody_fault (hrun.trans hbad), heng]
      rfl

end Sys2Proof.Machine
end

section
/-! PROOF. DVT_CYCLE with data (obligation O46). -/

namespace Sys2Proof.Machine

theorem run_bind_of_eq {α β : Type} {m m' : M α} {k : α → M β} {s t : State} (h : m s = m' t) :
    (m >>= k) s = (m' >>= k) t := by rw [run_bind, run_bind, h]

/-! ### The packet that is written -/

theorem modEng_congr {s : State} {e : Nat} {f g : Eng → Eng} (h : f (s.eng e) = g (s.eng e)) :
    s.modEng e f = s.modEng e g := by rw [modEng_eq, modEng_eq, h]

/-- The `n` blocks `bytes` are in the cycle buffer of ARG0, after the calls `outs` (44_dv_transmit.md R243). -/
def State.filled (s : State) (e n : Nat) (bytes : List Byte) (outs : List Out) (rest : List Draw) : State :=
  (s.told outs rest).storedAny ((s.eng e).slotAddr s.arg0.toNat + 8) n bytes

/-- The packet of these blocks stands in that buffer, with the SYT `w`; `z` is the DVT record after the blocks
(R243, R245, R247, R249). -/
def State.packed (s : State) (e : Nat) (row : DvFormat) (n : Nat) (bytes : List Byte) (w : Half)
    (outs : List Out) (rest : List Draw) (z : Dvt) (clock : Word) : State :=
  (((s.filled e n bytes outs rest).writeBytes ((s.eng e).slotAddr s.arg0.toNat)
      [(s.eng e).localSid.setWidth 8, row.dbs, row.fn ++ 0#6, (s.dvt e).dbc, 0x80, row.mode,
        w.extractLsb' 8 8, w.extractLsb' 0 8]).modEng e (fun g =>
    { g with
      slotHdr := sparseSet g.slotHdr s.arg0.toNat (isoHeader (8 + n * row.blk) g.channel)
      stealCount := if s.par.dataCycle (s.dvt e).txCycleCount.toNat = true ∨ n = 0 then g.stealCount
        else g.stealCount - 1 })).modDvt e
    (fun _ =>
      { z with
        dbc := (s.dvt e).dbc + BitVec.ofNat 8 n, txCycleCount := (s.dvt e).txCycleCount + 1
        txClock := clock })

/-- How DVT_CYCLE ends with that packet (R249; 41_cycle_time.md R141). -/
def State.sent (s : State) (e : Nat) (row : DvFormat) (n : Nat) (bytes : List Byte) (w : Half)
    (outs : List Out) (rest : List Draw) (z : Dvt) : State :=
  let x := s.dvt e
  let built := s.packed e row n bytes w outs rest z
  if ctLegal x.txClock then
    { built (ctSum x.txClock (ctCycles 1)) with
      res0 := BitVec.ofNat 32 (8 + n * row.blk), status := 0x00 }
  else (built x.txClock).takeFault (.ctRange x.txClock)

section

variable {s : State} {e n : Nat} {row : DvFormat} {bytes : List Byte} {w : Half} {outs : List Out}
  {rest : List Draw} {z : Dvt} {clock : Word}

@[simp] theorem State.filled_par : (s.filled e n bytes outs rest).par = s.par := State.storedAny_par _ _

@[simp] theorem State.filled_inst : (s.filled e n bytes outs rest).inst = s.inst := State.storedAny_inst _ _

@[simp] theorem State.filled_eng (j : Nat) : (s.filled e n bytes outs rest).eng j = s.eng j :=
  State.storedAny_eng _ _ _

@[simp] theorem State.filled_tape : (s.filled e n bytes outs rest).tape = rest := by
  unfold State.filled State.storedAny
  split <;> rfl

/-- A callback after the blocks is one before them: the blocks make none. -/
theorem State.filled_told (more : List Out) (rest' : List Draw) :
    (s.filled e n bytes outs rest).told more rest' = s.filled e n bytes (outs ++ more) rest' := by
  unfold State.filled State.storedAny
  rw [← State.told_told (rest := rest)]
  split <;> rfl

/-- The packet in a cycle that is not stolen, or that carries no block. -/
theorem State.packed_kept
    (h : s.par.dataCycle (s.dvt e).txCycleCount.toNat = true ∨ n = 0) :
    s.packed e row n bytes w outs rest z clock =
      (s.filled e n bytes outs rest).withPacket e s.arg0.toNat row n w (s.dvt e) z clock := by
  rw [State.packed, State.withPacket, State.filled_eng]
  refine congrArg (State.modDvt · e _) ?_
  refine modEng_congr ?_
  simp [h, Eng.setSlotHdr]

/-- The packet of a stolen cycle. -/
theorem State.packed_stolen (he : e < s.inst.length)
    (h : ¬ (s.par.dataCycle (s.dvt e).txCycleCount.toNat = true ∨ n = 0)) :
    s.packed e row n bytes w outs rest z clock =
      ((s.filled e n bytes outs rest).modEng e Eng.stolen).withPacket e s.arg0.toNat row n w (s.dvt e) z
        clock := by
  rw [State.packed, State.withPacket, eng_modEng_same _ _ (by simpa using he), State.filled_eng]
  refine congrArg (State.modDvt · e _) ?_
  rw [← modEng_writeBytes, modEng_modEng]
  refine modEng_congr ?_
  simp [h, Eng.setSlotHdr, Eng.stolen]

/-- When the blocks are in the cycle buffer, and its header lies in BUF, the command ends with their packet. -/
theorem State.run_finishPacket (he : e < s.inst.length) (hx : (s.dvt e).SameCounters z)
    (hb : (s.eng e).slotAddr s.arg0.toNat + 8 ≤ s.par.bufBytes) :
    finishPacket e s.arg0.toNat row (!s.par.dataCycle (s.dvt e).txCycleCount.toNat) (n, w)
        ((s.filled e n bytes outs rest).modDvt e (fun _ => z)) =
      if ctLegal (s.dvt e).txClock then
        .ok (.success, 8 + n * row.blk) (s.packed e row n bytes w outs rest z
          (ctSum (s.dvt e).txClock (ctCycles 1)))
      else .error .fault ((s.packed e row n bytes w outs rest z (s.dvt e).txClock).takeFault
        (.ctRange (s.dvt e).txClock)) := by
  rw [finishPacket]
  by_cases hkeep : s.par.dataCycle (s.dvt e).txCycleCount.toNat = true ∨ n = 0
  · have hno : ¬ ((!s.par.dataCycle (s.dvt e).txCycleCount.toNat) = true ∧ 0 < n) := by
      simpa [Nat.pos_iff_ne_zero, or_iff_not_imp_left] using hkeep
    simp only [if_neg hno, State.packed_kept hkeep]
    exact run_sendPacket (by simpa using he) (by simpa using hb) hx
  · have hyes : (!s.par.dataCycle (s.dvt e).txCycleCount.toNat) = true ∧ 0 < n := by
      simpa [Nat.pos_iff_ne_zero] using hkeep
    simp only [if_pos hyes, State.packed_stolen he hkeep, run_bind, run_modEng, modDvt_modEng]
    refine run_sendPacket (by simpa using he) ?_ hx
    rw [eng_modEng_same _ _ (by simpa using he)]
    simpa [Eng.stolen, Eng.slotAddr] using hb

/-- The command's outcome, from the blocks it copied and what is left to do. -/
theorem State.exec_dvtCycle_sent (hs : s.idle) (he : e < s.inst.length)
    (hx : (s.dvt e).SameCounters z)
    (hb : (s.eng e).slotAddr s.arg0.toNat + 8 ≤ s.par.bufBytes)
    (hrun : dvtCycle e s.arg0.toNat s =
      finishPacket e s.arg0.toNat row (!s.par.dataCycle (s.dvt e).txCycleCount.toNat) (n, w)
        ((s.filled e n bytes outs rest).modDvt e (fun _ => z))) :
    exec (.dvtCycle e) s = .next (s.sent e row n bytes w outs rest z) := by
  rw [State.run_finishPacket he hx hb] at hrun
  rw [exec_dvtCycle_run hs he, State.sent]
  by_cases hc : ctLegal (s.dvt e).txClock
  · rw [if_pos hc] at hrun ⊢
    rw [endCommand_producerBody hrun]
  · rw [if_neg hc] at hrun ⊢
    rw [endCommand_producerBody_fault hrun]

end

/-! ### The frame that gives the first block -/

/-- The command on a cycle that carries data or is stolen has come to its blocks: the calls `outs` are answered,
the DVT record is `z`, which has the frame `f` in progress, and the packet's SYT is `w` (R242, R246, R248). -/
structure State.Opens (s : State) (e f : Nat) (row : DvFormat) (outs : List Out) (rest : List Draw) (z : Dvt)
    (w : Half) : Prop where
  takes : s.TakesCycle e row
  run : dvtCycle e s.arg0.toNat s =
    (fillSlot e s.arg0.toNat row (s.dvt e).blocksPerCycle.toNat 0 w >>=
      finishPacket e s.arg0.toNat row (!s.par.dataCycle (s.dvt e).txCycleCount.toNat))
        ((s.told outs rest).modDvt e (fun _ => z))
  current : z.curFrame = some f
  frame_lt : f < z.frames.length
  refs : z.refs s.arg0.toNat = []
  counters : (s.dvt e).SameCounters z
  base : z.txFrameBase = (s.dvt e).txFrameBase

/-- The DVT record when the references of ARG0's buffer are dropped (R242). -/
def State.dropped (s : State) (e : Nat) : Dvt := (Dvt.releaseSlot (s.dvt e, []) s.arg0.toNat).1

/-- The calls that release frames then (R244). -/
def State.releases (s : State) (e : Nat) : List Out :=
  (Dvt.releaseSlot (s.dvt e, []) s.arg0.toNat).2.map (.frameRelease e)

/-- The SYT of a frame pulled now (R246, R248). -/
def State.nextSyt (s : State) (e : Nat) (row : DvFormat) : Half :=
  s.par.sytOf (s.dvt e).txClock row.startingSYTOffset

/-- The cycle carries data or is stolen (R247). -/
def State.carries (s : State) (e : Nat) : Prop :=
  s.par.dataCycle (s.dvt e).txCycleCount.toNat = true ∨ 0 < (s.eng e).stealCount.toNat

section

variable {s : State} {e f : Nat} {row : DvFormat} {ds rest : List Draw}

theorem State.dropped_sameCourse : (s.dvt e).SameCourse (s.dropped e) := releaseSlot_sameCourse _ _ _

theorem State.dropped_refs : (s.dropped e).refs s.arg0.toNat = [] :=
  releaseSlot_refs _ _ _

theorem State.TakesCycle.opens_current (h : s.TakesCycle e row) (hsend : s.carries e)
    (hans : s.answers ds rest (Dvt.releaseSlot (s.dvt e, []) s.arg0.toNat).2.length)
    (hcur : (s.dvt e).curFrame = some f) (hf : f < (s.dvt e).frames.length) :
    s.Opens e f row (s.releases e) rest (s.dropped e) 0xFFFF where
  takes := h
  run := h.run_blocks hans hsend
  current := State.dropped_sameCourse.curFrame.trans hcur
  frame_lt := State.dropped_sameCourse.frames.symm ▸ hf
  refs := State.dropped_refs
  counters := State.dropped_sameCourse.counters
  base := State.dropped_sameCourse.txFrameBase

theorem Dvt.frame_beginFrame {z : Dvt} {syt : Half} (hf : f < z.frames.length) :
    (z.beginFrame f syt).frame f =
      { inUse := true, curOffset := 0, dclProgramRefCount := 0, frameSYTTime := syt
        frameTransmitStartCycleTime := z.txClock } :=
  (Dvt.frame_modFrame z f (fun r => { r with
    inUse := true, curOffset := 0, dclProgramRefCount := 0, frameTransmitStartCycleTime := z.txClock
    frameSYTTime := syt }) f).trans (if_pos ⟨rfl, hf⟩)

theorem Dvt.beginFrame_eq {z : Dvt} {syt : Half} {clock : Word} (h : z.txClock = clock) :
    z.beginFrame f syt =
      { z.modFrame f (fun _ =>
          { inUse := true, curOffset := 0, dclProgramRefCount := 0, frameSYTTime := syt
            frameTransmitStartCycleTime := clock }) with curFrame := some f } := by
  subst h
  rfl

theorem Dvt.beginFrame_counters {x z : Dvt} {syt : Half} (h : x.SameCounters z) :
    x.SameCounters (z.beginFrame f syt) := ⟨h.dbc, h.txCycleCount, h.txClock⟩

theorem Dvt.beginFrame_txFrameBase {z : Dvt} {syt : Half} :
    (z.beginFrame f syt).txFrameBase = z.txFrameBase := rfl

theorem Dvt.beginFrame_refs {z : Dvt} {syt : Half} (k : Nat) : (z.beginFrame f syt).refs k = z.refs k := rfl

theorem Dvt.nextBlock_beginFrame {z : Dvt} {syt : Half} (hf : f < z.frames.length) :
    (z.beginFrame f syt).nextBlock row f = z.txFrameBase.toNat + f * row.frameSize := by
  rw [Dvt.nextBlock, Dvt.frame_beginFrame hf]
  rfl

section

variable {t : State} {z : Dvt} {k n nb : Nat} {w : Half} {d : Draw}

/-- With no frame in progress in its DVT record `z`, the command pulls the next one; `t` is the rest of its
state (R246, R248). -/
theorem run_fillSlot_pull {syt : Half} (he : e < t.inst.length)
    (hsyt : t.par.sytOf z.txClock row.startingSYTOffset = syt) (hcur : z.curFrame = none)
    (ht : t.tape = d :: rest) (hq : d.quiet) (hd : d.status = 0) (hf : d.word.toNat < z.frames.length)
    (hfree : (z.frame d.word.toNat).inUse = false) :
    fillSlot e k row (n + 1) nb w (t.modDvt e (fun _ => z)) =
      fillSlot e k row (n + 1) nb (if nb = 0 then syt else w)
        ((t.told [.framePull e] rest).modDvt e (fun _ => z.beginFrame d.word.toNat syt)) := by
  have hz : (t.modDvt e (fun _ => z)).dvt e = z := dvt_modDvt_same t _ he
  have hpull := run_pullFrame_ok (s := t.modDvt e (fun _ => z)) (e := e) (row := row) ht hq hd
    (hz.symm ▸ hf) (hz.symm ▸ hfree)
  have hpar : (t.modDvt e (fun _ => z)).par = t.par := rfl
  rw [hz, ← modDvt_told, modDvt_modDvt, hpar, hsyt] at hpull
  have hpulled := dvt_modDvt_same (t.told [.framePull e] rest)
    (fun _ => z.beginFrame d.word.toNat syt) he
  have hfill := run_fillSlot_pulled (n := n) (nb := nb) (w := w) (k := k)
    ((congrArg Dvt.curFrame hz).trans hcur) hpull (congrArg Dvt.curFrame hpulled)
  rw [hpulled, Dvt.frame_beginFrame hf] at hfill
  exact hfill

/-- When the client has none the packet ends there (R246). -/
theorem run_fillSlot_noFrame (he : e < t.inst.length) (hcur : z.curFrame = none) (ht : t.tape = d :: rest)
    (hq : d.quiet)
    (h : d.status ≠ 0 ∨ z.frames.length ≤ d.word.toNat ∨ (z.frame d.word.toNat).inUse = true) :
    fillSlot e k row (n + 1) nb w (t.modDvt e (fun _ => z)) =
      .ok (nb, w) ((t.told [.framePull e] rest).modDvt e (fun _ => z)) := by
  have hz : (t.modDvt e (fun _ => z)).dvt e = z := dvt_modDvt_same t _ he
  exact run_fillSlot_refused ((congrArg Dvt.curFrame hz).trans hcur)
    (run_pullFrame_refused ht hq (hz.symm ▸ h))

end

theorem State.TakesCycle.opens_pulled {d : Draw} (h : s.TakesCycle e row) (hsend : s.carries e)
    (hB : 1 ≤ (s.dvt e).blocksPerCycle.toNat)
    (hans : s.answers ds (d :: rest) (Dvt.releaseSlot (s.dvt e, []) s.arg0.toNat).2.length)
    (hcur : (s.dvt e).curFrame = none) (hf : f < (s.dvt e).frames.length) (hq : d.quiet)
    (hd : d.status = 0) (hword : d.word.toNat = f) (hfree : ((s.dropped e).frame f).inUse = false) :
    s.Opens e f row (s.releases e ++ [.framePull e]) rest ((s.dropped e).beginFrame f (s.nextSyt e row))
      (s.nextSyt e row) := by
  subst hword
  have hsame := State.dropped_sameCourse (s := s) (e := e)
  have hlen : d.word.toNat < (s.dropped e).frames.length := hsame.frames.symm ▸ hf
  refine ⟨h, ?_, rfl, by simpa using hlen, (Dvt.beginFrame_refs _).trans State.dropped_refs,
    Dvt.beginFrame_counters hsame.counters, Dvt.beginFrame_txFrameBase.trans hsame.txFrameBase⟩
  obtain ⟨n, hn⟩ : ∃ n, (s.dvt e).blocksPerCycle.toNat = n + 1 := ⟨_, (Nat.sub_add_cancel hB).symm⟩
  have hfill := run_fillSlot_pull (t := s.told (s.releases e) (d :: rest)) (z := s.dropped e) (row := row)
    (k := s.arg0.toNat) (n := n) (nb := 0) (w := 0xFFFF) h.instance_lt
    (congrArg (fun c => s.par.sytOf c row.startingSYTOffset) hsame.txClock) (hsame.curFrame.trans hcur) rfl
    hq hd hlen hfree
  rw [if_pos rfl, State.told_told] at hfill
  rw [h.run_blocks hans hsend, hn]
  exact run_bind_of_eq hfill

end

/-! ### The blocks of the packet -/

theorem Eng.blockAddr_zero (g : Eng) (k : Nat) (row : DvFormat) : g.blockAddr k row 0 = g.slotAddr k + 8 := by
  rw [Eng.blockAddr, Nat.zero_mul, Nat.add_zero]

theorem Dvt.copiedAny_pos {z : Dvt} {k f n blk len : Nat} (hn : 0 < n) :
    z.copiedAny k f n blk len = z.copied k f n blk len := if_neg (Nat.ne_of_gt hn)

theorem Dvt.copied_counters {x z : Dvt} {k f n blk len : Nat} (h : x.SameCounters z) :
    x.SameCounters (z.copied k f n blk len) := ⟨h.dbc, h.txCycleCount, h.txClock⟩

theorem Dvt.copied_length {z : Dvt} {k f n blk len : Nat} :
    (z.copied k f n blk len).frames.length = z.frames.length := by simp [Dvt.copied]

theorem Dvt.copied_inUse {z : Dvt} {k f n blk len : Nat} (j : Nat) :
    ((z.copied k f n blk len).frame j).inUse = (z.frame j).inUse := by
  refine (congrArg TxFrame.inUse (Dvt.frame_modFrame z f (fun r => { r with
    curOffset := r.curOffset + n * blk, dclProgramRefCount := r.dclProgramRefCount + 1 }) j)).trans ?_
  split
  · next h => rw [h.1]
  · rfl

theorem Dvt.copied_refs {z : Dvt} {k f n blk len : Nat} (h : z.refs k = []) :
    (z.copied k f n blk len).refs k = [f] := by
  show (sparseGet (sparseSet z.slotRefs k (insertIndex f (z.refs k))) k).getD [] = [f]
  rw [sparseGet_set, if_pos rfl, h]
  rfl

/-- A frame of which `m` blocks are left has not ended before the last of them. -/
theorem offset_ne_of_le {off blk len m : Nat} (hblk : 0 < blk) (h : off + m * blk ≤ len) (i : Nat)
    (hi : i < m) : off + i * blk ≠ len := by
  have := Nat.mul_lt_mul_of_pos_right hi hblk
  omega

/-- A frame outside the whole packet is outside its blocks `nb` to `nb + n`. -/
theorem apart_blocks {p len a nb n blk B : Nat} (hB : nb + n ≤ B)
    (h : p + len ≤ a ∨ a + B * blk ≤ p) : p + len ≤ a + nb * blk ∨ a + nb * blk + n * blk ≤ p := by
  have := Nat.mul_le_mul_right blk hB
  rw [Nat.add_mul] at this
  omega

/-- The same for the first `n` blocks. -/
theorem apart_firstBlocks {p len a n blk B : Nat} (hB : n ≤ B) (h : p + len ≤ a ∨ a + B * blk ≤ p) :
    p + len ≤ a ∨ a + n * blk ≤ p :=
  h.imp_right (le_trans (Nat.add_le_add_left (Nat.mul_le_mul_right blk hB) a))

section

variable {s : State} {e f m n : Nat} {row : DvFormat} {outs : List Out} {rest : List Draw} {z : Dvt}
  {w : Half}

theorem State.afterBlocks_told :
    (s.told outs rest).afterBlocks e z s.arg0.toNat f row 0 m =
      (s.filled e m (s.readBytes (z.nextBlock row f) (m * row.blk)) outs rest).modDvt e
        (fun _ => z.copiedAny s.arg0.toNat f m row.blk row.frameSize) := by
  rw [State.afterBlocks, Eng.blockAddr_zero]
  rfl

namespace State.Opens

theorem nextBlock (h : s.Opens e f row outs rest z w) : z.nextBlock row f =
    (s.dvt e).txFrameBase.toNat + f * row.frameSize + (z.frame f).curOffset := by
  rw [Dvt.nextBlock, h.base]

theorem canCopy (h : s.Opens e f row outs rest z w)
    (hsource : 0 < m → z.nextBlock row f + m * row.blk ≤ s.par.bufBytes)
    (htarget : 0 < m → (s.eng e).slotAddr s.arg0.toNat + 8 + m * row.blk ≤ s.par.bufBytes)
    (hinside : ∀ i, i < m → 0 < i → (z.frame f).curOffset + i * row.blk ≠ row.frameSize)
    (hapart : 1 < m → z.nextBlock row f + m * row.blk ≤ (s.eng e).slotAddr s.arg0.toNat + 8 ∨
      (s.eng e).slotAddr s.arg0.toNat + 8 + m * row.blk ≤ z.nextBlock row f) :
    (s.told outs rest).CanCopy e z s.arg0.toNat f row 0 m where
  instance_lt := h.takes.instance_lt
  current := h.current
  frame_lt := h.frame_lt
  fresh := by rw [h.refs]; exact List.not_mem_nil
  source := hsource
  target := by rw [Eng.blockAddr_zero]; exact htarget
  inside i hi hm := hinside i hm hi
  apart := by rw [Eng.blockAddr_zero]; exact hapart

/-- The command when the first `m` blocks are copied. -/
theorem run_copied (h : s.Opens e f row outs rest z w)
    (hcopy : (s.told outs rest).CanCopy e z s.arg0.toNat f row 0 m)
    (hB : (s.dvt e).blocksPerCycle.toNat = m + n) :
    dvtCycle e s.arg0.toNat s =
      (fillSlot e s.arg0.toNat row n m w >>=
        finishPacket e s.arg0.toNat row (!s.par.dataCycle (s.dvt e).txCycleCount.toNat))
        ((s.filled e m (s.readBytes (z.nextBlock row f) (m * row.blk)) outs rest).modDvt e
          (fun _ => z.copiedAny s.arg0.toNat f m row.blk row.frameSize)) := by
  rw [h.run, hB, ← State.afterBlocks_told]
  refine run_bind_of_eq ?_
  rw [hcopy.run_fillSlot n, Nat.zero_add]

/-- A packet of blocks of one frame. -/
theorem exec_full {p : Nat} (h : s.Opens e f row outs rest z w) (hm : 0 < m)
    (hB : (s.dvt e).blocksPerCycle.toNat = m) (hp : z.nextBlock row f = p)
    (hb : (s.eng e).slotAddr s.arg0.toNat + 8 + m * row.blk ≤ s.par.bufBytes)
    (hsource : p + m * row.blk ≤ s.par.bufBytes) (hblk : 1 < m → 0 < row.blk)
    (hseveral : 1 < m → (p + m * row.blk ≤ (s.eng e).slotAddr s.arg0.toNat + 8 ∨
      (s.eng e).slotAddr s.arg0.toNat + 8 + m * row.blk ≤ p) ∧
      (z.frame f).curOffset + m * row.blk ≤ row.frameSize) :
    exec (.dvtCycle e) s = .next (s.sent e row m (s.readBytes p (m * row.blk)) w outs rest
      (z.copied s.arg0.toNat f m row.blk row.frameSize)) := by
  subst hp
  have hcopy := h.canCopy (fun _ => hsource) (fun _ => hb)
    (fun i hi h0 => offset_ne_of_le (hblk (by omega)) (hseveral (by omega)).2 i hi)
    (fun hlt => (hseveral hlt).1)
  refine State.exec_dvtCycle_sent h.takes.idle h.takes.instance_lt (Dvt.copied_counters h.counters)
    (le_trans (Nat.le_add_right _ _) hb) ?_
  rw [h.run_copied (n := 0) hcopy hB, run_bind, run_fillSlot_zero, Dvt.copiedAny_pos hm]

/-- The state when the first `m` blocks are copied and the next one cannot be. -/
theorem exec_stopped (h : s.Opens e f row outs rest z w)
    (hcopy : (s.told outs rest).CanCopy e z s.arg0.toNat f row 0 m)
    (hm : m < (s.dvt e).blocksPerCycle.toNat)
    (hend : m ≠ 0 → (z.frame f).curOffset + m * row.blk ≠ row.frameSize) {b : BlockFault}
    (hfault : copyOut e s.arg0.toNat row m f ((s.told outs rest).afterBlocks e z s.arg0.toNat f row 0 m) =
      .error .fault (((s.told outs rest).afterBlocks e z s.arg0.toNat f row 0 m).takeFault b)) :
    exec (.dvtCycle e) s = .next
      (((s.told outs rest).afterBlocks e z s.arg0.toNat f row 0 m).takeFault b) := by
  obtain ⟨n, hn⟩ : ∃ n, (s.dvt e).blocksPerCycle.toNat = m + (n + 1) :=
    ⟨_, by rw [← Nat.add_assoc, Nat.add_right_comm]; exact (Nat.add_sub_cancel' hm).symm⟩
  have hcur : (((s.told outs rest).afterBlocks e z s.arg0.toNat f row 0 m).dvt e).curFrame = some f := by
    rw [State.afterBlocks_dvt hcopy.instance_lt, Dvt.copiedAny_curFrame h.current hend]
  rw [exec_dvtCycle_run h.takes.idle h.takes.instance_lt]
  refine congrArg Host.Outcome.next (endCommand_producerBody_fault ?_)
  rw [h.run_copied hcopy hn, ← State.afterBlocks_told, run_bind, run_fillSlot_current hcur, run_bind, hfault]

/-- The next block of the frame lies outside BUF (20_memory.md R62). -/
theorem exec_badSource (h : s.Opens e f row outs rest z w)
    (hcopy : (s.told outs rest).CanCopy e z s.arg0.toNat f row 0 m)
    (hm : m < (s.dvt e).blocksPerCycle.toNat)
    (hend : m ≠ 0 → (z.frame f).curOffset + m * row.blk ≠ row.frameSize)
    (hout : s.par.bufBytes < z.nextBlock row f + m * row.blk + row.blk) :
    exec (.dvtCycle e) s = .next (((s.told outs rest).afterBlocks e z s.arg0.toNat f row 0 m).takeFault
      (.badAddress (z.nextBlock row f + m * row.blk) row.blk)) := by
  have hnext : (((s.told outs rest).afterBlocks e z s.arg0.toNat f row 0 m).dvt e).nextBlock row f =
      z.nextBlock row f + m * row.blk := by
    rw [State.afterBlocks_dvt hcopy.instance_lt, Dvt.nextBlock_copiedAny h.frame_lt]
  refine h.exec_stopped hcopy hm hend ?_
  rw [← hnext] at hout ⊢
  exact run_copyOut_badSource (by simpa using hout)

/-- Its place in the cycle buffer lies outside BUF (R62). -/
theorem exec_badTarget (h : s.Opens e f row outs rest z w)
    (hcopy : (s.told outs rest).CanCopy e z s.arg0.toNat f row 0 m)
    (hm : m < (s.dvt e).blocksPerCycle.toNat)
    (hend : m ≠ 0 → (z.frame f).curOffset + m * row.blk ≠ row.frameSize)
    (hin : z.nextBlock row f + m * row.blk + row.blk ≤ s.par.bufBytes)
    (hout : s.par.bufBytes < (s.eng e).slotAddr s.arg0.toNat + 8 + m * row.blk + row.blk) :
    exec (.dvtCycle e) s = .next (((s.told outs rest).afterBlocks e z s.arg0.toNat f row 0 m).takeFault
      (.badAddress ((s.eng e).slotAddr s.arg0.toNat + 8 + m * row.blk) row.blk)) := by
  have hnext : (((s.told outs rest).afterBlocks e z s.arg0.toNat f row 0 m).dvt e).nextBlock row f =
      z.nextBlock row f + m * row.blk := by
    rw [State.afterBlocks_dvt hcopy.instance_lt, Dvt.nextBlock_copiedAny h.frame_lt]
  have haddr : (((s.told outs rest).afterBlocks e z s.arg0.toNat f row 0 m).eng e).blockAddr s.arg0.toNat
      row m = (s.eng e).slotAddr s.arg0.toNat + 8 + m * row.blk := by
    rw [State.afterBlocks_eng]
    rfl
  refine h.exec_stopped hcopy hm hend ?_
  rw [← hnext] at hin
  rw [← haddr] at hout ⊢
  exact run_copyOut_badTarget (by simpa using hin) (by simpa using hout)

/-- The frame ends after `m` blocks and no other is pulled: a short packet (R246). -/
theorem exec_short {d : Draw} (h : s.Opens e f row outs (d :: rest) z w) (hm : 0 < m)
    (hcopy : (s.told outs (d :: rest)).CanCopy e z s.arg0.toNat f row 0 m)
    (hB : (s.dvt e).blocksPerCycle.toNat = m + (n + 1))
    (hend : (z.frame f).curOffset + m * row.blk = row.frameSize)
    (hb : (s.eng e).slotAddr s.arg0.toNat + 8 ≤ s.par.bufBytes) (hq : d.quiet)
    (hno : d.status ≠ 0 ∨ z.frames.length ≤ d.word.toNat ∨
      ((z.copied s.arg0.toNat f m row.blk row.frameSize).frame d.word.toNat).inUse = true) :
    exec (.dvtCycle e) s = .next (s.sent e row m (s.readBytes (z.nextBlock row f) (m * row.blk)) w
      (outs ++ [.framePull e]) rest (z.copied s.arg0.toNat f m row.blk row.frameSize)) := by
  have hrun := h.run_copied hcopy hB
  rw [Dvt.copiedAny_pos hm] at hrun
  have hnone : (z.copied s.arg0.toNat f m row.blk row.frameSize).curFrame = none := if_pos hend
  refine State.exec_dvtCycle_sent h.takes.idle h.takes.instance_lt
    (Dvt.copied_counters h.counters) hb ?_
  have hfill := run_fillSlot_noFrame (k := s.arg0.toNat) (n := n) (nb := m) (w := w) (row := row)
    (t := s.filled e m (s.readBytes (z.nextBlock row f) (m * row.blk)) outs (d :: rest)) (e := e)
    (by simpa using h.takes.instance_lt) hnone State.filled_tape hq
    (by rw [Dvt.copied_length]; exact hno)
  rw [hrun, run_bind, hfill, State.filled_told]

end State.Opens

/-- Blocks of a second frame behind those of the first. -/
theorem State.afterBlocks_filled {bytes : List Byte} {k j : Nat} (hk : k = s.arg0.toNat) (hm : 0 < m)
    (hn : 0 < n) (hbytes : bytes.length = m * row.blk)
    (hapart : z.nextBlock row j + n * row.blk ≤ (s.eng e).slotAddr k + 8 ∨
      (s.eng e).slotAddr k + 8 + m * row.blk ≤ z.nextBlock row j) :
    (s.filled e m bytes outs rest).afterBlocks e z k j row m n =
      (s.filled e (m + n) (bytes ++ s.readBytes (z.nextBlock row j) (n * row.blk)) outs rest).modDvt e
        (fun _ => z.copied k j n row.blk row.frameSize) := by
  subst hk
  have hfilled : s.filled e m bytes outs rest =
      (s.told outs rest).writeBytes ((s.eng e).slotAddr s.arg0.toNat + 8) bytes := if_neg (Nat.ne_of_gt hm)
  have hread : (s.filled e m bytes outs rest).readBytes (z.nextBlock row j) (n * row.blk) =
      s.readBytes (z.nextBlock row j) (n * row.blk) := by
    rw [hfilled]
    exact readBytes_writeBytes_other _ _ _ _ _ (by rw [hbytes]; exact hapart)
  have haddr : ((s.filled e m bytes outs rest).eng e).blockAddr s.arg0.toNat row m =
      (s.eng e).slotAddr s.arg0.toNat + 8 + bytes.length := by
    rw [State.filled_eng, hbytes]
    rfl
  rw [State.afterBlocks, hread, haddr, Dvt.copiedAny_pos hn, hfilled, State.storedAny,
    if_neg (Nat.ne_of_gt hn), writeBytes_writeBytes_next, State.filled, State.storedAny,
    if_neg (Nat.ne_of_gt (Nat.add_pos_left hm n))]

/-- The blocks of a frame just pulled can be copied behind the `m` that are there. -/
theorem State.canCopy_pulled {bytes : List Byte} {c : Dvt} {j : Nat} {syt : Half} (he : e < s.inst.length)
    (hlen : j < c.frames.length) (hfresh : j ∉ c.refs s.arg0.toNat) (hblk : 0 < row.blk)
    (hin : n * row.blk ≤ row.frameSize)
    (hsource : c.txFrameBase.toNat + j * row.frameSize + n * row.blk ≤ s.par.bufBytes)
    (htarget : (s.eng e).slotAddr s.arg0.toNat + 8 + (m + n) * row.blk ≤ s.par.bufBytes)
    (hapart : c.txFrameBase.toNat + j * row.frameSize + n * row.blk ≤
        (s.eng e).slotAddr s.arg0.toNat + 8 ∨
      (s.eng e).slotAddr s.arg0.toNat + 8 + (m + n) * row.blk ≤
        c.txFrameBase.toNat + j * row.frameSize) :
    (s.filled e m bytes outs rest).CanCopy e (c.beginFrame j syt) s.arg0.toNat j row m n where
  instance_lt := by simpa using he
  current := rfl
  frame_lt := by simpa using hlen
  fresh := hfresh
  source _ := by rw [Dvt.nextBlock_beginFrame hlen, State.filled_par]; exact hsource
  target _ := by
    rw [State.filled_eng, State.filled_par, Eng.blockAddr, Nat.add_assoc, ← Nat.add_mul]
    exact htarget
  inside i _ hi := by
    rw [Dvt.frame_beginFrame hlen]
    exact offset_ne_of_le hblk (by simpa using hin) i hi
  apart _ := by
    rw [Dvt.nextBlock_beginFrame hlen, State.filled_eng]
    exact apart_blocks le_rfl hapart

/-- The frame ends after `m` blocks and the rest of the packet comes from the next one pulled, which brings no
SYT (R246). -/
theorem State.Opens.exec_second {d : Draw} {j : Nat} {syt : Half} (h : s.Opens e f row outs (d :: rest) z w)
    (hm : 0 < m) (hn : 0 < n) (hcopy : (s.told outs (d :: rest)).CanCopy e z s.arg0.toNat f row 0 m)
    (hB : (s.dvt e).blocksPerCycle.toNat = m + n)
    (hend : (z.frame f).curOffset + m * row.blk = row.frameSize)
    (hb : (s.eng e).slotAddr s.arg0.toNat + 8 + (m + n) * row.blk ≤ s.par.bufBytes)
    (hq : d.quiet) (hd : d.status = 0) (hj : d.word.toNat = j) (hlen : j < z.frames.length) (hne : j ≠ f)
    (hfree : ((z.copied s.arg0.toNat f m row.blk row.frameSize).frame j).inUse = false)
    (hsyt : s.nextSyt e row = syt)
    (hblk : 0 < row.blk) (hin : n * row.blk ≤ row.frameSize)
    (hsource : (s.dvt e).txFrameBase.toNat + j * row.frameSize + n * row.blk ≤ s.par.bufBytes)
    (hapart : (s.dvt e).txFrameBase.toNat + j * row.frameSize + n * row.blk ≤
        (s.eng e).slotAddr s.arg0.toNat + 8 ∨
      (s.eng e).slotAddr s.arg0.toNat + 8 + (m + n) * row.blk ≤
        (s.dvt e).txFrameBase.toNat + j * row.frameSize) :
    exec (.dvtCycle e) s = .next (s.sent e row (m + n)
      (s.readBytes (z.nextBlock row f) (m * row.blk) ++
        s.readBytes ((s.dvt e).txFrameBase.toNat + j * row.frameSize) (n * row.blk)) w
      (outs ++ [.framePull e]) rest
      (((z.copied s.arg0.toNat f m row.blk row.frameSize).beginFrame j syt).copied s.arg0.toNat j n row.blk
        row.frameSize)) := by
  subst hj
  obtain ⟨n', rfl⟩ : ∃ n', n = n' + 1 := ⟨_, (Nat.sub_add_cancel hn).symm⟩
  have hrun := h.run_copied hcopy hB
  rw [Dvt.copiedAny_pos hm] at hrun
  generalize hc : z.copied s.arg0.toNat f m row.blk row.frameSize = c at *
  have hclen : d.word.toNat < c.frames.length := by rw [← hc, Dvt.copied_length]; exact hlen
  have hcnone : c.curFrame = none := by rw [← hc]; exact if_pos hend
  have hcx : (s.dvt e).SameCounters c := hc ▸ Dvt.copied_counters h.counters
  have hcbase : c.txFrameBase = (s.dvt e).txFrameBase := by rw [← hc]; exact h.base
  have hcrefs : c.refs s.arg0.toNat = [f] := hc ▸ Dvt.copied_refs h.refs
  have hnext : (c.beginFrame d.word.toNat syt).nextBlock row d.word.toNat =
      c.txFrameBase.toNat + d.word.toNat * row.frameSize := Dvt.nextBlock_beginFrame hclen
  have hfill := run_fillSlot_pull (k := s.arg0.toNat) (n := n') (nb := m) (w := w) (row := row)
    (t := s.filled e m (s.readBytes (z.nextBlock row f) (m * row.blk)) outs (d :: rest)) (e := e) (z := c)
    (syt := syt) (by simpa using h.takes.instance_lt)
    (by rw [State.filled_par, hcx.txClock]; exact hsyt) hcnone State.filled_tape hq hd hclen hfree
  rw [if_neg (Nat.ne_of_gt hm), State.filled_told] at hfill
  rw [← hcbase] at hsource hapart
  have hcopy2 := State.canCopy_pulled (bytes := s.readBytes (z.nextBlock row f) (m * row.blk))
    (outs := outs ++ [.framePull e]) (rest := rest) (syt := syt) h.takes.instance_lt hclen
    (fun hmem => hne (List.mem_singleton.mp (hcrefs ▸ hmem))) hblk hin hsource hb hapart
  have hblocks := hcopy2.run_fillSlot (w := w) 0
  rw [State.afterBlocks_filled rfl hm hn (readBytes_length _ _ _) (by
    rw [hnext]
    exact apart_firstBlocks (Nat.le_add_right m (n' + 1)) hapart), hnext, hcbase, Nat.add_zero,
    run_fillSlot_zero] at hblocks
  refine State.exec_dvtCycle_sent h.takes.idle h.takes.instance_lt
    ⟨hcx.dbc, hcx.txCycleCount, hcx.txClock⟩ (le_trans (Nat.le_add_right _ _) hb) ?_
  rw [hrun, run_bind, hfill, hblocks]

end

/-! ### Without a frame -/

section

variable {s : State} {e : Nat} {row : DvFormat} {ds rest : List Draw} {d : Draw}

/-- The first pull fails: no block is in the packet (R246). -/
theorem State.TakesCycle.run_noFrame (h : s.TakesCycle e row) (hsend : s.carries e)
    (hB : 1 ≤ (s.dvt e).blocksPerCycle.toNat)
    (hans : s.answers ds (d :: rest) (Dvt.releaseSlot (s.dvt e, []) s.arg0.toNat).2.length)
    (hcur : (s.dvt e).curFrame = none) (hq : d.quiet)
    (hno : d.status ≠ 0 ∨ (s.dvt e).frames.length ≤ d.word.toNat ∨
      ((s.dropped e).frame d.word.toNat).inUse = true) :
    dvtCycle e s.arg0.toNat s =
      finishPacket e s.arg0.toNat row (!s.par.dataCycle (s.dvt e).txCycleCount.toNat) (0, 0xFFFF)
        ((s.filled e 0 [] (s.releases e ++ [.framePull e]) rest).modDvt e (fun _ => s.dropped e)) := by
  have hsame := State.dropped_sameCourse (s := s) (e := e)
  obtain ⟨n, hn⟩ : ∃ n, (s.dvt e).blocksPerCycle.toNat = n + 1 := ⟨_, (Nat.sub_add_cancel hB).symm⟩
  have hfill := run_fillSlot_noFrame (t := s.told (s.releases e) (d :: rest)) (z := s.dropped e) (row := row)
    (k := s.arg0.toNat) (n := n) (nb := 0) (w := 0xFFFF) h.instance_lt (hsame.curFrame.trans hcur) rfl hq
    (hsame.frames.symm ▸ hno)
  rw [State.told_told] at hfill
  rw [h.run_blocks hans hsend, hn]
  exact run_bind_of_eq (m' := pure _) hfill

/-- The packet without blocks has no place for its header (20_memory.md R62). -/
theorem State.TakesCycle.exec_noFrame_bad (h : s.TakesCycle e row) (hsend : s.carries e)
    (hB : 1 ≤ (s.dvt e).blocksPerCycle.toNat)
    (hans : s.answers ds (d :: rest) (Dvt.releaseSlot (s.dvt e, []) s.arg0.toNat).2.length)
    (hcur : (s.dvt e).curFrame = none) (hq : d.quiet)
    (hno : d.status ≠ 0 ∨ (s.dvt e).frames.length ≤ d.word.toNat ∨
      ((s.dropped e).frame d.word.toNat).inUse = true)
    (hout : s.par.bufBytes < (s.eng e).slotAddr s.arg0.toNat + 8) :
    exec (.dvtCycle e) s = .next (((s.told (s.releases e ++ [.framePull e]) rest).modDvt e (fun _ =>
      s.dropped e)).takeFault (.badAddress ((s.eng e).slotAddr s.arg0.toNat) 8)) := by
  have hrun := h.run_noFrame hsend hB hans hcur hq hno
  rw [finishPacket, if_neg (fun hn => absurd hn.2 (Nat.lt_irrefl 0))] at hrun
  have heng : (((s.filled e 0 [] (s.releases e ++ [.framePull e]) rest).modDvt e (fun _ =>
    s.dropped e)).eng e) = s.eng e := by simp
  have hbad := run_sendPacket_bad (t := (s.filled e 0 [] (s.releases e ++ [.framePull e]) rest).modDvt e
    (fun _ => s.dropped e)) (e := e) (k := s.arg0.toNat) (row := row) (n := 0) (w := 0xFFFF)
    (by rw [heng]; simpa using hout)
  rw [exec_dvtCycle_run h.idle h.instance_lt, endCommand_producerBody_fault (hrun.trans hbad), heng]
  rfl

end

/-- Settles O46: the frame that gives the first block, current or just pulled, then the blocks. -/
theorem producesBlocks : Obligations.ProducesBlocks := by
  intro s e f row ds rest hs he g x k a blk B onData y freed syt first apart copied pulled filled packet
    hset hkind hk hrow hB hdbs hsend
  have htakes : s.TakesCycle e row := ⟨hs, he, hset, hkind, hk, hrow⟩
  have hsame : x.SameCourse y := State.dropped_sameCourse (s := s) (e := e)
  have hlen : (Dvt.releaseSlot (x, []) k).2.length = freed.length := (List.length_map _).symm
  have hblk : 1 < B → 0 < row.blk := fun hlt => Nat.mul_pos (hdbs hlt) (by decide)
  have hpulled : ∀ (z : Dvt) (j : Nat), z.txClock = x.txClock → pulled z j = z.beginFrame j syt :=
    fun z j hz => (Dvt.beginFrame_eq hz).symm
  refine ⟨fun hin => ⟨?current, ?pulled, ?none, ?second⟩, ?noHeader, ?stopped⟩
  case current =>
    intro p hf hcur hsource hseveral hans
    have hopens : s.Opens e f row freed rest y 0xFFFF :=
      htakes.opens_current hsend (hlen ▸ hans) hcur hf
    exact hopens.exec_full hB rfl (by rw [hopens.nextBlock, hsame.curOffset]) hin hsource hblk
      (fun hlt => ⟨(hseveral hlt).1, (hsame.curOffset f).symm ▸ (hseveral hlt).2⟩)
  case pulled =>
    intro d hf hcur hans hq hd hj hfree hsource hseveral
    have hopens : s.Opens e f row (freed ++ [.framePull e]) rest (y.beginFrame f syt) syt :=
      htakes.opens_pulled hsend hB (hlen ▸ hans) hcur hf hq hd hj hfree
    have hstart : ((y.beginFrame f syt).frame f).curOffset = 0 := by
      rw [Dvt.frame_beginFrame (hsame.frames.symm ▸ hf)]
    rw [hpulled y f hsame.txClock]
    exact hopens.exec_full hB rfl (hopens.nextBlock.trans (by rw [hstart, Nat.add_zero])) hin hsource hblk
      (fun hlt => ⟨(hseveral hlt).1, by rw [hstart, Nat.zero_add]; exact (hseveral hlt).2⟩)
  case none =>
    intro d hcur hans hq hno
    exact State.exec_dvtCycle_sent hs he hsame.counters (le_trans (Nat.le_add_right _ _) hin)
      (htakes.run_noFrame hsend hB (hlen ▸ hans) hcur hq hno)
  case second =>
    intro m j d hf hcur hm hmB hend p n hsource hapart hans hq hj
    have hopens : s.Opens e f row freed (d :: rest) y 0xFFFF :=
      htakes.opens_current hsend (hlen ▸ hans) hcur hf
    have hmn : B = m + n := (Nat.add_sub_cancel' (Nat.le_of_lt hmB)).symm
    have hblk0 : 0 < row.blk := hblk (Nat.lt_of_le_of_lt hm hmB)
    have hp : y.nextBlock row f = p := by rw [hopens.nextBlock, hsame.curOffset]
    have hoff : (y.frame f).curOffset + m * row.blk = row.frameSize := (hsame.curOffset f).symm ▸ hend
    have happart := apart_firstBlocks (Nat.le_of_lt hmB) hapart
    have hcopy := hopens.canCopy (m := m) (fun _ => hp.symm ▸ hsource)
      (fun _ => le_trans (Nat.add_le_add_left (Nat.mul_le_mul_right _ (Nat.le_of_lt hmB)) _) hin)
      (fun i hi _ => offset_ne_of_le hblk0 (Nat.le_of_eq hoff) i hi) (fun _ => hp.symm ▸ happart)
    have hfree : ((y.copied k f m row.blk row.frameSize).frame j).inUse = (y.frame j).inUse :=
      Dvt.copied_inUse j
    refine ⟨fun hd hjlen hne hunused hn hsecond hsecondApart => ?_, fun hno => ?_⟩
    · rw [hpulled (copied y f m) j hsame.txClock]
      have h2 := hopens.exec_second hm (Nat.sub_pos_of_lt hmB) hcopy hmn hoff (hmn ▸ hin) hq hd hj
        (hsame.frames.symm ▸ hjlen) hne (hfree.trans hunused) rfl hblk0 hn hsecond (hmn ▸ hsecondApart)
      rw [hp, ← hmn] at h2
      exact h2
    · have h1 := hopens.exec_short (n := n - 1) hm hcopy
        (by rw [Nat.sub_add_cancel (Nat.sub_pos_of_lt hmB)]; exact hmn) hoff
        (le_trans (Nat.le_add_right _ _) hin) hq
        (by rw [hj, hsame.frames, hfree]; exact hno)
      rw [hp] at h1
      exact h1
  case noHeader =>
    intro d hcur hans hq hno hout
    exact htakes.exec_noFrame_bad hsend hB (hlen ▸ hans) hcur hq hno hout
  case stopped =>
    intro m outs z hf hmB hstart p next hsofar hapart stopped
    have hopens : ∃ w, s.Opens e f row outs rest z w := by
      rcases hstart with ⟨hcur, hans, rfl, rfl⟩ | ⟨hcur, rfl, rfl, d, hans, hq, hd, hj, hfree⟩
      · exact ⟨_, htakes.opens_current hsend (hlen ▸ hans) hcur hf⟩
      · rw [hpulled y f hsame.txClock]
        exact ⟨_, htakes.opens_pulled hsend hB (hlen ▸ hans) hcur hf hq hd hj hfree⟩
    obtain ⟨w, hopens⟩ := hopens
    have hp : z.nextBlock row f = p := hopens.nextBlock
    have hstopped : (s.told outs rest).afterBlocks e z k f row 0 m = stopped :=
      State.afterBlocks_told.trans (by rw [hp]; rfl)
    have hcopy := hopens.canCopy (m := m) (fun h0 => hp.symm ▸ (hsofar h0).1) (fun h0 => (hsofar h0).2.1)
      (fun i hi _ => by
        have := Nat.mul_le_mul_right row.blk (Nat.le_of_lt hi)
        have : (z.frame f).curOffset + m * row.blk < row.frameSize := (hsofar (by omega)).2.2
        omega)
      (fun hlt => by
        rw [hp]
        exact apart_firstBlocks (Nat.le_of_lt hmB) (hapart hlt))
    have hgoes : m ≠ 0 → (z.frame f).curOffset + m * row.blk ≠ row.frameSize :=
      fun h0 => Nat.ne_of_lt (hsofar (Nat.pos_of_ne_zero h0)).2.2
    refine ⟨fun hout => ?_, fun hsource hout => ?_⟩
    · have hbad := hopens.exec_badSource hcopy hmB hgoes (hp.symm ▸ hout)
      rw [hstopped, hp] at hbad
      exact hbad
    · have hbad := hopens.exec_badTarget hcopy hmB hgoes (hp.symm ▸ hsource) hout
      rw [hstopped] at hbad
      exact hbad

end Sys2Proof.Machine
end

section
/-! PROOF. The moves of the environment (obligation O57). -/

namespace Sys2Proof.Machine

/-! ### Moves other than a segment step (20_memory.md R71, R74) -/

section

variable {s s' : State} {e : Nat}

theorem step_of_nextAction {a : Action} (h : s.nextAction = (a, s')) : step s = perform a s' := by
  rw [step, h]

/-- A segment step while the Port Engine runs (R72, R73). -/
theorem step_peSegment (h : s.nextAction = (.peSegment e, s')) (hrun : (s'.eng e).peRunning = true) :
    step s = .next (finalState (peSegment e s')) := by
  rw [step_of_nextAction h, perform, if_pos hrun]

end

/-! ### The ring of cycle buffers -/

theorem Eng.slotAddr_succ (g : Eng) (k : Nat) :
    g.slotAddr (k + 1) = g.slotAddr k + g.cycleBufSize.toNat := by
  rw [Eng.slotAddr, Eng.slotAddr, Nat.succ_mul, Nat.add_assoc]

theorem Eng.slotAddr_mono (g : Eng) {i j : Nat} (h : i ≤ j) : g.slotAddr i ≤ g.slotAddr j :=
  Nat.add_le_add_left (Nat.mul_le_mul_right _ h) _

theorem Eng.slotAddr_lt (g : Eng) {i j : Nat} (h : i < j) :
    g.slotAddr i + g.cycleBufSize.toNat ≤ g.slotAddr j :=
  g.slotAddr_succ i ▸ g.slotAddr_mono h

/-! ### Receiving (R72) -/

theorem drawPayload_length (d : Draw) (serial n : Nat) : (drawPayload d serial n).length = n := by
  simp [drawPayload]

/-- A byte that the draw lists. -/
theorem drawPayload_getD {d : Draw} {serial n b : Nat} (hn : b < n) (hb : b < d.bytes.length) :
    (drawPayload d serial n).getD b 0 = d.bytes.getD b 0 := by
  simp [drawPayload, hn, hb, List.getD_eq_getElem?_getD]

/-- Between `s` and `t` the draws `ps`, each with the number of its buffer, have come into the ring of engine
`e`: their headers and payload are there, and nothing else has changed in BUF or among the headers. -/
structure State.Received (s t : State) (e : Nat) (ps : List (Draw × Nat)) : Prop where
  slotAddr : ∀ k, (t.eng e).slotAddr k = (s.eng e).slotAddr k
  cycleBufSize : (t.eng e).cycleBufSize = (s.eng e).cycleBufSize
  headers : ∀ p ∈ ps, sparseGet (t.eng e).slotHdr p.2 = some p.1.word
  payload : ∀ p ∈ ps, ∀ b, b < (s.eng e).cycleBufSize.toNat → b < p.1.bytes.length →
    t.readByte ((s.eng e).slotAddr p.2 + b) = p.1.bytes.getD b 0
  otherHeaders : ∀ j, (∀ p ∈ ps, p.2 ≠ j) →
    sparseGet (t.eng e).slotHdr j = sparseGet (s.eng e).slotHdr j
  otherBytes : ∀ a, (∀ p ∈ ps, a < (s.eng e).slotAddr p.2 ∨
    (s.eng e).slotAddr p.2 + (s.eng e).cycleBufSize.toNat ≤ a) → t.readByte a = s.readByte a

/-- Apart from that, a cycle takes its draw from the tape. -/
structure State.OnlyReceives (s t : State) (e : Nat) (rest : List Draw) : Prop where
  par : t.par = s.par
  halted : t.halted = s.halted
  instances : t.inst.length = s.inst.length
  tape : t.tape = rest
  eng : t.eng e = { s.eng e with slotHdr := (t.eng e).slotHdr }

section

variable {s t u : State} {e : Nat} {ps qs : List (Draw × Nat)} {rest more : List Draw}

theorem State.Received.nil : s.Received s e [] :=
  ⟨fun _ => rfl, rfl, nofun, nofun, fun _ _ => rfl, fun _ _ => rfl⟩

theorem State.OnlyReceives.trans (h1 : s.OnlyReceives t e more) (h2 : t.OnlyReceives u e rest) :
    s.OnlyReceives u e rest :=
  ⟨h2.par.trans h1.par, h2.halted.trans h1.halted, h2.instances.trans h1.instances, h2.tape, by
    rw [h2.eng, h1.eng]⟩

/-- What comes into other buffers leaves what came before. -/
theorem State.Received.trans (h1 : s.Received t e ps) (h2 : t.Received u e qs)
    (hne : ∀ p ∈ ps, ∀ q ∈ qs, p.2 ≠ q.2) : s.Received u e (ps ++ qs) where
  slotAddr k := (h2.slotAddr k).trans (h1.slotAddr k)
  cycleBufSize := h2.cycleBufSize.trans h1.cycleBufSize
  headers p hp := by
    rcases List.mem_append.mp hp with hp | hp
    · rw [h2.otherHeaders p.2 fun q hq => (hne p hp q hq).symm, h1.headers p hp]
    · exact h2.headers p hp
  payload p hp b hb hlen := by
    rcases List.mem_append.mp hp with hp | hp
    · rw [h2.otherBytes, h1.payload p hp b hb hlen]
      intro q hq
      rw [h1.slotAddr, h1.cycleBufSize]
      rcases Nat.lt_or_gt_of_ne (hne p hp q hq) with hlt | hgt
      · have := (s.eng e).slotAddr_lt hlt
        omega
      · have := (s.eng e).slotAddr_lt hgt
        omega
    · rw [← h1.slotAddr]
      exact h2.payload p hp b (h1.cycleBufSize ▸ hb) hlen
  otherHeaders j hj := by
    rw [h2.otherHeaders j fun p hp => hj p (List.mem_append_right _ hp),
      h1.otherHeaders j fun p hp => hj p (List.mem_append_left _ hp)]
  otherBytes a ha := by
    rw [h2.otherBytes a fun p hp => by
        rw [h1.slotAddr, h1.cycleBufSize]
        exact ha p (List.mem_append_right _ hp),
      h1.otherBytes a fun p hp => ha p (List.mem_append_left _ hp)]

/-- What changes neither BUF nor the headers and the ring leaves what has come. -/
theorem State.Received.of_same (h : s.Received t e ps) (hbuf : u.buf = t.buf)
    (hhdr : (u.eng e).slotHdr = (t.eng e).slotHdr) (hbase : (u.eng e).bufBase = (t.eng e).bufBase)
    (hsize : (u.eng e).cycleBufSize = (t.eng e).cycleBufSize) : s.Received u e ps where
  slotAddr k := by
    rw [← h.slotAddr, Eng.slotAddr, Eng.slotAddr, hbase, hsize]
  cycleBufSize := hsize.trans h.cycleBufSize
  headers := hhdr ▸ h.headers
  payload := by
    unfold State.readByte
    rw [hbuf]
    exact h.payload
  otherHeaders := hhdr ▸ h.otherHeaders
  otherBytes := by
    have hread : ∀ a, u.readByte a = t.readByte a := fun a => by rw [State.readByte, hbuf]; rfl
    exact fun a ha => (hread a).trans (h.otherBytes a ha)

variable {d : Draw} {k : Nat}

/-- The draw `d` has come into buffer `k`, and `rest` is left of the tape. -/
def State.afterReceive (s : State) (e k : Nat) (d : Draw) (rest : List Draw) : State :=
  ((s.takeDraw rest).modEng e (·.setSlotHdr k d.word)).writeBytes ((s.eng e).slotAddr k)
    (drawPayload d s.drawn (s.eng e).cycleBufSize.toNat)

theorem State.afterReceive_eng (he : e < s.inst.length) :
    (s.afterReceive e k d rest).eng e = (s.eng e).setSlotHdr k d.word :=
  eng_modEng_same (s.takeDraw rest) (·.setSlotHdr k d.word) he

theorem State.afterReceive_readByte (a : Nat) :
    (s.afterReceive e k d rest).readByte a =
      if (s.eng e).slotAddr k ≤ a ∧ a < (s.eng e).slotAddr k + (s.eng e).cycleBufSize.toNat then
        (drawPayload d s.drawn (s.eng e).cycleBufSize.toNat).getD (a - (s.eng e).slotAddr k) 0
      else s.readByte a := by
  have hread := readByte_writeBytes ((s.takeDraw rest).modEng e (·.setSlotHdr k d.word))
    ((s.eng e).slotAddr k) (drawPayload d s.drawn (s.eng e).cycleBufSize.toNat) a
  rw [drawPayload_length] at hread
  exact hread

/-- One cycle (R72). -/
theorem run_peReceive (he : e < s.inst.length) (htape : s.tape = d :: rest)
    (hin : (s.eng e).slotAddr (k + 1) ≤ s.par.bufBytes) :
    peReceive e k s = .ok () (s.afterReceive e k d rest) := by
  have heng : ((s.takeDraw rest).modEng e (·.setSlotHdr k d.word)).eng e =
      (s.eng e).setSlotHdr k d.word := eng_modEng_same (s.takeDraw rest) _ he
  simp only [peReceive, run_bind, run_getState, run_draw_tape htape, run_modEng, run_getEng, heng]
  exact run_memWrite_ok (by rw [drawPayload_length]; exact (Eng.slotAddr_succ _ _).symm.trans_le hin)

theorem State.afterReceive_onlyReceives (he : e < s.inst.length) :
    s.OnlyReceives (s.afterReceive e k d rest) e rest where
  par := rfl
  halted := rfl
  instances := by simp [State.afterReceive]
  tape := rfl
  eng := by
    rw [State.afterReceive_eng he]
    rfl

theorem State.afterReceive_received (he : e < s.inst.length) :
    s.Received (s.afterReceive e k d rest) e [(d, k)] where
  slotAddr j := by
    rw [State.afterReceive_eng he]
    rfl
  cycleBufSize := by
    rw [State.afterReceive_eng he]
    rfl
  headers := by
    rw [List.forall_mem_singleton, State.afterReceive_eng he, Eng.setSlotHdr, sparseGet_set, if_pos rfl]
  payload := by
    rw [List.forall_mem_singleton]
    intro b hb hlen
    dsimp only at hlen ⊢
    rw [State.afterReceive_readByte, if_pos (by omega), Nat.add_sub_cancel_left, drawPayload_getD hb hlen]
  otherHeaders j hj := by
    have hne : ¬ j = k := fun h => hj (d, k) List.mem_cons_self h.symm
    rw [State.afterReceive_eng he, Eng.setSlotHdr, sparseGet_set, if_neg hne]
  otherBytes a ha := by
    have hout := ha (d, k) List.mem_cons_self
    dsimp only at hout
    rw [State.afterReceive_readByte, if_neg (by omega)]

theorem run_peCycle_receive (hkind : (s.eng e).kind.isReceive = true) :
    peCycle e k s = peReceive e k s := by
  rw [peCycle, run_bind, run_getEng]
  dsimp only
  rw [if_pos hkind]

/-- The cycles of a receive segment, one draw each (R72). -/
theorem run_peCycles_receive {ds : List Draw} (he : e < s.inst.length)
    (hkind : (s.eng e).kind.isReceive = true) (htape : s.tape = ds ++ rest)
    (hin : (s.eng e).slotAddr (k + ds.length) ≤ s.par.bufBytes) :
    ∃ t, peCycles e ds.length k s = .ok () t ∧ s.OnlyReceives t e rest ∧ s.Received t e (ds.zipIdx k) := by
  induction ds generalizing s k with
  | nil => exact ⟨s, rfl, ⟨rfl, rfl, rfl, htape, rfl⟩, State.Received.nil⟩
  | cons d ds ih =>
    have honly := State.afterReceive_onlyReceives (k := k) (d := d) (rest := ds ++ rest) he
    have hcome := State.afterReceive_received (k := k) (d := d) (rest := ds ++ rest) he
    rw [List.length_cons, ← Nat.add_assoc, Nat.add_right_comm] at hin
    have hfirst := run_peReceive (k := k) he htape
      (le_trans ((s.eng e).slotAddr_mono (Nat.le_add_right _ _)) hin)
    obtain ⟨t, hrun, honly2, hcome2⟩ := ih (s := s.afterReceive e k d (ds ++ rest)) (k := k + 1)
      (honly.instances.symm ▸ he) (by rw [honly.eng]; exact hkind) honly.tape
      (by rw [hcome.slotAddr]; exact hin)
    refine ⟨t, ?_, honly.trans honly2, hcome.trans hcome2 fun p hp q hq => ?_⟩
    · rw [List.length_cons, peCycles, run_bind, run_peCycle_receive hkind, hfirst]
      exact hrun
    · have := List.le_snd_of_mem_zipIdx hq
      rw [List.mem_singleton.mp hp]
      omega

end

/-! ### Sending (R73) -/

/-- The packets `ps` have gone out on the wire. -/
def State.wired (s : State) (ps : List WirePacket) : State := { s with wire := s.wire ++ ps }

/-- The packet of buffer `k` whose header is `h`. -/
def State.packetIn (s : State) (e k : Nat) (h : Word) : WirePacket :=
  ⟨e, h, s.readBytes ((s.eng e).slotAddr k) (dataLength h)⟩

/-- Buffer `k` has the header `h`, and its packet lies in BUF. -/
structure State.HasPacket (s : State) (e k : Nat) (h : Word) : Prop where
  header : sparseGet (s.eng e).slotHdr k = some h
  inside : (s.eng e).slotAddr k + dataLength h ≤ s.par.bufBytes

section

variable {s : State} {e k : Nat}

@[simp] theorem State.wired_eng (ps : List WirePacket) (j : Nat) : (s.wired ps).eng j = s.eng j := rfl

theorem State.wired_nil : s.wired [] = s := by rw [State.wired, List.append_nil]

theorem State.wired_wired (ps qs : List WirePacket) : (s.wired ps).wired qs = s.wired (ps ++ qs) := by
  rw [State.wired, State.wired, State.wired, List.append_assoc]

theorem modEng_wired (ps : List WirePacket) (f : Eng → Eng) :
    (s.modEng e f).wired ps = (s.wired ps).modEng e f := rfl

theorem State.takeDraw_wired (ps : List WirePacket) (rest : List Draw) :
    (s.takeDraw rest).wired ps = (s.wired ps).takeDraw rest := rfl

/-- One cycle (R73). -/
theorem run_peCycle_send {h : Word} (hkind : (s.eng e).kind.isReceive = false) (hp : s.HasPacket e k h) :
    peCycle e k s = .ok () (s.wired [s.packetIn e k h]) := by
  rw [peCycle, run_bind, run_getEng]
  dsimp only
  rw [hkind, if_neg Bool.false_ne_true, peSend, run_bind, run_getEng]
  simp only [hp.header, run_bind, run_memRead_ok hp.inside]
  rfl

/-- The cycles of a transmit segment, in order (R73). -/
theorem run_peCycles_send {hdr : Nat → Word} (n : Nat) (hkind : (s.eng e).kind.isReceive = false)
    (hp : ∀ i, i < n → s.HasPacket e (k + i) (hdr (k + i))) :
    peCycles e n k s =
      .ok () (s.wired ((List.range n).map fun i => s.packetIn e (k + i) (hdr (k + i)))) := by
  induction n generalizing s k with
  | zero => rw [List.range_zero, List.map_nil, State.wired_nil, peCycles, run_pure]
  | succ n ih =>
    have hrest := ih (s := s.wired [s.packetIn e k (hdr k)]) (k := k + 1) hkind fun i hi => by
      have := hp (i + 1) (Nat.succ_lt_succ hi)
      rw [← Nat.add_assoc, Nat.add_right_comm] at this
      exact ⟨this.header, this.inside⟩
    have hfirst : peCycle e k s = .ok () (s.wired [s.packetIn e k (hdr k)]) :=
      run_peCycle_send hkind (hp 0 n.succ_pos)
    rw [peCycles, run_bind, hfirst]
    refine hrest.trans ?_
    rw [State.wired_wired, List.range_succ_eq_map, List.map_cons, List.map_map]
    simp only [Nat.add_right_comm k 1, Nat.add_assoc k]
    rfl

end

/-! ### The segment step (R72, R73) -/

/-- The time stamp of segment `c` is stored and its event enqueued. -/
def Eng.endSegment (g : Eng) (c : Nat) (w : Word) : Eng := (g.setTsSlot c w).pushEvent (.segment c)

/-- The Port Engine goes to segment `j`. -/
def Eng.goTo (g : Eng) (j : Nat) : Eng := { g with peSeg := j }

/-- The overrun is reported, and the Port Engine stops. -/
def Eng.overrun (g : Eng) : Eng := { g.pushEvent .overrun with peRunning := false }

theorem Eng.goTo_endSegment (g : Eng) (c : Nat) (w : Word) (j : Nat) :
    (g.endSegment c w).goTo j =
      { g with tsSlot := sparseSet g.tsSlot c w, events := g.events ++ [.segment c], peSeg := j } := rfl

theorem Eng.overrun_endSegment (g : Eng) (c : Nat) (w : Word) :
    (g.endSegment c w).overrun =
      { g with
        tsSlot := sparseSet g.tsSlot c w, events := g.events ++ [.segment c, .overrun]
        peRunning := false } := by
  simp [Eng.overrun, Eng.endSegment, Eng.pushEvent, Eng.setTsSlot]

/-- The end of segment `c`: its time stamp `d` is taken from the tape and stored, and its event is enqueued. -/
def State.segmentEnds (s : State) (e c : Nat) (d : Draw) (rest : List Draw) : State :=
  (s.takeDraw rest).modEng e (·.endSegment c d.word)

section

variable {s t u : State} {e c : Nat} {d : Draw} {rest : List Draw}

theorem State.segmentEnds_eng (he : e < s.inst.length) :
    (s.segmentEnds e c d rest).eng e = (s.eng e).endSegment c d.word :=
  eng_modEng_same (s.takeDraw rest) (·.endSegment c d.word) he

@[simp] theorem State.segmentEnds_inst_length :
    (s.segmentEnds e c d rest).inst.length = s.inst.length := by simp [State.segmentEnds]

theorem run_peSegment (he : e < t.inst.length) (hseg : (t.eng e).peSeg = c)
    (hcycles : peCycles e (s.eng e).cyclesPerSeg.toNat ((s.eng e).peSeg * (s.eng e).cyclesPerSeg.toNat) s =
      .ok () t) (htape : t.tape = d :: rest) :
    peSegment e s = (match (t.eng e).jump[c]? with
      | some (.start j) => modEng e (·.goTo j)
      | some .overrun => do
        peCycle e (t.eng e).slots
        modEng e Eng.overrun
      | none => pure ()) (t.segmentEnds e c d rest) := by
  have hends : (t.takeDraw rest).modEng e (fun g =>
      (g.setTsSlot g.peSeg d.word).pushEvent (.segment g.peSeg)) = t.segmentEnds e c d rest := by
    refine modEng_congr ?_
    rw [eng_takeDraw, hseg]
    rfl
  have heng := State.segmentEnds_eng (c := c) (d := d) (rest := rest) he
  rw [peSegment, run_bind, run_getEng]
  dsimp only
  rw [run_bind, hcycles]
  dsimp only
  rw [run_bind, run_draw_tape htape]
  dsimp only
  rw [run_bind, run_modEng, hends]
  dsimp only
  rw [run_bind, run_getEng, heng]
  simp only [Eng.endSegment, Eng.pushEvent, Eng.setTsSlot, hseg]
  rfl

/-- At a jump the Port Engine goes to that segment. -/
theorem run_peSegment_start {j : Nat} (he : e < t.inst.length) (hseg : (t.eng e).peSeg = c)
    (hcycles : peCycles e (s.eng e).cyclesPerSeg.toNat ((s.eng e).peSeg * (s.eng e).cyclesPerSeg.toNat) s =
      .ok () t) (htape : t.tape = d :: rest) (hjump : (t.eng e).jump[c]? = some (.start j)) :
    peSegment e s = .ok () ((t.segmentEnds e c d rest).modEng e (·.goTo j)) := by
  rw [run_peSegment he hseg hcycles htape, hjump]
  rfl

/-- At the overrun descriptor it runs one cycle more, on buffer `S*N`, and stops. -/
theorem run_peSegment_overrun (he : e < t.inst.length) (hseg : (t.eng e).peSeg = c)
    (hcycles : peCycles e (s.eng e).cyclesPerSeg.toNat ((s.eng e).peSeg * (s.eng e).cyclesPerSeg.toNat) s =
      .ok () t) (htape : t.tape = d :: rest) (hjump : (t.eng e).jump[c]? = some .overrun)
    (hcycle : peCycle e (t.eng e).slots (t.segmentEnds e c d rest) = .ok () u) :
    peSegment e s = .ok () (u.modEng e Eng.overrun) := by
  rw [run_peSegment he hseg hcycles htape, hjump]
  dsimp only
  rw [run_bind, hcycle]
  rfl

end

/-! ### A receive segment (R72) -/

theorem mem_zipIdx_getD {ds : List Draw} {i : Nat} (k : Nat) (hi : i < ds.length) :
    (ds.getD i default, k + i) ∈ ds.zipIdx k :=
  List.mk_add_mem_zipIdx_iff_getElem?.mpr (by simp [List.getD_eq_getElem?_getD, hi])

/-- A byte outside a segment is outside each of its buffers. -/
theorem Eng.outside_zipIdx (g : Eng) {ds : List Draw} {k a : Nat}
    (ha : ¬ (g.slotAddr k ≤ a ∧ a < g.slotAddr (k + ds.length))) (p : Draw × Nat) (hp : p ∈ ds.zipIdx k) :
    a < g.slotAddr p.2 ∨ g.slotAddr p.2 + g.cycleBufSize.toNat ≤ a := by
  have hfirst := g.slotAddr_mono (List.le_snd_of_mem_zipIdx hp)
  have hlast := g.slotAddr_lt (List.snd_lt_add_of_mem_zipIdx hp)
  omega

section

variable {s t : State} {e c : Nat} {ps : List (Draw × Nat)} {ds rest : List Draw} {d o : Draw}

/-- A change of the engine that keeps the ring and the headers leaves what has come. -/
theorem State.Received.modEng {f : Eng → Eng} (he : e < t.inst.length) (h : s.Received t e ps)
    (hhdr : ∀ g, (f g).slotHdr = g.slotHdr) (hbase : ∀ g, (f g).bufBase = g.bufBase)
    (hsize : ∀ g, (f g).cycleBufSize = g.cycleBufSize) : s.Received (t.modEng e f) e ps := by
  have heng := eng_modEng_same t f he
  exact h.of_same rfl (heng ▸ hhdr _) (heng ▸ hbase _) (heng ▸ hsize _)

/-- So does the end of the segment. -/
theorem State.Received.segmentEnds (he : e < t.inst.length) (h : s.Received t e ps) :
    s.Received (t.segmentEnds e c d rest) e ps :=
  State.Received.modEng (t := t.takeDraw rest) he (h.of_same rfl rfl rfl rfl) (fun _ => rfl) (fun _ => rfl)
    (fun _ => rfl)

/-- A receive segment that ends in a jump. -/
theorem receiveSegment_start {j : Nat} (he : e < s.inst.length) (hkind : (s.eng e).kind.isReceive = true)
    (hjump : (s.eng e).jump[(s.eng e).peSeg]? = some (.start j)) (htape : s.tape = ds ++ d :: rest)
    (hlen : ds.length = (s.eng e).cyclesPerSeg.toNat)
    (hin : (s.eng e).slotAddr ((s.eng e).peSeg * ds.length + ds.length) ≤ s.par.bufBytes) :
    ∃ t, peSegment e s = .ok () t ∧ t.halted = s.halted ∧ t.tape = rest ∧
      t.eng e = { ((s.eng e).endSegment (s.eng e).peSeg d.word).goTo j with
        slotHdr := (t.eng e).slotHdr } ∧
      s.Received t e (ds.zipIdx ((s.eng e).peSeg * ds.length)) := by
  obtain ⟨t, hcycles, honly, hcome⟩ := run_peCycles_receive he hkind htape hin
  have het : e < t.inst.length := honly.instances.symm ▸ he
  rw [hlen] at hcycles
  have hends := State.segmentEnds_eng (c := (s.eng e).peSeg) (d := d) (rest := rest) het
  have het' : e < (t.segmentEnds e (s.eng e).peSeg d rest).inst.length :=
    State.segmentEnds_inst_length.symm ▸ het
  have hfinal := eng_modEng_same _ (·.goTo j) het'
  refine ⟨_, run_peSegment_start het (congrArg Eng.peSeg honly.eng) hcycles honly.tape
    ((congrArg (fun g => g.jump[(s.eng e).peSeg]?) honly.eng).trans hjump), honly.halted, rfl, ?_,
    (hcome.segmentEnds het).modEng het' (fun _ => rfl) (fun _ => rfl) (fun _ => rfl)⟩
  rw [hfinal, hends, honly.eng]
  rfl

/-- One that ends in the overrun descriptor: the draw `o` comes into buffer `S*N`. -/
theorem receiveSegment_overrun (he : e < s.inst.length) (hkind : (s.eng e).kind.isReceive = true)
    (hjump : (s.eng e).jump[(s.eng e).peSeg]? = some .overrun)
    (hseg : (s.eng e).peSeg < (s.eng e).segments.toNat) (htape : s.tape = ds ++ d :: o :: rest)
    (hlen : ds.length = (s.eng e).cyclesPerSeg.toNat)
    (hin : (s.eng e).slotAddr ((s.eng e).slots + 1) ≤ s.par.bufBytes) :
    ∃ t, peSegment e s = .ok () t ∧ t.halted = s.halted ∧ t.tape = rest ∧
      t.eng e = { ((s.eng e).endSegment (s.eng e).peSeg d.word).overrun with
        slotHdr := (t.eng e).slotHdr } ∧
      s.Received t e (ds.zipIdx ((s.eng e).peSeg * ds.length) ++ [(o, (s.eng e).slots)]) := by
  have hring : (s.eng e).peSeg * ds.length + ds.length ≤ (s.eng e).slots := by
    rw [← Nat.succ_mul, hlen]
    exact Nat.mul_le_mul_right _ hseg
  obtain ⟨t, hcycles, honly, hcome⟩ := run_peCycles_receive he hkind htape
    (le_trans ((s.eng e).slotAddr_mono (Nat.le_succ_of_le hring)) hin)
  have het : e < t.inst.length := honly.instances.symm ▸ he
  rw [hlen] at hcycles
  have hends := State.segmentEnds_eng (c := (s.eng e).peSeg) (d := d) (rest := o :: rest) het
  have het' : e < (t.segmentEnds e (s.eng e).peSeg d (o :: rest)).inst.length :=
    State.segmentEnds_inst_length.symm ▸ het
  have hcome' := hcome.segmentEnds (c := (s.eng e).peSeg) (d := d) (rest := o :: rest) het
  have hslots : (t.eng e).slots = (s.eng e).slots := by
    rw [honly.eng]
    rfl
  have hcycle : peCycle e (t.eng e).slots (t.segmentEnds e (s.eng e).peSeg d (o :: rest)) =
      .ok () ((t.segmentEnds e (s.eng e).peSeg d (o :: rest)).afterReceive e (s.eng e).slots o rest) := by
    rw [run_peCycle_receive (by rw [hends, honly.eng]; exact hkind), hslots]
    exact run_peReceive het' rfl (by rw [hcome'.slotAddr]; exact honly.par ▸ hin)
  have honly2 := State.afterReceive_onlyReceives (k := (s.eng e).slots) (d := o) (rest := rest) het'
  have hcome2 := State.afterReceive_received (k := (s.eng e).slots) (d := o) (rest := rest) het'
  have heu := honly2.instances.symm ▸ het'
  have hfinal := eng_modEng_same _ Eng.overrun heu
  have hall := hcome'.trans hcome2 fun p hp q hq => by
    have := List.snd_lt_add_of_mem_zipIdx hp
    rw [List.mem_singleton.mp hq]
    dsimp only
    omega
  refine ⟨_, run_peSegment_overrun het (congrArg Eng.peSeg honly.eng) hcycles honly.tape
    ((congrArg (fun g => g.jump[(s.eng e).peSeg]?) honly.eng).trans hjump) hcycle,
    honly2.halted.trans honly.halted, rfl, ?_,
    hall.modEng heu (fun _ => rfl) (fun _ => rfl) (fun _ => rfl)⟩
  rw [hfinal, honly2.eng, hends, honly.eng]
  rfl

end

/-! ### A transmit segment (R73) -/

section

variable {s : State} {e : Nat} {hdr : Nat → Word} {d : Draw} {rest : List Draw}

/-- The state when a transmit segment's packets `ps` are out and its time stamp is taken, field by field. -/
theorem State.modEng_sent (f : Eng → Eng) (ps : List WirePacket) :
    ((s.wired ps).takeDraw rest).modEng e f =
      { s.modEng e f with wire := s.wire ++ ps, tape := rest, drawn := s.drawn + 1 } := rfl

/-- The packets of the segment the Port Engine is at. -/
def State.segmentPackets (s : State) (e : Nat) (hdr : Nat → Word) : List WirePacket :=
  (List.range (s.eng e).cyclesPerSeg.toNat).map fun i =>
    s.packetIn e ((s.eng e).peSeg * (s.eng e).cyclesPerSeg.toNat + i)
      (hdr ((s.eng e).peSeg * (s.eng e).cyclesPerSeg.toNat + i))

/-- A transmit segment that ends in a jump. -/
theorem sendSegment_start {j : Nat} (he : e < s.inst.length) (hkind : (s.eng e).kind.isReceive = false)
    (hjump : (s.eng e).jump[(s.eng e).peSeg]? = some (.start j)) (htape : s.tape = d :: rest)
    (hready : ∀ i, i < (s.eng e).cyclesPerSeg.toNat →
      s.HasPacket e ((s.eng e).peSeg * (s.eng e).cyclesPerSeg.toNat + i)
        (hdr ((s.eng e).peSeg * (s.eng e).cyclesPerSeg.toNat + i))) :
    peSegment e s = .ok () (((s.wired (s.segmentPackets e hdr)).takeDraw rest).modEng e (fun g =>
      (g.endSegment (s.eng e).peSeg d.word).goTo j)) := by
  rw [run_peSegment_start (c := (s.eng e).peSeg) (t := s.wired (s.segmentPackets e hdr)) he rfl
    (run_peCycles_send _ hkind hready) htape hjump, State.segmentEnds, modEng_modEng]

/-- One that ends in the overrun descriptor: the packet of buffer `S*N` goes out too. -/
theorem sendSegment_overrun (he : e < s.inst.length) (hkind : (s.eng e).kind.isReceive = false)
    (hjump : (s.eng e).jump[(s.eng e).peSeg]? = some .overrun) (htape : s.tape = d :: rest)
    (hready : ∀ i, i < (s.eng e).cyclesPerSeg.toNat →
      s.HasPacket e ((s.eng e).peSeg * (s.eng e).cyclesPerSeg.toNat + i)
        (hdr ((s.eng e).peSeg * (s.eng e).cyclesPerSeg.toNat + i)))
    (hlast : s.HasPacket e (s.eng e).slots (hdr (s.eng e).slots)) :
    peSegment e s = .ok ()
      (((s.wired (s.segmentPackets e hdr ++ [s.packetIn e (s.eng e).slots (hdr (s.eng e).slots)])).takeDraw
        rest).modEng e (fun g => (g.endSegment (s.eng e).peSeg d.word).overrun)) := by
  have hends := State.segmentEnds_eng (s := s.wired (s.segmentPackets e hdr)) (c := (s.eng e).peSeg)
    (d := d) (rest := rest) he
  rw [State.wired_eng] at hends
  have hcycle := run_peCycle_send (s := (s.wired (s.segmentPackets e hdr)).segmentEnds e (s.eng e).peSeg d rest)
    (e := e) (k := (s.eng e).slots) (h := hdr (s.eng e).slots) (by rw [hends]; exact hkind)
    ⟨by rw [hends]; exact hlast.header, by rw [hends]; exact hlast.inside⟩
  have hpacket : ((s.wired (s.segmentPackets e hdr)).segmentEnds e (s.eng e).peSeg d rest).packetIn e
      (s.eng e).slots (hdr (s.eng e).slots) = s.packetIn e (s.eng e).slots (hdr (s.eng e).slots) := by
    rw [State.packetIn, hends]
    rfl
  rw [hpacket] at hcycle
  rw [run_peSegment_overrun (t := s.wired (s.segmentPackets e hdr)) he rfl
    (run_peCycles_send _ hkind hready) htape hjump hcycle, State.segmentEnds, modEng_wired, modEng_modEng,
    State.takeDraw_wired, State.wired_wired]

end

/-- Settles O57: each move's effect, and the segment step from its cycles. -/
theorem portEngineSegment : Obligations.PortEngineSegment := by
  refine ⟨fun s s' e => ⟨?finalize, ?forceStop, ?watchdog, ?pollTimeout, ?stopped⟩, ?segment⟩
  case finalize => exact fun h => step_of_nextAction h
  case forceStop => exact fun h => step_of_nextAction h
  case watchdog => exact fun h => step_of_nextAction h
  case pollTimeout => exact fun h => step_of_nextAction h
  case stopped =>
    intro h hstopped
    rw [step_of_nextAction h, perform, hstopped, if_neg Bool.false_ne_true]
  case segment =>
    intro s s' e haction he g c N K cbs slot received inSegment sent ready hrun
    have hstep : ∀ {t}, peSegment e s' = .ok () t → step s = .next t :=
      fun h => (step_peSegment haction hrun).trans (by rw [h]; rfl)
    have hcycle : ∀ {t ps k d}, s'.Received t e ps → (d, k) ∈ ps → received t k d :=
      fun h hp => ⟨h.headers _ hp, h.payload _ hp⟩
    refine ⟨fun j hjump => ⟨?_, ?_⟩, fun hjump hc => ⟨?_, ?_⟩⟩
    · intro ds rest d hkind htape hlen hin
      obtain ⟨t, ht, hhalted, hrest, heng, hcome⟩ :=
        receiveSegment_start he hkind hjump htape hlen (hlen.symm ▸ hin)
      rw [hlen] at hcome
      rw [Eng.goTo_endSegment] at heng
      refine ⟨t, hstep ht, hhalted, hrest, congrArg Eng.events heng, congrArg Eng.peSeg heng,
        (congrArg Eng.peRunning heng).trans hrun, ?_, fun i hi => ?_, fun a ha => ?_⟩
      · rw [heng]
        exact (sparseGet_set _ _ _ _).trans (if_pos rfl)
      · exact hcycle hcome (mem_zipIdx_getD _ (hlen.symm ▸ hi))
      · exact hcome.otherBytes a (g.outside_zipIdx (hlen.symm ▸ ha))
    · intro hdr rest d hkind htape hready
      rw [hstep (sendSegment_start he hkind hjump htape fun i hi => ⟨(hready i hi).1, (hready i hi).2⟩),
        State.modEng_sent]
      rfl
    · intro ds rest d o hkind htape hlen hin
      obtain ⟨t, ht, hhalted, hrest, heng, hcome⟩ :=
        receiveSegment_overrun he hkind hjump hc htape hlen hin
      rw [hlen] at hcome
      rw [Eng.overrun_endSegment] at heng
      refine ⟨t, hstep ht, hhalted, hrest, congrArg Eng.events heng, (congrArg Eng.peSeg heng :),
        congrArg Eng.peRunning heng, ?_, fun i hi => ?_, ?_, fun a ha hlast => ?_⟩
      · rw [heng]
        exact (sparseGet_set _ _ _ _).trans (if_pos rfl)
      · exact hcycle hcome (List.mem_append_left _ (mem_zipIdx_getD _ (hlen.symm ▸ hi)))
      · exact hcycle hcome (List.mem_append_right _ List.mem_cons_self)
      · refine hcome.otherBytes a (List.forall_mem_append.mpr ⟨g.outside_zipIdx (hlen.symm ▸ ha), ?_⟩)
        rw [List.forall_mem_singleton]
        have hnext : slot (K + 1) = slot K + cbs := g.slotAddr_succ K
        show a < slot K ∨ slot K + cbs ≤ a
        omega
    · intro hdr rest d hkind htape hready hlast
      rw [hstep (sendSegment_overrun he hkind hjump htape (fun i hi => ⟨(hready i hi).1, (hready i hi).2⟩)
        ⟨hlast.1, hlast.2⟩), State.modEng_sent, ← List.append_assoc]
      simp only [Eng.overrun_endSegment]
      rfl

end Sys2Proof.Machine
end

section
/-! PROOF. The encoding (obligations O1 to O4). The decoder reads every well-formed instruction back from the
word that encodes it, one equation for each format of `imm`; that a word has one meaning and which words CMD
refuses follow. -/

namespace Sys2Proof

/-! ### Decoding the word of a well-formed instruction -/

theorem decodeInstance_ofNat {e : Nat} (he : instanceFits e) (f : Nat → Instr) :
    decodeInstance (BitVec.ofNat 16 e) f = .ok (f e) := by
  obtain ⟨hhigh, hlow⟩ := instance_imm he
  rw [decodeInstance, if_pos hhigh, hlow]

theorem decodeCtl_append {u j x : Nat} (h : ctlFits u j x) (f : Nat → Nat → Nat → Instr) :
    decodeCtl (BitVec.ofNat 4 u ++ BitVec.ofNat 4 j ++ BitVec.ofNat 8 x) f = .ok (f u j x) := by
  obtain ⟨hu, hj, hx⟩ := h
  obtain ⟨hunit, hinst, hidx⟩ := ctl_imm hu hj hx
  rw [decodeCtl, hunit, hinst, hidx]

/-- The opcode map undoes each row: its `imm` by the row's format, and the carried argument beside it
(30_encoding.md R87, R88). -/
theorem decodeFields_of_wellFormed {i : Instr} (h : i.wellFormed = true) :
    decodeFields i.opcode.1 i.opcode.2 i.imm i.carried = .ok i := by
  cases i with
  | isCip | parseCip | buildCip | ctAdd | ctDelta | ctIndex => rfl
  | csrRead | csrWrite => exact decodeCtl_append (of_decide_eq_true h) _
  | evSegment e seg =>
    obtain ⟨he, hseg⟩ : instanceFits e ∧ segmentFits seg := of_decide_eq_true h
    have hcarried : (BitVec.ofNat 16 seg).toNat = seg :=
      (BitVec.toNat_ofNat seg 16).trans (Nat.mod_eq_of_lt hseg)
    have hdecode := decodeInstance_ofNat he (.evSegment · (BitVec.ofNat 16 seg).toNat)
    exact hdecode.trans (by rw [hcarried])
  | _ => exact decodeInstance_ofNat (of_decide_eq_true h) _

/-- A word that encodes a well-formed instruction decodes to it, given the argument it carries (R86). -/
theorem decode_of_encodeWord {i : Instr} {w : Word} {a : Half} (hwf : i.wellFormed = true)
    (hw : encodeWord i = w) (ha : i.carried = a) : decode w a = .ok i := by
  subst hw ha
  obtain ⟨hunit, hop, himm⟩ := fields_of_encode i
  rw [decode, hunit, hop, himm]
  exact decodeFields_of_wellFormed hwf

/-- The word and the carried argument tell well-formed instructions apart (R86 to R88). -/
theorem eq_of_encodeWord_eq {i j : Instr} (hi : i.wellFormed = true) (hj : j.wellFormed = true)
    (hword : encodeWord j = encodeWord i) (hcarried : j.carried = i.carried) : j = i :=
  Except.ok.inj ((decode_of_encodeWord hj hword hcarried).symm.trans (decode_of_encodeWord hi rfl rfl))

/-- The stored words are the instruction's word and, for EV_SEGMENT, its carried index (log 18). -/
theorem decodeWords_encode (i : Instr) : decodeWords (encode i) = decode (encodeWord i) i.carried := by
  cases i with
  | evSegment e seg =>
    have hlow : ((BitVec.ofNat 16 seg).setWidth 32).extractLsb' 0 16 = BitVec.ofNat 16 seg := by
      apply BitVec.eq_of_toNat_eq
      simp only [BitVec.extractLsb'_toNat, BitVec.toNat_setWidth, BitVec.toNat_ofNat, Nat.shiftRight_zero]
      omega
    exact congrArg (decode (encodeWord (.evSegment e seg))) hlow
  | _ => rfl

/-- Settles O2: the words of `encode` are decoded as the word it encodes, which decodes to the instruction. -/
theorem decodeOfEncode : Obligations.DecodeOfEncode := fun i hwf =>
  (decodeWords_encode i).trans (decode_of_encodeWord hwf rfl rfl)

/-- Settles O3: two instructions of one word and argument are both what the decoder reads there. -/
theorem wordHasOneMeaning : Obligations.WordHasOneMeaning := by
  intro w a i h
  obtain ⟨-, -, hwf, -⟩ := decode_cases h
  have hw : encodeWord i = w := encodeWord_of_decode h
  exact ⟨hwf, hw, fun j hj hjw hcarried => eq_of_encodeWord_eq hwf hj (hjw.trans hw.symm) hcarried⟩

/-- Settles O1: each word is the encoding of its well-formed instruction. -/
theorem writtenWordsDecode : Obligations.WrittenWordsDecode := by
  refine ⟨?_, ?_, ?_, ?_, ?_, ?_, ?_, ?_, ?_, ?_, ?_, ?_⟩ <;>
    exact decode_of_encodeWord rfl (by decide) rfl

/-! ### The words that CMD refuses -/

/-- A word that no well-formed command encodes is no command's word (30_encoding.md R90). -/
theorem decodeCommand_error {w : Word}
    (hw : ∀ i : Instr, i.wellFormed = true → i.isEvent = false → encodeWord i ≠ w) :
    ∃ r, decodeCommand w = .error r := by
  cases hdec : decodeCommand w with
  | error r => exact ⟨r, rfl⟩
  | ok i =>
    obtain ⟨hdecode, hevent⟩ := decodeCommand_ok hdec
    obtain ⟨-, -, hwf, -⟩ := decode_cases hdecode
    exact absurd (encodeWord_of_decode hdecode) (hw i hwf hevent)

/-- The units that hold an instruction (R87). -/
theorem Instr.opcode_unit_mem (i : Instr) :
    i.opcode.1 ∈ [0x01#8, 0x02, 0x03, 0x04, 0x05, 0x06, 0x07, 0x0F] := by
  cases i <;> simp [Instr.opcode]

end Sys2Proof

namespace Sys2Proof.Machine

section

variable {s : State}

/-- An illegal word written to CMD is kept there and answers IllegalCommand (30_encoding.md R90; log 21). -/
theorem step_host_illegal {s' : State} {w : Word} {r : DecodeError}
    (h : s.nextAction = (.host (.write .cmd w), s')) (hhalt : s'.halted = false)
    (hhold : s'.holding = false) (hr : decodeCommand w = .error r) :
    step s = .next ((s'.setCmd w).setStatus .illegalCommand) := by
  rw [step_host h]
  simp [hostStep, issue, hhalt, hhold, hr]

theorem hasInstance_eq_false {i : Instr} {e : Nat} (hname : namedInstance i = some e)
    (he : s.inst.length ≤ e) : s.hasInstance i = false := by
  rw [State.hasInstance, hname]
  exact decide_eq_false (Nat.not_lt.mpr he)

/-- A command whose named index is beyond E_INST answers BadArgument (R90). -/
theorem exec_missingInstance {i : Instr} {e : Nat} (hname : namedInstance i = some e)
    (hi : i.isEvent = false) (he : s.inst.length ≤ e) (hhalt : s.halted = false) :
    exec i s = .next (s.setStatus .badArgument) := by
  obtain ⟨body, hexec⟩ := exec_command hi
  rw [hexec s]
  exact asCommand_noInstance hhalt (hasInstance_eq_false hname he)

end

/-- Settles O4: the decoder answers no command, check 3 fails, and the opcode map has no reserved unit. -/
theorem illegalCommandWords : Obligations.IllegalCommandWords := by
  refine ⟨?illegal, ?missing, ?reserved⟩
  case illegal =>
    intro s s' w h hhalt hhold hw
    obtain ⟨r, hr⟩ := decodeCommand_error hw
    exact step_host_illegal h hhalt hhold hr
  case missing => exact fun i e s => exec_missingInstance
  case reserved =>
    intro i
    obtain ⟨hunit, -⟩ := fields_of_encode i
    have hassigned : ∀ u ∈ [0x01#8, 0x02, 0x03, 0x04, 0x05, 0x06, 0x07, 0x0F],
        u ∉ [0x00#8, 0x08, 0x09, 0x0A, 0x0B, 0x0C, 0x0D, 0x0E] ∧ u < 0x10 := by decide
    rw [hunit]
    exact hassigned _ i.opcode_unit_mem

end Sys2Proof.Machine
end

section
/-! PROOF. The CIP codec (obligations O11 to O14). The three commands name no index and may run inside a
callback (60_exceptions.md R319), so only a halted block keeps their pseudocode from running; each exit of the
pseudocode is one equation. The round trip needs beside these the fields of a header that two quadlets make. -/

namespace Sys2Proof.Machine

/-! ### The fields of a CIP header (R123) -/

/-- A field of a field. -/
theorem extract_extract {w n b m : Nat} (x : BitVec w) (a : Nat) (h : b + m ≤ n) :
    (x.extractLsb' a n).extractLsb' b m = x.extractLsb' (a + b) m := by
  apply BitVec.eq_of_getLsbD_eq
  intro i hi
  simp [hi, show b + i < n by omega, Nat.add_assoc]

section

variable (q : Word)

/-- The last two bytes of a quadlet, put together again. -/
theorem append_low16 : (q.extractLsb' 8 8 ++ q.extractLsb' 0 8 : Half) = q.extractLsb' 0 16 :=
  BitVec.extractLsb'_append_extractLsb'_eq_extractLsb' rfl

/-- The last three bytes of a quadlet, put together again. -/
theorem append_low24 :
    (q.extractLsb' 16 8 ++ q.extractLsb' 8 8 ++ q.extractLsb' 0 8 : BitVec 24) = q.extractLsb' 0 24 :=
  calc q.extractLsb' 16 8 ++ q.extractLsb' 8 8 ++ q.extractLsb' 0 8
      = q.extractLsb' 8 16 ++ q.extractLsb' 0 8 :=
        congrArg (· ++ q.extractLsb' 0 8) (BitVec.extractLsb'_append_extractLsb'_eq_extractLsb' rfl)
    _ = q.extractLsb' 0 24 := BitVec.extractLsb'_append_extractLsb'_eq_extractLsb' rfl

/-- A quadlet whose bits [23:8] are 0 holds its last byte, zero-extended, in its low 24 bits. -/
theorem low24_of_low8 (h : q.extractLsb' 8 16 = 0) :
    (q.extractLsb' 0 8).setWidth 24 = q.extractLsb' 0 24 := by
  have hsplit : q.extractLsb' 8 16 ++ q.extractLsb' 0 8 = q.extractLsb' 0 24 :=
    BitVec.extractLsb'_append_extractLsb'_eq_extractLsb' rfl
  rw [← hsplit, h]
  exact BitVec.setWidth_eq_append (by decide)

end

/-- The fields of a header in terms of its two quadlets; the bytes behind it do not matter (R94, R95). -/
theorem cipHeader_be32Bytes (q0 q1 : Word) (rest : List Byte) :
    cipHeader (be32Bytes q0 ++ (be32Bytes q1 ++ rest)) =
      { sid := q0.extractLsb' 24 6, dbs := q0.extractLsb' 16 8, fn := q0.extractLsb' 14 2
        qpc := q0.extractLsb' 11 3, sph := q0.getLsbD 10, dbc := q0.extractLsb' 0 8
        eoh := q1.getLsbD 31, fmt := q1.extractLsb' 24 6, fdfIs24 := q1.getLsbD 29
        fdf := if q1.getLsbD 29 then q1.extractLsb' 0 24 else (q1.extractLsb' 16 8).setWidth 24
        syt := q1.extractLsb' 0 16 } := by
  simp [cipHeader, be24, be16, byteAt, be32Bytes, extract_extract, append_low16, append_low24]

/-- The second quadlet of a payload whose first one is known. -/
theorem be32_second (q : Word) (bytes : List Byte) : be32 (be32Bytes q ++ bytes) 4 = be32 bytes 0 := rfl

theorem be32_readBytes (s : State) (a : Nat) {n k : Nat} (h : k + 4 ≤ n) :
    be32 (s.readBytes a n) k =
      s.readByte (a + k) ++ s.readByte (a + (k + 1)) ++ s.readByte (a + (k + 2)) ++
        s.readByte (a + (k + 3)) := by
  simp only [be32, byteAt_readBytes s a n k (by omega), byteAt_readBytes s a n (k + 1) (by omega),
    byteAt_readBytes s a n (k + 2) (by omega), byteAt_readBytes s a n (k + 3) (by omega)]

/-- The source packet size of a payload in BUF: `dbs` is its byte 1 and `fn` the top of its byte 2 (R95, R96). -/
theorem sourcePacketSize_readBytes (s : State) (a : Nat) {n : Nat} (h : 8 ≤ n) :
    (cipHeader (s.readBytes a n)).sourcePacketSize =
      (s.readByte (a + 1)).toNat * 4 * 2 ^ ((s.readByte (a + 2)).toNat / 64) := by
  have hfn : ((s.readByte (a + 2)).extractLsb' 6 2).toNat = (s.readByte (a + 2)).toNat / 64 := by
    have hlt := (s.readByte (a + 2)).isLt
    rw [BitVec.extractLsb'_toNat, Nat.shiftRight_eq_div_pow]
    omega
  rw [CipHeader.sourcePacketSize, cipHeader, byteAt_readBytes s a n 1 (by omega),
    byteAt_readBytes s a n 2 (by omega), hfn]

theorem readBytes_of_buf_eq {s t : State} (h : s.buf = t.buf) (a n : Nat) :
    s.readBytes a n = t.readBytes a n := by
  simp only [State.readBytes, State.readByte, h]

/-! ### The parsed record (R122, R123) -/

section

variable {m len : Nat} {p : List Byte}

theorem parseCip_noSize (h : (cipHeader p).sourcePacketSize = 0) : parseCip m p len = none := by
  simp [parseCip, h]

theorem parseCip_record (h : (cipHeader p).sourcePacketSize ≠ 0) :
    parseCip m p len = some
      { header := cipHeader p, sourcePacketSize := (cipHeader p).sourcePacketSize
        numSourcePackets := min ((len - 8) / (cipHeader p).sourcePacketSize) m
        clamped := decide (m < (len - 8) / (cipHeader p).sourcePacketSize) } := by
  simp [parseCip, h]

end

@[simp] theorem packetPointers_length (pa : Nat) (r : CipRecord) :
    (packetPointers pa r).length = 4 * r.numSourcePackets := by
  simp [packetPointers, List.length_flatMap, Nat.mul_comm]

/-! ### IS_CIP (R121) -/

theorem isCipHeader_iff (h : Word) : isCipHeader h = true ↔ h.extractLsb' 14 2 = 0b01#2 := by
  simp [isCipHeader, isoTag]

/-- Settles O11: the body of IS_CIP, whose test is of the tag. -/
theorem isCipResult : Obligations.IsCipResult := by
  intro s hhalt
  have hrun : exec .isCip s = .next (endCommand (isCipBody s)) := asCommand_run hhalt rfl (.inr rfl)
  rw [hrun]
  simp only [isCipBody, run_bind, run_getState, run_writeRes0, run_answer, isCipHeader_iff]
  rfl

/-! ### PARSE_CIP (R122) -/

section

variable {s : State} {r : CipRecord}

theorem exec_parseCip_run (hhalt : s.halted = false) :
    exec .parseCip s = .next (endCommand (parseCipBody s)) := asCommand_run hhalt rfl (.inr rfl)

theorem exec_parseCip_short (hhalt : s.halted = false) (hlen : s.arg1.toNat < 8) :
    exec .parseCip s = .next (s.takeFault (.shortPayload s.arg1.toNat)) := by
  rw [exec_parseCip_run hhalt]
  simp [parseCipBody, hlen]

theorem exec_parseCip_badPayload (hhalt : s.halted = false) (hlen : 8 ≤ s.arg1.toNat)
    (hin : s.par.bufBytes < s.arg0.toNat + s.arg1.toNat) :
    exec .parseCip s = .next (s.takeFault (.badAddress s.arg0.toNat s.arg1.toNat)) := by
  rw [exec_parseCip_run hhalt]
  simp [parseCipBody, Nat.not_lt.mpr hlen, run_memRead_bad (Nat.not_le.mpr hin)]

/-- A header of source packet size 0 is refused before any pointer is written. -/
theorem exec_parseCip_noSize (hhalt : s.halted = false) (hlen : 8 ≤ s.arg1.toNat)
    (hin : s.arg0.toNat + s.arg1.toNat ≤ s.par.bufBytes)
    (hr : parseCip s.par.maxSourcePackets (s.readBytes s.arg0.toNat s.arg1.toNat) s.arg1.toNat = none) :
    exec .parseCip s = .next (s.setStatus .deviceError) := by
  rw [exec_parseCip_run hhalt]
  simp [parseCipBody, Nat.not_lt.mpr hlen, run_memRead_ok hin, hr]

theorem exec_parseCip_badPointers (hhalt : s.halted = false) (hlen : 8 ≤ s.arg1.toNat)
    (hin : s.arg0.toNat + s.arg1.toNat ≤ s.par.bufBytes)
    (hr : parseCip s.par.maxSourcePackets (s.readBytes s.arg0.toNat s.arg1.toNat) s.arg1.toNat = some r)
    (hout : s.par.bufBytes < s.arg2.toNat + 4 * r.numSourcePackets) :
    exec .parseCip s =
      .next (s.takeFault (.badAddress s.arg2.toNat (4 * r.numSourcePackets))) := by
  have hbad : ¬ s.arg2.toNat + (packetPointers s.arg0.toNat r).length ≤ s.par.bufBytes := by
    rw [packetPointers_length]
    exact Nat.not_le.mpr hout
  rw [exec_parseCip_run hhalt]
  simp [parseCipBody, Nat.not_lt.mpr hlen, run_memRead_ok hin, hr, run_memWrite_bad hbad]

theorem exec_parseCip_ok (hhalt : s.halted = false) (hlen : 8 ≤ s.arg1.toNat)
    (hin : s.arg0.toNat + s.arg1.toNat ≤ s.par.bufBytes)
    (hr : parseCip s.par.maxSourcePackets (s.readBytes s.arg0.toNat s.arg1.toNat) s.arg1.toNat = some r)
    (hout : s.arg2.toNat + 4 * r.numSourcePackets ≤ s.par.bufBytes) :
    exec .parseCip s = .next { s.writeBytes s.arg2.toNat (packetPointers s.arg0.toNat r) with
      res0 := BitVec.ofNat 32 r.numSourcePackets
      res1 := BitVec.ofNat 32 r.sourcePacketSize
      res2 := be32 (s.readBytes s.arg0.toNat s.arg1.toNat) 0
      res3 := be32 (s.readBytes s.arg0.toNat s.arg1.toNat) 4
      status := if r.clamped then 0x05 else 0x00 } := by
  have hok : s.arg2.toNat + (packetPointers s.arg0.toNat r).length ≤ s.par.bufBytes := by
    rwa [packetPointers_length]
  have hbody : parseCipBody s = .ok (some (if r.clamped then .noSpace else .success))
      (((((s.writeBytes s.arg2.toNat (packetPointers s.arg0.toNat r)).setRes0
        (BitVec.ofNat 32 r.numSourcePackets)).setRes1 (BitVec.ofNat 32 r.sourcePacketSize)).setRes2
          (be32 (s.readBytes s.arg0.toNat s.arg1.toNat) 0)).setRes3
            (be32 (s.readBytes s.arg0.toNat s.arg1.toNat) 4)) := by
    simp [parseCipBody, Nat.not_lt.mpr hlen, run_memRead_ok hin, hr, run_memWrite_ok hok]
  rw [exec_parseCip_run hhalt, hbody]
  cases r.clamped <;> rfl

end

/-- Settles O12: one equation per exit of PARSE_CIP, in the order of its pseudocode. -/
theorem parseCipResult : Obligations.ParseCipResult := by
  intro s hhalt pa len out sps n pointers
  by_cases hlen : len < 8
  · rw [if_pos hlen]
    exact exec_parseCip_short hhalt hlen
  by_cases hin : s.par.bufBytes < pa + len
  · rw [if_neg hlen, if_pos hin]
    exact exec_parseCip_badPayload hhalt (Nat.not_lt.mp hlen) hin
  rw [if_neg hlen, if_neg hin]
  rw [Nat.not_lt] at hlen hin
  have hsize : (cipHeader (s.readBytes pa len)).sourcePacketSize = sps :=
    sourcePacketSize_readBytes s pa hlen
  by_cases hsps : sps = 0
  · rw [if_pos hsps]
    exact exec_parseCip_noSize hhalt hlen hin (parseCip_noSize (hsize.trans hsps))
  rw [if_neg hsps]
  have hrecord := parseCip_record (m := s.par.maxSourcePackets) (len := len) (hsize.trans_ne hsps)
  rw [hsize] at hrecord
  by_cases hout : s.par.bufBytes < out + 4 * n
  · rw [if_pos hout]
    exact exec_parseCip_badPointers hhalt hlen hin hrecord hout
  · rw [if_neg hout, exec_parseCip_ok hhalt hlen hin hrecord (Nat.not_lt.mp hout),
      be32_readBytes s pa (by omega), be32_readBytes s pa (by omega)]
    simp [packetPointers, CipRecord.packetOffset, pointers, Nat.add_assoc, pa, n, out]

/-! ### BUILD_CIP (R124) -/

/-- The second quadlet of the header BUILD_CIP makes: `fdf` and `syt` share it when `fmt[5]` is 0. -/
def cipQuadlet1 (a1 a2 : Word) : Word :=
  if a1.getLsbD 29 then a1
  else a1.extractLsb' 24 8 ++ a1.extractLsb' 0 8 ++ a2.extractLsb' 0 16

section

variable {s : State} {a0 a1 a2 q0 q1 : Word}

theorem buildCip_reserved (h : a0.extractLsb' 30 2 ≠ 0 ∨ a2.extractLsb' 16 16 ≠ 0) :
    buildCip a0 a1 a2 = none := if_pos h

theorem buildCip_wideFdf (h : a1.getLsbD 29 = false ∧ a1.extractLsb' 8 16 ≠ 0) :
    buildCip a0 a1 a2 = none := by
  by_cases hres : a0.extractLsb' 30 2 ≠ 0 ∨ a2.extractLsb' 16 16 ≠ 0
  · exact buildCip_reserved hres
  · rw [buildCip, if_neg hres, if_neg (Bool.eq_false_iff.mp h.1), if_pos h.2]

theorem buildCip_ok (hres : ¬ (a0.extractLsb' 30 2 ≠ 0 ∨ a2.extractLsb' 16 16 ≠ 0))
    (hfdf : ¬ (a1.getLsbD 29 = false ∧ a1.extractLsb' 8 16 ≠ 0)) :
    buildCip a0 a1 a2 = some (a0, cipQuadlet1 a1 a2) := by
  rw [buildCip, if_neg hres, cipQuadlet1]
  by_cases h29 : a1.getLsbD 29 = true
  · rw [if_pos h29, if_pos h29]
  · have hzero : ¬ a1.extractLsb' 8 16 ≠ 0 := fun h => hfdf ⟨Bool.eq_false_iff.mpr h29, h⟩
    rw [if_neg h29, if_neg hzero, if_neg h29]

theorem exec_buildCip_run (hhalt : s.halted = false) :
    exec .buildCip s = .next (endCommand (buildCipBody s)) := asCommand_run hhalt rfl (.inr rfl)

theorem exec_buildCip_refused (hhalt : s.halted = false) (hq : buildCip s.arg0 s.arg1 s.arg2 = none) :
    exec .buildCip s = .next (s.setStatus .badArgument) := by
  rw [exec_buildCip_run hhalt]
  simp [buildCipBody, hq]

theorem exec_buildCip_badTarget (hhalt : s.halted = false)
    (hq : buildCip s.arg0 s.arg1 s.arg2 = some (q0, q1)) (hout : s.par.bufBytes < s.arg3.toNat + 8) :
    exec .buildCip s = .next (s.takeFault (.badAddress s.arg3.toNat 8)) := by
  have hbad : ¬ s.arg3.toNat + (be32Bytes q0 ++ be32Bytes q1).length ≤ s.par.bufBytes :=
    Nat.not_le.mpr hout
  rw [exec_buildCip_run hhalt]
  simp [buildCipBody, hq, run_memWrite_bad hbad]

theorem exec_buildCip_ok (hhalt : s.halted = false)
    (hq : buildCip s.arg0 s.arg1 s.arg2 = some (q0, q1)) (hout : s.arg3.toNat + 8 ≤ s.par.bufBytes) :
    exec .buildCip s = .next { s.writeBytes s.arg3.toNat (be32Bytes q0 ++ be32Bytes q1) with
      res0 := q0, res1 := q1, status := 0x00 } := by
  have hok : s.arg3.toNat + (be32Bytes q0 ++ be32Bytes q1).length ≤ s.par.bufBytes := hout
  rw [exec_buildCip_run hhalt]
  simp only [buildCipBody, run_bind, run_getState, hq, run_memWrite_ok hok, run_writeRes0, run_writeRes1,
    run_answer]
  rfl

end

/-- Settles O13: one equation per exit of BUILD_CIP, in the order of its pseudocode. -/
theorem buildCipResult : Obligations.BuildCipResult := by
  intro s hhalt q1
  by_cases hres : s.arg0.extractLsb' 30 2 ≠ 0 ∨ s.arg2.extractLsb' 16 16 ≠ 0
  · rw [if_pos hres]
    exact exec_buildCip_refused hhalt (buildCip_reserved hres)
  by_cases hfdf : s.arg1.getLsbD 29 = false ∧ s.arg1.extractLsb' 8 16 ≠ 0
  · rw [if_neg hres, if_pos hfdf]
    exact exec_buildCip_refused hhalt (buildCip_wideFdf hfdf)
  rw [if_neg hres, if_neg hfdf]
  have hq : buildCip s.arg0 s.arg1 s.arg2 = some (s.arg0, q1) := buildCip_ok hres hfdf
  by_cases hout : s.par.bufBytes < s.arg3.toNat + 8
  · rw [if_pos hout]
    exact exec_buildCip_badTarget hhalt hq hout
  · rw [if_neg hout]
    exact exec_buildCip_ok hhalt hq (Nat.not_lt.mp hout)

/-! ### PARSE_CIP of what BUILD_CIP built (R125) -/

/-- A BUILD_CIP that answers Success and does not raise has written its header. -/
theorem exec_buildCip_success {s t : State} (hhalt : s.halted = false) (ht : exec .buildCip s = .next t)
    (hrun : t.halted = false) (hst : t.status = 0x00) :
    (s.arg1.getLsbD 29 = false → s.arg1.extractLsb' 8 16 = 0) ∧
      t = { s.writeBytes s.arg3.toNat (be32Bytes s.arg0 ++ be32Bytes (cipQuadlet1 s.arg1 s.arg2)) with
        res0 := s.arg0, res1 := cipQuadlet1 s.arg1 s.arg2, status := 0x00 } := by
  have hexit := buildCipResult s hhalt
  rw [ht, Host.Outcome.next.injEq] at hexit
  have hanswered : t ≠ { s with status := 0x06 } := by
    rintro rfl
    exact absurd hst (by decide : (0x06 : Byte) ≠ 0x00)
  split at hexit
  · exact absurd hexit hanswered
  split at hexit
  · exact absurd hexit hanswered
  · next hfdf =>
    split at hexit
    · rw [hexit] at hrun
      contradiction
    · exact ⟨fun h29 => not_not.mp fun h => hfdf ⟨h29, h⟩, hexit⟩

/-- PARSE_CIP of a payload of `k` source packets behind the header of two quadlets. -/
theorem exec_parseCip_packets {u : State} {q0 q1 : Word} {k sps : Nat} (hhalt : u.halted = false)
    (hdata : u.readBytes u.arg0.toNat 8 = be32Bytes q0 ++ be32Bytes q1)
    (hsize : (q0.extractLsb' 16 8).toNat * 4 * 2 ^ (q0.extractLsb' 14 2).toNat = sps) (hsps : 0 < sps)
    (hlen : u.arg1.toNat = 8 + k * sps) (hk : k ≤ u.par.maxSourcePackets)
    (hin : u.arg0.toNat + (8 + k * sps) ≤ u.par.bufBytes)
    (hout : u.arg2.toNat + 4 * k ≤ u.par.bufBytes) :
    exec .parseCip u = .next
      { u.writeBytes u.arg2.toNat ((List.range k).flatMap fun i =>
          be32Bytes (BitVec.ofNat 32 (u.arg0.toNat + (8 + i * sps)))) with
        res0 := BitVec.ofNat 32 k, res1 := BitVec.ofNat 32 sps, res2 := q0, res3 := q1
        status := 0x00 } := by
  have hbytes : u.readBytes u.arg0.toNat u.arg1.toNat =
      be32Bytes q0 ++ (be32Bytes q1 ++ u.readBytes (u.arg0.toNat + 8) (k * sps)) := by
    rw [hlen, readBytes_add, hdata, List.append_assoc]
  have hheader : (cipHeader (u.readBytes u.arg0.toNat u.arg1.toNat)).sourcePacketSize = sps := by
    rw [hbytes, cipHeader_be32Bytes]
    exact hsize
  have hcount : (u.arg1.toNat - 8) / sps = k := by
    rw [hlen, Nat.add_sub_cancel_left, Nat.mul_div_cancel k hsps]
  have hrecord := parseCip_record (m := u.par.maxSourcePackets) (len := u.arg1.toNat)
    (hheader.trans_ne hsps.ne')
  rw [hheader, hcount, Nat.min_eq_left hk, decide_eq_false (Nat.not_lt.mpr hk)] at hrecord
  rw [exec_parseCip_ok hhalt (by omega) (hlen ▸ hin) hrecord hout, hbytes, be32_be32Bytes, be32_second,
    be32_be32Bytes]
  rfl

/-- Source packet `i` of a payload ends before any later one begins. -/
theorem sourcePackets_apart (pa sps : Nat) {i j : Nat} (h : i < j) :
    pa + (8 + i * sps) + sps ≤ pa + (8 + j * sps) := by
  have hle : (i + 1) * sps ≤ j * sps := Nat.mul_le_mul_right sps h
  rw [Nat.succ_mul] at hle
  omega

section

variable {a1 a2 : Word}

theorem cipQuadlet1_form24 (h : a1.getLsbD 29 = true) : cipQuadlet1 a1 a2 = a1 := if_pos h

theorem cipQuadlet1_form8 (h : a1.getLsbD 29 = false) :
    cipQuadlet1 a1 a2 = a1.extractLsb' 24 8 ++ (a1.extractLsb' 0 8 ++ a2.extractLsb' 0 16) := by
  rw [cipQuadlet1, if_neg (Bool.eq_false_iff.mp h), BitVec.append_assoc]
  rfl

/-- The top byte of the second quadlet, with `eoh`, the form bit and `fmt`, is ARG1's in either form. -/
theorem cipQuadlet1_top : (cipQuadlet1 a1 a2).extractLsb' 24 8 = a1.extractLsb' 24 8 := by
  cases h : a1.getLsbD 29 with
  | true => rw [cipQuadlet1_form24 h]
  | false =>
    rw [cipQuadlet1_form8 h]
    exact BitVec.extractLsb'_append_eq_left

theorem cipQuadlet1_getLsbD {j : Nat} (hj : j < 8) :
    (cipQuadlet1 a1 a2).getLsbD (24 + j) = a1.getLsbD (24 + j) := by
  have hbit := congrArg (·.getLsbD j) (cipQuadlet1_top (a1 := a1) (a2 := a2))
  simpa only [BitVec.getLsbD_extractLsb', hj, decide_true, Bool.true_and] using hbit

theorem cipQuadlet1_fmt : (cipQuadlet1 a1 a2).extractLsb' 24 6 = a1.extractLsb' 24 6 := by
  have hfmt := congrArg (·.extractLsb' 0 6) (cipQuadlet1_top (a1 := a1) (a2 := a2))
  simpa only [extract_extract _ 24 (by decide : 0 + 6 ≤ 8)] using hfmt

/-- In the 8-bit form `fdf` is byte 1 of the quadlet. -/
theorem cipQuadlet1_fdf8 (h : a1.getLsbD 29 = false) :
    (cipQuadlet1 a1 a2).extractLsb' 16 8 = a1.extractLsb' 0 8 := by
  rw [cipQuadlet1_form8 h, BitVec.extractLsb'_append_eq_of_add_le (by decide)]
  exact BitVec.extractLsb'_append_eq_left

/-- In the 8-bit form `syt` is the low half of the quadlet. -/
theorem cipQuadlet1_syt (h : a1.getLsbD 29 = false) :
    (cipQuadlet1 a1 a2).extractLsb' 0 16 = a2.extractLsb' 0 16 := by
  rw [cipQuadlet1_form8 h, BitVec.extractLsb'_append_eq_of_add_le (by decide)]
  exact BitVec.extractLsb'_append_eq_right

/-- The 24 bits that R123 reads as `fdf` are those BUILD_CIP was given, where it accepts them. -/
theorem cipQuadlet1_fdf (h : a1.getLsbD 29 = false → a1.extractLsb' 8 16 = 0) :
    (if (cipQuadlet1 a1 a2).getLsbD 29 then (cipQuadlet1 a1 a2).extractLsb' 0 24
      else ((cipQuadlet1 a1 a2).extractLsb' 16 8).setWidth 24) = a1.extractLsb' 0 24 := by
  have hform : (cipQuadlet1 a1 a2).getLsbD 29 = a1.getLsbD 29 := cipQuadlet1_getLsbD (j := 5) (by decide)
  rw [hform]
  cases h29 : a1.getLsbD 29 with
  | true => rw [if_pos rfl, cipQuadlet1_form24 h29]
  | false =>
    rw [if_neg Bool.false_ne_true, cipQuadlet1_fdf8 h29]
    exact low24_of_low8 a1 (h h29)

end

/-- Settles O14: BUILD_CIP leaves the two quadlets in BUF, and PARSE_CIP reads the size, the count and every
field back from them. -/
theorem buildThenParse : Obligations.BuildThenParse := by
  intro s t k out pa sps u h hhalt ht hrun hst hdbs hk hlen hin hout
  obtain ⟨hfdf, hbuilt⟩ := exec_buildCip_success hhalt ht hrun hst
  have hres0 : t.res0 = s.arg0 := by rw [hbuilt]
  have hres1 : t.res1 = cipQuadlet1 s.arg1 s.arg2 := by rw [hbuilt]
  have hpar : u.par = s.par := by
    show t.par = s.par
    rw [hbuilt]
    rfl
  have hdata : u.readBytes pa 8 = be32Bytes t.res0 ++ be32Bytes t.res1 := by
    have hbuf : u.buf = (s.writeBytes pa (be32Bytes s.arg0 ++ be32Bytes (cipQuadlet1 s.arg1 s.arg2))).buf := by
      show t.buf = _
      rw [hbuilt]
    rw [hres0, hres1]
    exact (readBytes_of_buf_eq hbuf pa 8).trans (readBytes_writeBytes_same s pa _)
  have hh : h = cipHeader (be32Bytes s.arg0 ++ (be32Bytes (cipQuadlet1 s.arg1 s.arg2) ++ [])) := by
    rw [List.append_nil, ← hres0, ← hres1, ← hdata]
  rw [cipHeader_be32Bytes] at hh
  have hsps : 0 < sps := by
    have hpos : 0 < (s.arg0.extractLsb' 16 8).toNat :=
      Nat.pos_of_ne_zero fun h0 => hdbs (BitVec.eq_of_toNat_eq h0)
    exact Nat.mul_pos (Nat.mul_pos hpos (by decide)) (Nat.two_pow_pos _)
  have hparse := exec_parseCip_packets (u := u) (k := k) (sps := sps) hrun hdata (by rw [hres0]) hsps
    ((BitVec.toNat_ofNat _ _).trans (Nat.mod_eq_of_lt hlen)) (hpar ▸ hk) (hpar ▸ hin) (hpar ▸ hout)
  refine ⟨hparse, fun i j => sourcePackets_apart pa sps, ?_⟩
  rw [hh]
  exact ⟨rfl, rfl, rfl, rfl, rfl, rfl, cipQuadlet1_getLsbD (j := 7) (by decide), cipQuadlet1_fmt,
    cipQuadlet1_fdf hfdf, cipQuadlet1_syt⟩

end Sys2Proof.Machine
end

section
/-! PROOF. Cycle times (obligations O15 to O17). A legal cycle time is its value below 128*8000*3072, and
CT_ADD adds values modulo that number (41_cycle_time.md R140, R142): each law of R145 is one of addition there.
The three commands name no index and may run inside a callback (60_exceptions.md R319). -/

namespace Sys2Proof.Machine

/-! ### Fields and values (R140) -/

section

variable (t : Word)

theorem ctSec_eq : ctSec t = t.toNat / 2 ^ 25 % 2 ^ 7 := by
  simp only [ctSec, BitVec.extractLsb'_toNat, Nat.shiftRight_eq_div_pow]

theorem ctCyc_eq : ctCyc t = t.toNat / 2 ^ 12 % 2 ^ 13 := by
  simp only [ctCyc, BitVec.extractLsb'_toNat, Nat.shiftRight_eq_div_pow]

theorem ctOff_eq : ctOff t = t.toNat % 2 ^ 12 := by
  simp only [ctOff, BitVec.extractLsb'_toNat, Nat.shiftRight_zero]

theorem ctSec_lt : ctSec t < 128 := (t.extractLsb' 25 7).isLt

/-- A word is its three fields. -/
theorem toNat_eq_fields : t.toNat = ctSec t * 2 ^ 25 + ctCyc t * 2 ^ 12 + ctOff t := by
  rw [ctSec_eq, ctCyc_eq, ctOff_eq]
  have := t.isLt
  omega

end

theorem ctSec_ctMake {sec : Nat} (h : sec < 128) (cyc off : Nat) : ctSec (ctMake sec cyc off) = sec := by
  have hfield : (ctMake sec cyc off).extractLsb' 25 7 = BitVec.ofNat 7 sec := by
    rw [ctMake, BitVec.extractLsb'_append_eq_of_le (by decide),
      BitVec.extractLsb'_append_eq_of_le (by decide), BitVec.extractLsb'_eq_self]
  rw [ctSec, hfield, BitVec.toNat_ofNat, Nat.mod_eq_of_lt h]

theorem ctCyc_ctMake {cyc : Nat} (sec : Nat) (h : cyc < 8000) (off : Nat) :
    ctCyc (ctMake sec cyc off) = cyc := by
  have hfield : (ctMake sec cyc off).extractLsb' 12 13 = BitVec.ofNat 13 cyc := by
    rw [ctMake, BitVec.extractLsb'_append_eq_of_le (by decide)]
    exact BitVec.extractLsb'_append_eq_right
  rw [ctCyc, hfield, BitVec.toNat_ofNat, Nat.mod_eq_of_lt (by omega)]

theorem ctOff_ctMake {off : Nat} (sec cyc : Nat) (h : off < 3072) : ctOff (ctMake sec cyc off) = off := by
  have hfield : (ctMake sec cyc off).extractLsb' 0 12 = BitVec.ofNat 12 off :=
    BitVec.extractLsb'_append_eq_right
  rw [ctOff, hfield, BitVec.toNat_ofNat, Nat.mod_eq_of_lt (by omega)]

/-- Legality, as R140 writes it out. -/
theorem ctLegal_iff (t : Word) :
    ctLegal t ↔ t.toNat % 2 ^ 12 < 3072 ∧ t.toNat / 2 ^ 12 % 2 ^ 13 < 8000 := by
  rw [ctLegal, ctOff_eq, ctCyc_eq]

/-- A legal cycle time is its value. -/
theorem ctVal_injective {a b : Word} (ha : ctLegal a) (hb : ctLegal b) (h : ctVal a = ctVal b) :
    a = b := by
  obtain ⟨haoff, hacyc⟩ := ha
  obtain ⟨hboff, hbcyc⟩ := hb
  simp only [ctVal] at h
  have hoff : ctOff a = ctOff b := by omega
  have hcyc : ctCyc a = ctCyc b := by omega
  have hsec : ctSec a = ctSec b := by omega
  apply BitVec.eq_of_toNat_eq
  rw [toNat_eq_fields a, toNat_eq_fields b, hsec, hcyc, hoff]

theorem ctVal_lt {a : Word} (ha : ctLegal a) : ctVal a < 128 * 8000 * 3072 := by
  obtain ⟨hoff, hcyc⟩ := ha
  have := ctSec_lt a
  simp only [ctVal]
  omega

/-- The index of a cycle is below one round of eight seconds (R143). -/
theorem ctIdx_lt {a : Word} (ha : ctLegal a) : ctIdx a < 64000 := by
  obtain ⟨-, hcyc⟩ := ha
  simp only [ctIdx]
  omega

/-- The index counts the whole cycles of the value, in rounds of eight seconds. -/
theorem ctIdx_eq_ctVal {a : Word} (ha : ctLegal a) : ctIdx a = ctVal a / 3072 % 64000 := by
  obtain ⟨hoff, hcyc⟩ := ha
  simp only [ctIdx, ctVal]
  omega

/-! ### The sum (R142) -/

section

variable {a b c : Word}

/-- The sum is made of fields in range, whose value is the sum of the values. -/
theorem ctSum_spec (ha : ctLegal a) (hb : ctLegal b) :
    ctLegal (ctSum a b) ∧ ctVal (ctSum a b) = (ctVal a + ctVal b) % (128 * 8000 * 3072) := by
  obtain ⟨haoff, hacyc⟩ := ha
  obtain ⟨hboff, hbcyc⟩ := hb
  have hasec := ctSec_lt a
  have hbsec := ctSec_lt b
  obtain ⟨sec, cyc, off, hmake, hsec, hcyc, hoff, hval⟩ : ∃ sec cyc off,
      ctSum a b = ctMake sec cyc off ∧ sec < 128 ∧ cyc < 8000 ∧ off < 3072 ∧
        (sec * 8000 + cyc) * 3072 + off = (ctVal a + ctVal b) % (128 * 8000 * 3072) := by
    refine ⟨_, _, _, rfl, Nat.mod_lt _ (by decide), ?_, ?_, ?_⟩
    · split <;> split <;> omega
    · split <;> omega
    · simp only [ctVal]
      split <;> split <;> omega
  rw [hmake, ctLegal, ctVal, ctSec_ctMake hsec, ctCyc_ctMake sec hcyc, ctOff_ctMake sec cyc hoff]
  exact ⟨⟨hoff, hcyc⟩, hval⟩

theorem ctSum_legal (ha : ctLegal a) (hb : ctLegal b) : ctLegal (ctSum a b) := (ctSum_spec ha hb).1

theorem ctVal_ctSum (ha : ctLegal a) (hb : ctLegal b) :
    ctVal (ctSum a b) = (ctVal a + ctVal b) % (128 * 8000 * 3072) := (ctSum_spec ha hb).2

theorem ctSum_comm (ha : ctLegal a) (hb : ctLegal b) : ctSum a b = ctSum b a :=
  ctVal_injective (ctSum_legal ha hb) (ctSum_legal hb ha)
    (by rw [ctVal_ctSum ha hb, ctVal_ctSum hb ha, Nat.add_comm])

theorem ctSum_assoc (ha : ctLegal a) (hb : ctLegal b) (hc : ctLegal c) :
    ctSum (ctSum a b) c = ctSum a (ctSum b c) := by
  have hab := ctSum_legal ha hb
  have hbc := ctSum_legal hb hc
  refine ctVal_injective (ctSum_legal hab hc) (ctSum_legal ha hbc) ?_
  rw [ctVal_ctSum hab hc, ctVal_ctSum ha hb, ctVal_ctSum ha hbc, ctVal_ctSum hb hc, Nat.mod_add_mod,
    Nat.add_mod_mod, Nat.add_assoc]

theorem ctSum_zero (ha : ctLegal a) : ctSum a 0 = a := by
  have hzero : ctLegal 0 := by decide
  refine ctVal_injective (ctSum_legal ha hzero) ha ?_
  rw [ctVal_ctSum ha hzero, show ctVal 0 = 0 by decide, Nat.add_zero, Nat.mod_eq_of_lt (ctVal_lt ha)]

/-- One cycle more moves the index by one. -/
theorem ctIdx_ctSum_cycle (ha : ctLegal a) : ctIdx (ctSum a 0x00001000#32) = (ctIdx a + 1) % 64000 := by
  have hone : ctLegal 0x00001000#32 := by decide
  rw [ctIdx_eq_ctVal (ctSum_legal ha hone), ctVal_ctSum ha hone, ctIdx_eq_ctVal ha,
    show ctVal 0x00001000#32 = 3072 by decide]
  omega

/-- `k` cycles more, one at a time, keep the time legal and move the index by `k`. -/
theorem ctIdx_cycles (ha : ctLegal a) (k : Nat) :
    let later := Nat.repeat (fun t => ctSum t 0x00001000#32) k a
    ctLegal later ∧ ctIdx later = (ctIdx a + k) % 64000 := by
  induction k with
  | zero => exact ⟨ha, by rw [Nat.repeat, Nat.add_zero, Nat.mod_eq_of_lt (ctIdx_lt ha)]⟩
  | succ k ih =>
    obtain ⟨hlegal, hidx⟩ := ih
    refine ⟨ctSum_legal hlegal (by decide), ?_⟩
    rw [Nat.repeat, ctIdx_ctSum_cycle hlegal, hidx, Nat.mod_add_mod, Nat.add_assoc]

end

/-! ### The commands -/

section

variable {s : State}

theorem exec_ctAdd_run (hhalt : s.halted = false) :
    exec .ctAdd s = .next (endCommand (ctAddBody s)) := asCommand_run hhalt rfl (.inr rfl)

theorem exec_ctDelta_run (hhalt : s.halted = false) :
    exec .ctDelta s = .next (endCommand (ctDeltaBody s)) := asCommand_run hhalt rfl (.inr rfl)

theorem exec_ctIndex_run (hhalt : s.halted = false) :
    exec .ctIndex s = .next (endCommand (ctIndexBody s)) := asCommand_run hhalt rfl (.inr rfl)

theorem exec_ctAdd_ok (hhalt : s.halted = false) (h0 : ctLegal s.arg0) (h1 : ctLegal s.arg1) :
    exec .ctAdd s = .next { s with res0 := ctSum s.arg0 s.arg1, status := 0x00 } := by
  rw [exec_ctAdd_run hhalt]
  simp only [ctAddBody, run_bind, run_getState, run_chk_ok h0, run_chk_ok h1, run_writeRes0, run_answer]
  rfl

theorem exec_ctDelta_ok (hhalt : s.halted = false) (h0 : ctLegal s.arg0) (h1 : ctLegal s.arg1) :
    exec .ctDelta s =
      .next { s with res0 := BitVec.ofNat 32 (ctLost s.arg0 s.arg1), status := 0x00 } := by
  rw [exec_ctDelta_run hhalt]
  simp only [ctDeltaBody, run_bind, run_getState, run_chk_ok h0, run_chk_ok h1, run_writeRes0, run_answer]
  rfl

theorem exec_ctIndex_ok (hhalt : s.halted = false) (h0 : ctLegal s.arg0) :
    exec .ctIndex s = .next { s with res0 := BitVec.ofNat 32 (ctIdx s.arg0), status := 0x00 } := by
  rw [exec_ctIndex_run hhalt]
  simp only [ctIndexBody, run_bind, run_getState, run_chk_ok h0, run_writeRes0, run_answer]
  rfl

/-- Each of the three checks ARG0 first (R141). -/
theorem exec_ct_badFirst {i : Instr} (hi : i = .ctAdd ∨ i = .ctDelta ∨ i = .ctIndex)
    (hhalt : s.halted = false) (h0 : ¬ ctLegal s.arg0) :
    exec i s = .next (s.takeFault (.ctRange s.arg0)) := by
  rcases hi with rfl | rfl | rfl
  · simp only [exec_ctAdd_run hhalt, ctAddBody, run_bind, run_getState, run_chk_bad h0, endCommand_fault]
  · simp only [exec_ctDelta_run hhalt, ctDeltaBody, run_bind, run_getState, run_chk_bad h0,
      endCommand_fault]
  · simp only [exec_ctIndex_run hhalt, ctIndexBody, run_bind, run_getState, run_chk_bad h0,
      endCommand_fault]

/-- The two of two operands check ARG1 then (R141). -/
theorem exec_ct_badSecond {i : Instr} (hi : i = .ctAdd ∨ i = .ctDelta) (hhalt : s.halted = false)
    (h0 : ctLegal s.arg0) (h1 : ¬ ctLegal s.arg1) :
    exec i s = .next (s.takeFault (.ctRange s.arg1)) := by
  rcases hi with rfl | rfl
  · simp only [exec_ctAdd_run hhalt, ctAddBody, run_bind, run_getState, run_chk_ok h0, run_chk_bad h1,
      endCommand_fault]
  · simp only [exec_ctDelta_run hhalt, ctDeltaBody, run_bind, run_getState, run_chk_ok h0, run_chk_bad h1,
      endCommand_fault]

end

/-- Settles O15: CT_ADD's one exit on legal operands, and the laws of addition modulo 128*8000*3072. -/
theorem cycleTimeAddition : Obligations.CycleTimeAddition :=
  ⟨fun _ => exec_ctAdd_ok, fun _ _ => ctSum_spec, fun _ _ => ctSum_comm, fun _ _ _ => ctSum_assoc,
    fun _ => ctSum_zero, fun _ k ha => (ctIdx_cycles ha k).2⟩

/-- Settles O16: the checks of the three commands, in their order. -/
theorem cycleTimeRange : Obligations.CycleTimeRange := by
  intro i s hhalt hi
  rw [← ctLegal_iff, ← ctLegal_iff]
  refine ⟨exec_ct_badFirst hi hhalt, fun h0 hindex => exec_ct_badSecond ?_ hhalt h0⟩
  rcases hi with h | h | h
  · exact .inl h
  · exact .inr h
  · exact absurd h hindex

/-- Settles O17: the exits of CT_INDEX and CT_DELTA on legal operands; a difference of two indices is one of
natural numbers once a round is added. -/
theorem cycleTimeIndexAndDelta : Obligations.CycleTimeIndexAndDelta := by
  intro s hhalt h0 idx
  have hidx : ∀ t, idx t = ctIdx t := fun t => by
    rw [ctIdx, ctSec_eq, ctCyc_eq]
    show t.toNat / 2 ^ 25 % 8 * 8000 + _ = _
    omega
  rw [hidx]
  refine ⟨ctIdx_lt h0, exec_ctIndex_ok hhalt h0, fun h1 => ⟨_, ?_, exec_ctDelta_ok hhalt h0 h1⟩⟩
  have hlt := ctIdx_lt h1
  rw [hidx, ctLost]
  omega

end Sys2Proof.Machine
end

section
/-! PROOF. What the producers of a transmit engine do under any client (obligations O24, O26 and O33). Their
pseudocode is put together from a few parts, so that what holds of each part, whatever the clients do in their
callbacks, holds of DVT_CYCLE, UTX_CYCLE, a prefill and a drain (spec/42_buffer_engine.md R157, R182,
spec/44_dv_transmit.md R242 to R248). -/

namespace Sys2Proof.Machine

/-! ### Answers from the tape (log 2) -/

/-- How many free values have been taken when the tape is at its end. -/
def State.reach (s : State) : Nat := s.drawn + s.tape.length

/-- Answers come off the front of the tape, and beyond its end they are free values. -/
structure TapeLaw (s t : State) : Prop where
  suffix : t.tape <:+ s.tape
  reach_le : s.reach ≤ t.reach
  reach_eq : t.tape ≠ [] → t.reach = s.reach

theorem tapeLaw_of_same {s t : State} (htape : t.tape = s.tape) (hdrawn : t.drawn = s.drawn) :
    TapeLaw s t := by
  have hreach : t.reach = s.reach := by rw [State.reach, htape, hdrawn, State.reach]
  exact ⟨htape ▸ List.suffix_rfl, hreach.ge, fun _ => hreach⟩

theorem TapeLaw.refl (s : State) : TapeLaw s s := tapeLaw_of_same rfl rfl

theorem TapeLaw.trans {s t u : State} (a : TapeLaw s t) (b : TapeLaw t u) : TapeLaw s u where
  suffix := b.suffix.trans a.suffix
  reach_le := a.reach_le.trans b.reach_le
  reach_eq hu := by
    have ht : t.tape ≠ [] := fun h => hu (List.suffix_nil.mp (h ▸ b.suffix))
    exact (b.reach_eq hu).trans (a.reach_eq ht)

theorem tapeLaw_takeDraw {s : State} {ds : List Draw} (h : s.tape.tail = ds) :
    TapeLaw s (s.takeDraw ds) := by
  subst h
  cases ht : s.tape with
  | nil => exact ⟨by simp, by simp [State.reach, ht], by simp⟩
  | cons d ds =>
    have hreach : (s.takeDraw (d :: ds).tail).reach = s.reach := by
      simp [State.reach, ht]; omega
    exact ⟨by simp [ht], hreach.ge, fun _ => hreach⟩

/-- No answer was beyond the tape where fewer have been taken than it held. -/
theorem TapeLaw.reach_le_of_drawn {s t : State} (h : TapeLaw s t) (hd : t.drawn ≤ s.reach) :
    t.reach ≤ s.reach := by
  cases ht : t.tape with
  | nil => simpa [State.reach, ht] using hd
  | cons d ds => exact (h.reach_eq (by simp [ht])).le

/-- The next answer: the head of the tape, or a free value. -/
def State.nextDraw (s : State) : Draw := s.tape.headD (Config.draw s.drawn)

theorem State.nextDraw_of_tape {s : State} {d : Draw} {ds : List Draw} (h : s.tape = d :: ds) :
    s.nextDraw = d := by rw [State.nextDraw, h]; rfl

theorem run_draw (s : State) : draw s = .ok s.nextDraw (s.takeDraw s.tape.tail) := by
  cases h : s.tape with
  | nil => rw [run_draw_free h, State.nextDraw, h]; rfl
  | cons d ds => rw [run_draw_tape h, State.nextDraw, h]; rfl

theorem run_request (s : State) (o : Out) :
    request o s = .ok s.nextDraw ((s.emit o).takeDraw s.tape.tail) := by
  rw [request, run_bind, run_update]
  exact run_draw (s.emit o)

/-! ### What stays -/

/-- What a producer leaves of its engine; `steals` says whether STEAL_COUNT may go down. -/
structure EngCourse (steals : Bool) (x y : Eng) : Prop extends EngSame x y where
  firstCallback : y.firstCallback = x.firstCallback
  stealCount : steals = false → y.stealCount = x.stealCount

/-- What a producer of the engine `e` leaves of the state. -/
structure Course (e : Nat) (steals : Bool) (s t : State) : Prop extends TapeLaw s t where
  par : t.par = s.par
  instances : t.inst.length = s.inst.length
  epoch : t.epoch = s.epoch
  eng : EngCourse steals (s.eng e) (t.eng e)
  dvMode : (t.dvt e).dvMode = (s.dvt e).dvMode

variable {e : Nat} {steals : Bool}

theorem EngCourse.refl (x : Eng) : EngCourse steals x x := ⟨EngSame.refl x, rfl, fun _ => rfl⟩

theorem course_refl (s : State) : Course e steals s s :=
  ⟨TapeLaw.refl s, rfl, rfl, rfl, EngCourse.refl _, rfl⟩

theorem Course.trans {s t u : State} (a : Course e steals s t) (b : Course e steals t u) :
    Course e steals s u where
  toTapeLaw := a.toTapeLaw.trans b.toTapeLaw
  par := b.par.trans a.par
  instances := b.instances.trans a.instances
  epoch := b.epoch.trans a.epoch
  eng := ⟨a.eng.toEngSame.trans b.eng.toEngSame, b.eng.firstCallback.trans a.eng.firstCallback,
    fun h => (b.eng.stealCount h).trans (a.eng.stealCount h)⟩
  dvMode := b.dvMode.trans a.dvMode

theorem course_travels : Travels (Course e steals) := ⟨course_refl, Course.trans⟩

/-- A move outside the parameters, the instances, the answers and the count of resets. -/
theorem course_of_same {s t : State} (hpar : t.par = s.par) (hinst : t.inst = s.inst)
    (hepoch : t.epoch = s.epoch) (htape : TapeLaw s t) : Course e steals s t := by
  have hat : t.instAt e = s.instAt e := by simp [State.instAt, hinst, hpar]
  have heng : t.eng e = s.eng e := congrArg Inst.eng hat
  have hdvt : t.dvt e = s.dvt e := congrArg Inst.dvt hat
  exact ⟨htape, hpar, by rw [hinst], hepoch, heng ▸ EngCourse.refl _, by rw [hdvt]⟩

theorem course_modEng {s : State} {j : Nat} {g : Eng → Eng}
    (hg : ∀ x, EngCourse steals x (g x)) : Course e steals s (s.modEng j g) := by
  have heng : EngCourse steals (s.eng e) ((s.modEng j g).eng e) := by
    by_cases hj : j < s.inst.length
    · by_cases hje : j = e
      · subst hje
        rw [eng_modEng_same _ _ hj]
        exact hg _
      · rw [eng_modEng_ne _ _ hje]
        exact EngCourse.refl _
    · rw [modEng_absent hj]
      exact EngCourse.refl _
  exact ⟨tapeLaw_of_same rfl rfl, rfl, by simp, rfl, heng, by simp⟩

theorem course_modDvr (s : State) (j : Nat) (g : Dvr → Dvr) : Course e steals s (s.modDvr j g) :=
  ⟨tapeLaw_of_same rfl rfl, rfl, by simp, rfl, by rw [eng_modDvr]; exact EngCourse.refl _, by simp⟩

theorem course_modTs (s : State) (j : Nat) (g : Ts → Ts) : Course e steals s (s.modTs j g) :=
  ⟨tapeLaw_of_same rfl rfl, rfl, by simp, rfl, by rw [eng_modTs]; exact EngCourse.refl _, by simp⟩

theorem course_modDvt {s : State} {g : Dvt → Dvt} (hg : ∀ d, (g d).dvMode = d.dvMode) :
    Course e steals s (s.modDvt e g) := by
  have hmode : ((s.modDvt e g).dvt e).dvMode = (s.dvt e).dvMode := by
    by_cases he : e < s.inst.length
    · rw [dvt_modDvt_same _ _ he, hg]
    · rw [modDvt_eq, State.setInst, List.set_eq_of_length_le (Nat.not_lt.mp he)]
  exact ⟨tapeLaw_of_same rfl rfl, rfl, by simp, rfl, by rw [eng_modDvt]; exact EngCourse.refl _, hmode⟩

theorem course_calls : CallStable (Course e steals) where
  toTravels := course_travels
  setCmd _ _ := course_of_same rfl rfl rfl (tapeLaw_of_same rfl rfl)
  setStatus _ _ := course_of_same rfl rfl rfl (tapeLaw_of_same rfl rfl)
  setRes0 _ _ := course_of_same rfl rfl rfl (tapeLaw_of_same rfl rfl)
  setRes1 _ _ := course_of_same rfl rfl rfl (tapeLaw_of_same rfl rfl)
  setRes2 _ _ := course_of_same rfl rfl rfl (tapeLaw_of_same rfl rfl)
  setRes3 _ _ := course_of_same rfl rfl rfl (tapeLaw_of_same rfl rfl)
  hostWrite _ r _ := by cases r <;> exact course_of_same rfl rfl rfl (tapeLaw_of_same rfl rfl)
  writeBytes _ _ _ _ := course_of_same rfl rfl rfl (tapeLaw_of_same rfl rfl)
  takeFault _ _ := course_of_same rfl rfl rfl (tapeLaw_of_same rfl rfl)
  release s j _ _ _ _ := course_modDvr s j _
  releaseBuf s j _ _ _ := course_modTs s j _
  setWatchdog _ _ b := course_modEng fun x =>
    ⟨EngSame.setWatchdog x b, by unfold Eng.setWatchdog; split <;> rfl,
      fun _ => by unfold Eng.setWatchdog; split <;> rfl⟩
  enterCallback _ _ := course_of_same rfl rfl rfl (tapeLaw_of_same rfl rfl)
  leaveCallback _ := course_of_same rfl rfl rfl (tapeLaw_of_same rfl rfl)
  emit _ _ := course_of_same rfl rfl rfl (tapeLaw_of_same rfl rfl)
  takeDraw _ _ h := course_of_same rfl rfl rfl (tapeLaw_takeDraw h)

/-! ### The parts of a producer -/

/-- The registers of the command port that no producer reads or writes. -/
structure Ports where
  arg0 : Word
  arg1 : Word
  arg2 : Word
  res0 : Word
  status : Byte

def State.ports (s : State) : Ports := ⟨s.arg0, s.arg1, s.arg2, s.res0, s.status⟩

def State.withPorts (s : State) (p : Ports) : State :=
  { s with arg0 := p.arg0, arg1 := p.arg1, arg2 := p.arg2, res0 := p.res0, status := p.status }

/-- Pseudocode put together from the parts of the producers of the engine `e`. -/
inductive Producer (e : Nat) (steals : Bool) : {α : Type} → M α → Prop where
  | pure {α : Type} (a : α) : Producer e steals (pure a : M α)
  | getEng : Producer e steals (getEng e)
  | getDvt : Producer e steals (getDvt e)
  | getPar : Producer e steals getPar
  /-- what is read of the state is not in the registers of the command port -/
  | getState {α : Type} {k : State → M α} (hk : ∀ s, Producer e steals (k s))
      (hports : ∀ s p, k (State.withPorts s p) = k s) : Producer e steals (getState >>= k)
  | request (o : Out) : Producer e steals (request o)
  | callback (o : Out) : Producer e steals (callback o)
  | chk (t : Word) : Producer e steals (chk t)
  | raise {α : Type} (f : BlockFault) : Producer e steals (raise f : M α)
  | memRead (a n : Nat) : Producer e steals (memRead a n)
  | memWrite (a : Nat) (bytes : List Byte) : Producer e steals (memWrite a bytes)
  | record {g : Dvt → Dvt} (hg : ∀ d, (g d).dvMode = d.dvMode) : Producer e steals (modDvt e g)
  | slotHdr (k : Nat) (w : Word) : Producer e steals (modEng e (·.setSlotHdr k w))
  | steal (h : steals = true) : Producer e steals (modEng e Eng.stolen)
  | bind {α β : Type} {m : M α} {k : α → M β} (hm : Producer e steals m)
      (hk : ∀ a, Producer e steals (k a)) : Producer e steals (m >>= k)

namespace Producer

theorem ite {α : Type} {c : Prop} [Decidable c] {m n : M α} (hm : c → Producer e steals m)
    (hn : ¬ c → Producer e steals n) : Producer e steals (if c then m else n) := by
  split
  · next h => exact hm h
  · next h => exact hn h

theorem notify (o : Out) : Producer e steals (notify o) := .bind (.callback o) fun _ => .pure ()

theorem addCycles (t : Word) (k : Nat) : Producer e steals (addCycles t k) :=
  .bind (.chk t) fun _ => .pure _

theorem releaseFrame (f : Nat) : Producer e steals (releaseFrame e f) :=
  .bind (.record fun _ => rfl) fun _ => .notify _

theorem dropRefs : ∀ fs : List Nat, Producer e steals (dropRefs e fs)
  | [] => .pure ()
  | f :: fs => .bind (.record fun _ => rfl) fun _ => .bind .getDvt fun _ =>
      .ite (fun _ => .bind (.releaseFrame f) fun _ => dropRefs fs) fun _ => dropRefs fs

theorem releaseSlotRefs (k : Nat) : Producer e steals (releaseSlotRefs e k) :=
  .bind .getDvt fun _ => .bind (.dropRefs _) fun _ => .record fun _ => rfl

theorem drainFrom : ∀ n k : Nat, Producer e steals (drainFrom e n k)
  | 0, _ => .pure ()
  | n + 1, k => .bind (.releaseSlotRefs k) fun _ => drainFrom n (k + 1)

theorem drainSlots : Producer e steals (drainSlots e) := by
  refine .bind .getEng fun g => ?_
  cases g.kind with
  | dvtx => exact .drainFrom _ _
  | utx => exact .pure ()
  | dvrx => exact .pure ()
  | urx => exact .pure ()

theorem pullFrame (row : DvFormat) : Producer e steals (pullFrame e row) :=
  .bind (.callback _) fun _ => .bind .getPar fun _ => .bind .getDvt fun _ =>
    .ite (fun _ => .pure _) fun _ => .bind (.record fun _ => rfl) fun _ => .pure _

theorem copyOut (k : Nat) (row : DvFormat) (nb f : Nat) : Producer e steals (copyOut e k row nb f) := by
  refine .bind .getEng fun _ => .bind .getDvt fun _ => .bind (.memRead _ _) fun _ =>
    .bind (.memWrite _ _) fun _ => .record fun d => ?_
  unfold Dvt.blockCopied Dvt.addRef
  dsimp only
  split <;> split <;> rfl

theorem fillSlot (k : Nat) (row : DvFormat) :
    ∀ (n nb : Nat) (syt : Half), Producer e steals (fillSlot e k row n nb syt)
  | 0, _, _ => .pure _
  | n + 1, nb, syt => by
    refine .bind .getDvt fun d => ?_
    split
    · exact .bind (.copyOut _ _ _ _) fun _ => fillSlot k row n _ _
    · refine .bind (.pullFrame row) fun _ => .ite (fun _ => .bind .getDvt fun d' => ?_) fun _ => .pure _
      split
      · exact .bind (.copyOut _ _ _ _) fun _ => fillSlot k row n _ _
      · exact .pure _

theorem writeHeader (k : Nat) (row : DvFormat) (nb : Nat) (syt : Half) :
    Producer e steals (writeHeader e k row nb syt) :=
  .bind .getEng fun _ => .bind .getDvt fun _ => .bind (.memWrite _ _) fun _ => .slotHdr _ _

theorem sendPacket (k : Nat) (row : DvFormat) (n : Nat) (w : Half) :
    Producer e steals (sendPacket e k row n w) :=
  .bind (.writeHeader _ _ _ _) fun _ => .bind (.record fun _ => rfl) fun _ => .bind .getDvt fun _ =>
    .bind (.addCycles _ _) fun _ => .bind (.record fun _ => rfl) fun _ => .pure _

theorem finishPacket {steal : Bool} (h : steal = true → steals = true) (k : Nat) (row : DvFormat)
    (a : Nat × Half) : Producer e steals (finishPacket e k row steal a) := by
  refine .ite (fun hc => .bind (.steal (h hc.1)) fun _ => .sendPacket _ _ _ _) fun _ =>
    .sendPacket _ _ _ _

theorem produceFrom {produce : Nat → M (Status × Nat)} (h : ∀ k, Producer e steals (produce k)) :
    ∀ n k : Nat, Producer e steals (produceFrom produce n k)
  | 0, _ => .pure ()
  | n + 1, k => .bind (h k) fun _ => produceFrom h n (k + 1)

/-- UTX_CYCLE (42_buffer_engine.md R182). -/
theorem utxCycle (k : Nat) : Producer e steals (utxCycle e k) :=
  .bind .getEng fun _ => .ite (fun _ => .pure _) fun _ => .bind (.callback _) fun _ =>
    .ite (fun _ => .raise _) fun _ => .bind (.slotHdr _ _) fun _ => .pure _

end Producer

/-- The packet of a DVT_CYCLE whose buffer's references are dropped: its blocks where the cycle carries data
or is stolen, then the rest (44_dv_transmit.md R243, R247). -/
def dvtPacket (e k : Nat) (row : DvFormat) (data steal : Bool) (d : Dvt) : M (Status × Nat) :=
  if data || steal then
    fillSlot e k row d.blocksPerCycle.toNat 0 0xFFFF >>= finishPacket e k row steal
  else finishPacket e k row steal (0, 0xFFFF)

theorem dvtCycle_eq (e k : Nat) : dvtCycle e k = getState >>= fun s =>
    if (s.eng e).setupDone = false ∨ (s.eng e).kind ≠ .dvtx ∨ (s.eng e).slots ≤ k then
      pure (.badArgument, 0)
    else
      match s.par.dvRow (s.dvt e).dvMode with
      | none => pure (.badArgument, 0)
      | some row => releaseSlotRefs e k >>= fun _ => getDvt e >>= fun d => getEng e >>= fun g =>
        dvtPacket e k row (s.par.dataCycle d.txCycleCount.toNat)
          (!s.par.dataCycle d.txCycleCount.toNat && decide (0 < g.stealCount.toNat)) d := by
  rfl

namespace Producer

theorem dvtPacket {steal : Bool} (h : steal = true → steals = true) (k : Nat) (row : DvFormat)
    (data : Bool) (d : Dvt) : Producer e steals (dvtPacket e k row data steal d) :=
  .ite (fun _ => .bind (.fillSlot _ _ _ _ _) fun _ => .finishPacket h _ _ _) fun _ =>
    .finishPacket h _ _ _

/-- DVT_CYCLE (44_dv_transmit.md R243). -/
theorem dvtCycle (k : Nat) : Producer e true (dvtCycle e k) := by
  rw [dvtCycle_eq]
  refine .getState (fun s => .ite (fun _ => .pure _) fun _ => ?_) fun _ _ => rfl
  split
  · exact .pure _
  · exact .bind (.releaseSlotRefs k) fun _ => .bind .getDvt fun _ => .bind .getEng fun _ =>
      .dvtPacket (fun _ => rfl) _ _ _ _

end Producer

/-- A producer keeps its engine's course, whatever the clients do. -/
theorem Producer.course {α : Type} {m : M α} (h : Producer e steals m) : Leads (Course e steals) m := by
  have hshared : Shared (Course e steals) := course_calls.shared
  induction h with
  | pure a => exact hshared.part (.pure a)
  | getEng => exact hshared.part (.getEng e)
  | getDvt => exact hshared.part (.getDvt e)
  | getPar => exact hshared.part .getPar
  | getState _ _ ih => exact leads_bind course_travels (hshared.part .getState) ih
  | request o => exact hshared.request o
  | callback o => exact hshared.callback o
  | chk t => exact hshared.part (.chk t)
  | raise f => exact hshared.part (.raise f)
  | memRead a n => exact hshared.part (.memRead a n)
  | memWrite a bytes => exact leads_memWrite course_calls.takeFault course_calls.writeBytes a bytes
  | record hg => exact fun _ => course_modDvt hg
  | slotHdr k w =>
    exact fun _ => course_modEng (g := (·.setSlotHdr k w)) fun _ =>
      ⟨by constructor <;> rfl, rfl, fun _ => rfl⟩
  | steal hs =>
    exact fun _ => course_modEng (g := Eng.stolen) fun _ =>
      ⟨by constructor <;> rfl, rfl, fun h => absurd (hs.symm.trans h) (by decide)⟩
  | bind _ _ ihm ihk => exact leads_bind course_travels ihm ihk

/-- A DVT_CYCLE steals no cycle where none is to be stolen (44_dv_transmit.md R247). -/
theorem dvtCycle_course {s : State} (h : (s.eng e).stealCount = 0) (k : Nat) :
    Course e false s (finalState (dvtCycle e k s)) := by
  rw [dvtCycle_eq, run_bind, run_getState]
  dsimp only
  rw [run_ite]
  split
  · exact course_refl _
  rcases s.par.dvRow (s.dvt e).dvMode with _ | row
  · exact course_refl _
  refine leads_bind_at course_travels ((Producer.releaseSlotRefs k).course _) fun _ u hu => ?_
  have hdrop := (Producer.releaseSlotRefs (e := e) (steals := false) k).course s
  rw [hu] at hdrop
  have hzero : (u.eng e).stealCount = 0 := (hdrop.eng.stealCount rfl).trans h
  rw [run_bind, run_getDvt]
  dsimp only
  rw [run_bind, run_getEng]
  exact (Producer.dvtPacket (by simp [hzero]) _ _ _ _).course u

/-! ### A fault halts the block (60_exceptions.md R314) -/

/-- A computation that raises leaves a halted block. -/
def FaultHalts {α : Type} (m : M α) : Prop := ∀ s t, m s = .error .fault t → t.halted = true

section

variable {α β : Type}

theorem faultHalts_bind {m : M α} {k : α → M β} (hm : FaultHalts m) (hk : ∀ a, FaultHalts (k a)) :
    FaultHalts (m >>= k) := by
  intro s t h
  rw [run_bind] at h
  cases hr : m s with
  | ok a u => rw [hr] at h; exact hk a u t h
  | error c u =>
    rw [hr] at h
    cases h
    exact hm s t hr

theorem faultHalts_ite {c : Prop} [Decidable c] {m n : M α} (hm : FaultHalts m) (hn : FaultHalts n) :
    FaultHalts (if c then m else n) := by split <;> assumption

/-- A computation that always goes on raises nothing. -/
theorem faultHalts_of_ok {m : M α} (h : ∀ s, ∃ a t, m s = .ok a t) : FaultHalts m := by
  intro s t ht
  obtain ⟨a, u, hu⟩ := h s
  exact absurd (hu.symm.trans ht) (by simp)

theorem faultHalts_pure (a : α) : FaultHalts (pure a : M α) := faultHalts_of_ok fun s => ⟨a, s, rfl⟩

theorem faultHalts_getState : FaultHalts getState := faultHalts_of_ok fun s => ⟨s, s, rfl⟩

theorem faultHalts_update (f : State → State) : FaultHalts (update f) :=
  faultHalts_of_ok fun s => ⟨(), f s, rfl⟩

theorem faultHalts_answer (c : Status) : FaultHalts (answer c) := faultHalts_pure _

theorem faultHalts_raise (f : BlockFault) : FaultHalts (raise f : M α) := by
  intro s t h
  cases h
  rfl

theorem faultHalts_chk (t : Word) : FaultHalts (chk t) :=
  faultHalts_ite (faultHalts_pure ()) (faultHalts_raise _)

theorem faultHalts_memRead (a n : Nat) : FaultHalts (memRead a n) := by
  intro s t h
  by_cases hin : a + n ≤ s.par.bufBytes
  · rw [run_memRead_ok hin] at h
    cases h
  · rw [run_memRead_bad hin] at h
    cases h
    rfl

theorem faultHalts_memWrite (a : Nat) (bytes : List Byte) : FaultHalts (memWrite a bytes) := by
  intro s t h
  by_cases hin : a + bytes.length ≤ s.par.bufBytes
  · rw [run_memWrite_ok hin] at h
    cases h
  · rw [run_memWrite_bad hin] at h
    cases h
    rfl

theorem faultHalts_draw : FaultHalts draw := faultHalts_of_ok fun s => ⟨_, _, run_draw s⟩

theorem faultHalts_request (o : Out) : FaultHalts (request o) :=
  faultHalts_of_ok fun s => ⟨_, _, run_request s o⟩

/-- A nested command (60_exceptions.md R319). -/
theorem faultHalts_nestedBody (i : Instr) : FaultHalts (nestedBody i) := by
  have hmod : ∀ (e : Nat) (g : Dvr → Dvr), FaultHalts (modDvr e g) := fun _ _ => faultHalts_update _
  have hts : ∀ (e : Nat) (g : Ts → Ts), FaultHalts (modTs e g) := fun _ _ => faultHalts_update _
  have heng : ∀ (e : Nat) (g : Eng → Eng), FaultHalts (modEng e g) := fun _ _ => faultHalts_update _
  have hres : ∀ v, FaultHalts (writeRes0 v) ∧ FaultHalts (writeRes1 v) ∧ FaultHalts (writeRes2 v) ∧
      FaultHalts (writeRes3 v) :=
    fun v => ⟨faultHalts_update _, faultHalts_update _, faultHalts_update _, faultHalts_update _⟩
  unfold nestedBody isCipBody parseCipBody buildCipBody ctAddBody ctDeltaBody ctIndexBody csrReadBody
    dvrReleaseBody tsReleasePesBody engSetWatchdogBody
  dsimp only
  repeat first
    | with_reducible exact faultHalts_getState
    | with_reducible exact faultHalts_answer _
    | with_reducible exact faultHalts_raise _
    | with_reducible exact faultHalts_chk _
    | with_reducible exact faultHalts_memRead _ _
    | with_reducible exact faultHalts_memWrite _ _
    | with_reducible exact (hres _).1
    | with_reducible exact (hres _).2.1
    | with_reducible exact (hres _).2.2.1
    | with_reducible exact (hres _).2.2.2
    | with_reducible exact hmod _ _
    | with_reducible exact hts _ _
    | with_reducible exact heng _ _
    | with_reducible refine faultHalts_ite ?_ ?_
    | with_reducible refine faultHalts_bind ?_ fun _ => ?_
    | split

theorem faultHalts_runCommand (i : Instr) {body : M (Option Status)} (h : FaultHalts body) :
    FaultHalts (runCommand i body) := by
  intro s t ht
  unfold runCommand at ht
  split at ht
  · cases ht
  split at ht
  · exact faultHalts_raise _ s t ht
  · cases hb : body s with
    | ok c u => rw [hb] at ht; cases c <;> cases ht
    | error c u =>
      rw [hb] at ht
      cases ht
      exact h s t hb

theorem faultHalts_clientAct (a : HostAct) : FaultHalts (clientAct a) := by
  unfold clientAct
  split
  · refine faultHalts_bind (faultHalts_update _) fun _ => ?_
    split
    · exact faultHalts_runCommand _ (faultHalts_nestedBody _)
    · exact faultHalts_update _
  · exact faultHalts_update _
  · exact faultHalts_memWrite _ _
  · exact faultHalts_bind (faultHalts_memRead _ _) fun _ => faultHalts_pure _
  · exact faultHalts_pure _

theorem faultHalts_clientActs : ∀ as, FaultHalts (clientActs as)
  | [] => faultHalts_pure ()
  | a :: as => faultHalts_bind (faultHalts_clientAct a) fun _ => faultHalts_clientActs as

/-- A callback, whatever its client does. -/
theorem faultHalts_callback (o : Out) : FaultHalts (callback o) := by
  refine faultHalts_bind (faultHalts_update _) fun _ => faultHalts_bind faultHalts_draw fun d =>
    faultHalts_bind (faultHalts_clientActs _) fun _ => faultHalts_bind ?_ fun _ =>
      faultHalts_bind (faultHalts_update _) fun _ => faultHalts_pure _
  intro s t h
  cases hd : d.reset <;> rw [hd] at h <;> cases h

end

theorem Producer.faultHalts {α : Type} {m : M α} (h : Producer e steals m) : FaultHalts m := by
  induction h with
  | pure a => exact faultHalts_pure a
  | getEng => exact faultHalts_of_ok fun s => ⟨_, s, rfl⟩
  | getDvt => exact faultHalts_of_ok fun s => ⟨_, s, rfl⟩
  | getPar => exact faultHalts_of_ok fun s => ⟨_, s, rfl⟩
  | getState _ _ ih => exact faultHalts_bind faultHalts_getState ih
  | request o => exact faultHalts_request o
  | callback o => exact faultHalts_callback o
  | chk t => exact faultHalts_chk t
  | raise f => exact faultHalts_raise f
  | memRead a n => exact faultHalts_memRead a n
  | memWrite a bytes => exact faultHalts_memWrite a bytes
  | record _ => exact faultHalts_update _
  | slotHdr k w => exact faultHalts_update _
  | steal _ => exact faultHalts_update _
  | bind _ _ ihm ihk => exact faultHalts_bind ihm ihk

end Sys2Proof.Machine
end

section
/-! PROOF. A prefill whose clients touch BUF only (obligations O26 and O33). Such a client leaves the command
port alone, so that a producer runs the same whatever ARG0 to ARG2, RES0 and STATUS hold: the cycles of a prefill
are the commands DVT_CYCLE and UTX_CYCLE on its buffers (spec/42_buffer_engine.md R157). -/

namespace Sys2Proof.Machine

/-! ### Clients that touch BUF only -/

section

variable {α β : Type}

/-- The same result in a changed state. -/
def onState (f : State → State) : EStateM.Result Cut State α → EStateM.Result Cut State α
  | .ok a t => .ok a (f t)
  | .error r t => .error r (f t)

/-- From `s` the computation is not cut by a reset, leaves the block in the callback it was in and halted only
where it raises, and runs the same whatever the command port holds. -/
structure Steady (m : M α) (s : State) : Prop where
  noReset : ∀ t, m s ≠ .error .reset t
  keeps : ∀ a t, m s = .ok a t → t.halted = s.halted ∧ t.inCallback = s.inCallback
  ports : ∀ p, m (s.withPorts p) = onState (·.withPorts p) (m s)

theorem steady_of_ok {m : M α} {s t : State} {a : α} (h : m s = .ok a t)
    (hkeeps : t.halted = s.halted ∧ t.inCallback = s.inCallback)
    (hports : ∀ p, m (s.withPorts p) = .ok a (t.withPorts p)) : Steady m s where
  noReset u hu := absurd (h.symm.trans hu) (by simp)
  keeps b u hu := by
    cases h.symm.trans hu
    exact hkeeps
  ports p := by rw [h, hports]; rfl

theorem steady_of_fault {m : M α} {s t : State} (h : m s = .error .fault t)
    (hports : ∀ p, m (s.withPorts p) = .error .fault (t.withPorts p)) : Steady m s where
  noReset u hu := absurd (h.symm.trans hu) (by simp)
  keeps b u hu := absurd (h.symm.trans hu) (by simp)
  ports p := by rw [h, hports]; rfl

theorem steady_bind {m : M α} {k : α → M β} {s : State} (hm : Steady m s)
    (hk : ∀ a t, m s = .ok a t → Steady (k a) t) : Steady (m >>= k) s := by
  cases hr : m s with
  | ok a t =>
    have hrun : (m >>= k) s = k a t := by rw [run_bind, hr]
    have ht := hk a t hr
    obtain ⟨hhalt, hcall⟩ := hm.keeps a t hr
    refine ⟨fun u hu => ht.noReset u (hrun.symm.trans hu), fun b u hu => ?_, fun p => ?_⟩
    · obtain ⟨hhalt', hcall'⟩ := ht.keeps b u (hrun.symm.trans hu)
      exact ⟨hhalt'.trans hhalt, hcall'.trans hcall⟩
    · rw [hrun, run_bind, hm.ports, hr]
      exact ht.ports p
  | error c t =>
    have hrun : (m >>= k) s = .error c t := by rw [run_bind, hr]
    refine ⟨fun u hu => ?_, fun b u hu => absurd (hrun.symm.trans hu) (by simp), fun p => ?_⟩
    · cases hrun.symm.trans hu
      exact hm.noReset _ hr
    · rw [hrun, run_bind, hm.ports, hr]
      rfl

theorem steady_raise (f : BlockFault) (s : State) : Steady (raise f : M α) s :=
  steady_of_fault rfl fun _ => rfl

theorem steady_memRead (a n : Nat) (s : State) : Steady (memRead a n) s := by
  by_cases h : a + n ≤ s.par.bufBytes
  · exact steady_of_ok (run_memRead_ok h) ⟨rfl, rfl⟩ fun p => run_memRead_ok (s := s.withPorts p) h
  · exact steady_of_fault (run_memRead_bad h) fun p => run_memRead_bad (s := s.withPorts p) h

theorem steady_memWrite (a : Nat) (bytes : List Byte) (s : State) : Steady (memWrite a bytes) s := by
  by_cases h : a + bytes.length ≤ s.par.bufBytes
  · exact steady_of_ok (run_memWrite_ok h) ⟨rfl, rfl⟩ fun p => run_memWrite_ok (s := s.withPorts p) h
  · exact steady_of_fault (run_memWrite_bad h) fun p => run_memWrite_bad (s := s.withPorts p) h

end

/-- A client that touches BUF only (20_memory.md R67). -/
theorem steady_clientActs : ∀ {acts : List HostAct},
    (∀ a ∈ acts, ∃ n, a = .peek n ∨ ∃ b, a = .poke n b) → ∀ s, Steady (clientActs acts) s
  | [], _, s => steady_of_ok (a := ()) rfl ⟨rfl, rfl⟩ fun _ => rfl
  | a :: as, h, s => by
    refine steady_bind ?_ fun _ t _ => steady_clientActs (fun b hb => h b (List.mem_cons_of_mem _ hb)) t
    obtain ⟨n, rfl | ⟨b, rfl⟩⟩ := h a List.mem_cons_self
    · exact steady_bind (steady_memRead n 1 s) fun _ t _ =>
        steady_of_ok (a := ()) rfl ⟨rfl, rfl⟩ fun _ => rfl
    · exact steady_memWrite n [b] s

/-- A callback that the tape answers, and in which no reset falls. -/
theorem run_callback_tape {s : State} {o : Out} {d : Draw} {ds : List Draw} (h : s.tape = d :: ds)
    (hd : d.reset = false) :
    callback o s = match clientActs d.acts ((s.enterCallback o).takeDraw ds) with
      | .ok _ t => .ok d t.leaveCallback
      | .error r t => .error r t := by
  rw [callback, run_bind, run_update]
  dsimp only
  rw [run_bind, run_draw_tape (s := s.enterCallback o) h]
  dsimp only
  rw [run_bind]
  cases clientActs d.acts ((s.enterCallback o).takeDraw ds) with
  | ok a t => simp [hd]
  | error r t => rfl

/-- A callback beyond the tape takes a free value. -/
theorem reach_callback_free {s : State} {o : Out} (h : s.tape = []) :
    s.reach < (finalState (callback o s)).reach := by
  have hstart : ((s.enterCallback o).takeDraw []).reach = s.reach + 1 := by
    simp [State.reach, h]
  rw [callback, run_bind, run_update]
  dsimp only
  rw [run_bind, run_draw_free (s := s.enterCallback o) h]
  dsimp only
  rw [← Nat.succ_le_iff, Nat.succ_eq_add_one, ← hstart]
  refine (Course.toTapeLaw (e := 0) (steals := false) ?_).reach_le
  refine leads_bind course_travels (leads_clientActs course_calls.toClientStable _) (fun _ =>
    leads_bind course_travels (fun t => ?_) fun _ => leads_bind course_travels
      (leads_update course_calls.leaveCallback) fun _ => leads_pure course_travels _) _
  cases (Config.draw (s.enterCallback o).drawn).reset <;> exact course_refl t

theorem steady_callback {s : State} {o : Out} {d : Draw} {ds : List Draw} (h : s.tape = d :: ds)
    (hd : d.portOnly) : Steady (callback o) s := by
  obtain ⟨hacts, hreset⟩ := hd
  have hclient := steady_clientActs hacts ((s.enterCallback o).takeDraw ds)
  have hrun := run_callback_tape (o := o) h hreset
  have hports : ∀ p, callback o (s.withPorts p) = onState (·.withPorts p) (callback o s) := fun p => by
    rw [run_callback_tape (s := s.withPorts p) h hreset, hrun]
    have hp := hclient.ports p
    cases hr : clientActs d.acts ((s.enterCallback o).takeDraw ds) with
    | ok a t =>
      rw [hr] at hp
      rw [show clientActs d.acts (((s.withPorts p).enterCallback o).takeDraw ds) = _ from hp]
      rfl
    | error c t =>
      rw [hr] at hp
      rw [show clientActs d.acts (((s.withPorts p).enterCallback o).takeDraw ds) = _ from hp]
      rfl
  cases hr : clientActs d.acts ((s.enterCallback o).takeDraw ds) with
  | ok a t =>
    rw [hr] at hrun
    obtain ⟨hhalt, hcall⟩ := hclient.keeps a t hr
    refine ⟨fun u hu => absurd (hrun.symm.trans hu) (by simp), fun b u hu => ?_, hports⟩
    cases hrun.symm.trans hu
    exact ⟨hhalt, by simp [hcall]⟩
  | error c t =>
    rw [hr] at hrun
    refine ⟨fun u hu => ?_, fun b u hu => absurd (hrun.symm.trans hu) (by simp), hports⟩
    cases hrun.symm.trans hu
    exact hclient.noReset t hr

/-! ### Producers whose clients touch BUF only -/

variable {e : Nat} {steals : Bool}

/-- Where every answer comes from the tape, a producer runs the same whatever the command port holds. -/
theorem Producer.steady {α : Type} {m : M α} (h : Producer e steals m) :
    ∀ {s : State}, (∀ d ∈ s.tape, d.portOnly) → (finalState (m s)).reach ≤ s.reach → Steady m s := by
  induction h with
  | pure a => exact fun _ _ => steady_of_ok (a := a) rfl ⟨rfl, rfl⟩ fun _ => rfl
  | getEng => exact fun _ _ => steady_of_ok (run_getEng _ e) ⟨rfl, rfl⟩ fun _ => rfl
  | getDvt => exact fun _ _ => steady_of_ok (run_getDvt _ e) ⟨rfl, rfl⟩ fun _ => rfl
  | getPar => exact fun _ _ => steady_of_ok (run_getPar _) ⟨rfl, rfl⟩ fun _ => rfl
  | getState _ hports ih =>
    intro s hs hreach
    have hk := ih s hs hreach
    refine ⟨hk.noReset, hk.keeps, fun p => ?_⟩
    rw [run_bind, run_getState, run_bind, run_getState]
    dsimp only
    rw [hports]
    exact hk.ports p
  | request o => exact fun _ _ => steady_of_ok (run_request _ o) ⟨rfl, rfl⟩ fun p => run_request _ o
  | callback o =>
    intro s hs hreach
    cases ht : s.tape with
    | nil => exact absurd hreach (Nat.not_le.mpr (reach_callback_free ht))
    | cons d ds => exact steady_callback ht (hs d (by simp [ht]))
  | chk t =>
    intro s _ _
    by_cases hc : ctLegal t
    · exact steady_of_ok (run_chk_ok hc) ⟨rfl, rfl⟩ fun _ => run_chk_ok hc
    · exact steady_of_fault (run_chk_bad hc) fun _ => run_chk_bad hc
  | raise f => exact fun _ _ => steady_raise f _
  | memRead a n => exact fun _ _ => steady_memRead a n _
  | memWrite a bytes => exact fun _ _ => steady_memWrite a bytes _
  | record _ => exact fun _ _ => steady_of_ok (run_modDvt _ e _) ⟨rfl, rfl⟩ fun _ => rfl
  | slotHdr k w => exact fun _ _ => steady_of_ok (run_modEng _ e _) ⟨rfl, rfl⟩ fun _ => rfl
  | steal _ => exact fun _ _ => steady_of_ok (run_modEng _ e _) ⟨rfl, rfl⟩ fun _ => rfl
  | @bind _ _ m k hm hk ihm ihk =>
    intro s hs hreach
    have hcourse := hm.course s
    cases hr : m s with
    | ok a t =>
      rw [hr] at hcourse
      rw [run_bind, hr] at hreach
      have hrest : t.reach ≤ (finalState (k a t)).reach := ((hk a).course t).reach_le
      refine steady_bind (ihm hs (by rw [hr]; exact hrest.trans hreach)) fun b u hu => ?_
      cases hr.symm.trans hu
      exact ihk a (fun d hd => hs d (hcourse.suffix.subset hd)) (hreach.trans hcourse.reach_le)
    | error c t =>
      rw [run_bind, hr] at hreach
      exact steady_bind (ihm hs (by rw [hr]; exact hreach)) fun b u hu => absurd (hr.symm.trans hu) (by simp)

/-! ### The producer commands, one after another -/

/-- `i` is the command that runs `produce` on the buffer ARG0 of the engine `e`. -/
structure ProducerCommand (e : Nat) (i : Instr) (produce : Nat → M (Status × Nat)) : Prop where
  exec_eq : ∀ s, exec i s = asCommand i (producerBody produce) s
  names : namedInstance i = some e
  producer : ∀ k, Producer e true (produce k)

theorem dvtCycle_command (e : Nat) : ProducerCommand e (.dvtCycle e) (dvtCycle e) :=
  ⟨fun _ => rfl, rfl, Producer.dvtCycle⟩

theorem utxCycle_command (e : Nat) : ProducerCommand e (.utxCycle e) (utxCycle e) :=
  ⟨fun _ => rfl, rfl, Producer.utxCycle⟩

/-- `n` commands on the buffers from `k` on, where another command's pseudocode calls theirs. -/
def State.cycled (s : State) (i : Instr) (k n : Nat) : State :=
  (List.range n).foldl (fun t j => t.within i (BitVec.ofNat 32 (k + j)) t.arg1 t.arg2) s

theorem State.cycled_succ (s : State) (i : Instr) (k n : Nat) :
    s.cycled i k (n + 1) = (s.within i (BitVec.ofNat 32 k) s.arg1 s.arg2).cycled i (k + 1) n := by
  simp only [State.cycled, List.range_succ_eq_map, List.foldl_cons, List.foldl_map, Nat.add_zero,
    Nat.succ_eq_add_one, Nat.add_right_comm k 1, Nat.add_assoc]

section

variable {i : Instr} {produce : Nat → M (Status × Nat)}

/-- A command's end leaves the tape and the count of answers as its pseudocode does. -/
theorem reach_endCommand_producerBody (s : State) :
    (endCommand (producerBody produce s)).reach = (finalState (produce s.arg0.toNat s)).reach := by
  rw [producerBody, run_bind, run_getState]
  dsimp only
  rw [run_bind]
  cases produce s.arg0.toNat s with
  | ok a t =>
    dsimp only
    rw [run_ite]
    split <;> rfl
  | error c t => cases c <;> rfl

/-- But for its registers, a command that no reset cuts short ends as its pseudocode does. -/
theorem ports_endCommand_producerBody {s : State} (p : Ports)
    (h : ∀ t, produce s.arg0.toNat s ≠ .error .reset t) :
    (endCommand (producerBody produce s)).withPorts p =
      (finalState (produce s.arg0.toNat s)).withPorts p := by
  rw [producerBody, run_bind, run_getState]
  dsimp only
  rw [run_bind]
  cases hr : produce s.arg0.toNat s with
  | ok a t =>
    dsimp only
    rw [run_ite]
    split <;> rfl
  | error c t =>
    cases c with
    | fault => rfl
    | reset => exact absurd hr (h t)

theorem within_eq_of_exec {s : State} {a0 a1 a2 : Word} {t : State}
    (h : exec i { s with arg0 := a0, arg1 := a1, arg2 := a2 } = .next t) :
    s.within i a0 a1 a2 = t.withPorts s.ports := by
  rw [State.within, h]
  rfl

namespace ProducerCommand

variable (h : ProducerCommand e i produce)

include h

theorem within_idle {s : State} (hs : s.idle) (he : e < s.inst.length) (a0 a1 a2 : Word) :
    s.within i a0 a1 a2 = (endCommand (producerBody produce
      (s.withPorts ⟨a0, a1, a2, s.res0, s.status⟩))).withPorts s.ports :=
  within_eq_of_exec ((h.exec_eq _).trans (asCommand_run_instance h.names hs.1 he (.inl hs.2)))

theorem within_halted {s : State} (hs : s.halted = true) (a0 a1 a2 : Word) :
    s.within i a0 a1 a2 = s :=
  within_eq_of_exec (t := { s with arg0 := a0, arg1 := a1, arg2 := a2 })
    ((h.exec_eq _).trans (asCommand_halted hs))

/-- One cycle of a prefill is the pseudocode of the command, where every answer comes from the tape. -/
theorem within_eq_finalState {s : State} {k : Nat} (hs : s.idle) (he : e < s.inst.length)
    (hk : k < 2 ^ 32) (hport : ∀ d ∈ s.tape, d.portOnly)
    (hreach : (s.within i (BitVec.ofNat 32 k) s.arg1 s.arg2).reach ≤ s.reach) :
    s.within i (BitVec.ofNat 32 k) s.arg1 s.arg2 = finalState (produce k s) ∧ Steady (produce k) s := by
  rw [h.within_idle hs he] at hreach ⊢
  generalize hp : (⟨BitVec.ofNat 32 k, s.arg1, s.arg2, s.res0, s.status⟩ : Ports) = p at hreach ⊢
  have harg : (s.withPorts p).arg0.toNat = k := by
    rw [← hp]
    exact (BitVec.toNat_ofNat _ _).trans (Nat.mod_eq_of_lt hk)
  have hreach' : (finalState (produce k (s.withPorts p))).reach ≤ s.reach := by
    rw [← harg, ← reach_endCommand_producerBody]
    exact hreach
  have hsteady := (h.producer k).steady (s := s.withPorts p) hport hreach'
  have hrun : produce k s = onState (·.withPorts s.ports) (produce k (s.withPorts p)) :=
    hsteady.ports s.ports
  have hfinal : finalState (produce k s) = (finalState (produce k (s.withPorts p))).withPorts s.ports := by
    rw [hrun]
    cases produce k (s.withPorts p) <;> rfl
  refine ⟨?_, (h.producer k).steady hport ?_⟩
  · rw [ports_endCommand_producerBody _ (by rw [harg]; exact hsteady.noReset), harg, hfinal]
  · rw [hfinal]
    exact hreach'

theorem exec_tapeLaw {s t : State} (ht : exec i s = .next t) : TapeLaw s t := by
  have hT : Travels TapeLaw := ⟨TapeLaw.refl, TapeLaw.trans⟩
  have hbody : Leads TapeLaw (producerBody produce) :=
    leads_producerBody hT (fun _ _ => tapeLaw_of_same rfl rfl) fun k s =>
      ((h.producer k).course s).toTapeLaw
  rw [h.exec_eq, asCommand] at ht
  cases ht
  split
  · exact TapeLaw.refl s
  · exact leads_stepEnd hT (fun _ => tapeLaw_of_same rfl rfl)
      (leads_runCommand hT (fun _ _ => tapeLaw_of_same rfl rfl) (fun _ _ => tapeLaw_of_same rfl rfl) i
        (hbody s))

theorem within_tapeLaw (s : State) (a0 a1 a2 : Word) : TapeLaw s (s.within i a0 a1 a2) := by
  obtain ⟨t, ht⟩ : ∃ t, exec i { s with arg0 := a0, arg1 := a1, arg2 := a2 } = .next t :=
    ⟨_, h.exec_eq _⟩
  obtain ⟨hsuffix, hle, heq⟩ := h.exec_tapeLaw ht
  rw [within_eq_of_exec ht]
  exact ⟨hsuffix, hle, heq⟩

theorem cycled_tapeLaw (n : Nat) : ∀ (s : State) (k : Nat), TapeLaw s (s.cycled i k n) := by
  induction n with
  | zero => exact fun s _ => TapeLaw.refl s
  | succ n ih =>
    intro s k
    rw [State.cycled_succ]
    exact (h.within_tapeLaw s _ _ _).trans (ih _ _)

theorem cycled_halted {s : State} (hs : s.halted = true) (n k : Nat) : s.cycled i k n = s := by
  induction n generalizing k with
  | zero => rfl
  | succ n ih => rw [State.cycled_succ, h.within_halted hs, ih]

/-- The cycles of a prefill, one command each: they end where a raise halts the block. -/
theorem run_produceFrom {n k : Nat} {s : State} (hs : s.idle) (he : e < s.inst.length)
    (hk : k + n ≤ 2 ^ 32) (hport : ∀ d ∈ s.tape, d.portOnly)
    (hreach : (s.cycled i k n).reach ≤ s.reach) :
    produceFrom produce n k s = if (s.cycled i k n).halted then .error .fault (s.cycled i k n)
      else .ok () (s.cycled i k n) := by
  induction n generalizing s k with
  | zero => rw [State.cycled, List.range_zero, List.foldl_nil, hs.1]; rfl
  | succ n ih =>
    rw [State.cycled_succ] at hreach ⊢
    obtain ⟨hwithin, hsteady⟩ := h.within_eq_finalState hs he (by omega) hport
      ((h.cycled_tapeLaw n _ _).reach_le.trans hreach)
    have hcourse := (h.producer k).course s
    rw [hwithin] at hreach ⊢
    rw [produceFrom, run_bind]
    cases hr : produce k s with
    | ok a t =>
      rw [hr] at hcourse hreach
      obtain ⟨hhalt, hcall⟩ := hsteady.keeps a t hr
      exact ih ⟨hhalt.trans hs.1, hcall.trans hs.2⟩ (hcourse.instances ▸ he) (by omega)
        (fun d hd => hport d (hcourse.suffix.subset hd)) (hreach.trans hcourse.reach_le)
    | error c t =>
      cases c with
      | reset => exact absurd hr (hsteady.noReset t)
      | fault =>
        have hhalt : t.halted = true := (h.producer k).faultHalts s t hr
        simp only [finalState_error, h.cycled_halted hhalt, hhalt, if_true]

end ProducerCommand

end

end Sys2Proof.Machine
end

section
/-! PROOF. ENG_START and the recovery after an overrun or a forced stop (obligations O24, O26 and O33). Both end
with a prefill and the start of the Port Engine; what a prefill does is said once, for any client and, in full,
for clients that touch BUF only. -/

namespace Sys2Proof.Machine

variable {e : Nat}

/-! ### The prefill (42_buffer_engine.md R157) -/

theorem run_prefill_receive {s : State} (hk : (s.eng e).kind = .dvrx ∨ (s.eng e).kind = .urx) :
    prefill e s = .ok () s := by
  rw [prefill, run_bind, run_getEng]
  rcases hk with hk | hk <;> simp only [hk, run_pure]

theorem run_drainSlots_none {s : State} (hk : (s.eng e).kind ≠ .dvtx) : drainSlots e s = .ok () s := by
  rw [drainSlots, run_bind, run_getEng]
  cases h : (s.eng e).kind with
  | dvtx => exact absurd h hk
  | utx => simp only [h, run_pure]
  | dvrx => simp only [h, run_pure]
  | urx => simp only [h, run_pure]

theorem run_prefill_utx {s : State} (hk : (s.eng e).kind = .utx) :
    prefill e s = (produceFrom (utxCycle e) (s.eng e).cycles 0 >>= fun _ =>
      modEng e (·.setSlotHdr (s.eng e).cycles 0)) s := by
  rw [prefill, run_bind, run_getEng]
  simp only [hk]
  rfl

/-- The transmit clock has been loaded (44_dv_transmit.md R249). -/
def State.clockLoaded (s : State) (e : Nat) : State :=
  (s.told [.cycleTime e] s.tape.tail).modDvt e (fun x => { x with txClock := s.nextDraw.word })

/-- The packet of the overrun buffer `k` of a DVTX engine. -/
def fillOverrun (e k : Nat) : M Unit := getState >>= fun s =>
  match s.par.dvRow (s.dvt e).dvMode with
  | some row => writeCipOnly e k row
  | none => pure ()

theorem run_prefill_dvtx {s : State} (hk : (s.eng e).kind = .dvtx) :
    prefill e s = (produceFrom (dvtCycle e) (s.eng e).cycles 0 >>= fun _ =>
      fillOverrun e (s.eng e).cycles) (s.clockLoaded e) := by
  rw [prefill, run_bind, run_getEng]
  simp only [hk]
  rw [run_bind, peCycleTime, run_bind, run_request]
  rfl

theorem Producer.fillOverrun {steals : Bool} (k : Nat) : Producer e steals (fillOverrun e k) := by
  refine .getState (fun s => ?_) fun _ _ => rfl
  cases s.par.dvRow (s.dvt e).dvMode with
  | some row => exact .writeHeader _ _ _ _
  | none => exact .pure ()

/-- One request takes one answer. -/
theorem tapeLaw_asked (s : State) (o : Out) : TapeLaw s (s.told [o] s.tape.tail) := by
  obtain ⟨hsuffix, hle, heq⟩ := tapeLaw_takeDraw (s := s) rfl
  exact ⟨hsuffix, hle, heq⟩

theorem clockLoaded_course {steals : Bool} (s : State) : Course e steals s (s.clockLoaded e) :=
  Course.trans (course_of_same (t := s.told [.cycleTime e] s.tape.tail) rfl rfl rfl
    (tapeLaw_asked s _)) (course_modDvt fun _ => rfl)

/-- DVT_CYCLEs that have no cycle to steal, one after another. -/
theorem produceFrom_dvtCycle_course (n k : Nat) {s : State} (h : (s.eng e).stealCount = 0) :
    Course e false s (finalState (produceFrom (dvtCycle e) n k s)) := by
  induction n generalizing k s with
  | zero => exact course_refl s
  | succ n ih =>
    have hcycle := dvtCycle_course h k
    refine leads_bind_at course_travels hcycle fun a u hu => ih (k + 1) ?_
    rw [hu] at hcycle
    exact (hcycle.eng.stealCount rfl).trans h

/-- A prefill that has no cycle to steal keeps its engine's course, whatever the clients do. -/
theorem prefill_course {s : State} (h : (s.eng e).stealCount = 0) :
    Course e false s (finalState (prefill e s)) := by
  cases hk : (s.eng e).kind with
  | dvrx => rw [run_prefill_receive (.inl hk)]; exact course_refl s
  | urx => rw [run_prefill_receive (.inr hk)]; exact course_refl s
  | utx =>
    rw [run_prefill_utx hk]
    exact (Producer.bind (.produceFrom .utxCycle _ _) fun _ => .slotHdr _ _).course s
  | dvtx =>
    have hclock := clockLoaded_course (e := e) (steals := false) s
    rw [run_prefill_dvtx hk]
    exact hclock.trans (leads_bind_at course_travels
      (produceFrom_dvtCycle_course _ _ ((hclock.eng.stealCount rfl).trans h))
      fun _ t _ => (Producer.fillOverrun _).course t)

theorem prefill_faultHalts (e : Nat) : FaultHalts (prefill e) := by
  intro s t ht
  cases hk : (s.eng e).kind with
  | dvrx => rw [run_prefill_receive (.inl hk)] at ht; cases ht
  | urx => rw [run_prefill_receive (.inr hk)] at ht; cases ht
  | utx =>
    rw [run_prefill_utx hk] at ht
    exact (Producer.bind (steals := true) (.produceFrom .utxCycle _ _) fun _ =>
      .slotHdr _ _).faultHalts _ t ht
  | dvtx =>
    rw [run_prefill_dvtx hk] at ht
    exact (Producer.bind (.produceFrom .dvtCycle _ _) fun _ => .fillOverrun _).faultHalts _ t ht

/-! ### A prefill whose clients touch BUF only -/

section

variable {s : State} {row : DvFormat}

theorem refilled_dvtx (hk : (s.eng e).kind = .dvtx) :
    s.refilled e = s.cycled (.dvtCycle e) 0 (s.eng e).cycles := by
  simp only [State.refilled, State.produced, hk, if_true]
  rfl

theorem refilled_utx (hk : (s.eng e).kind = .utx) :
    s.refilled e = s.cycled (.utxCycle e) 0 (s.eng e).cycles := by
  simp only [State.refilled, State.produced, hk, reduceCtorEq, if_false]
  rfl

/-- A ring has fewer cycle buffers than a command's operand has values (10_state.md R26). -/
theorem Eng.cycles_lt (g : Eng) : 0 + g.cycles ≤ 2 ^ 32 := by
  rw [Nat.zero_add, show 2 ^ 32 = 2 ^ 16 * 2 ^ 16 by decide]
  exact Nat.mul_le_mul g.segments.isLt.le g.cyclesPerSeg.isLt.le

/-- The cycles of a transmit engine's prefill, one producer command each. -/
structure State.Refills (s : State) (e : Nat) : Prop where
  idle : s.idle
  instance_lt : e < s.inst.length
  portOnly : ∀ d ∈ s.tape, d.portOnly
  reach : (s.refilled e).reach ≤ s.reach

theorem State.Refills.run_dvtx (h : s.Refills e) (hk : (s.eng e).kind = .dvtx) :
    produceFrom (dvtCycle e) (s.eng e).cycles 0 s =
      if (s.refilled e).halted then .error .fault (s.refilled e) else .ok () (s.refilled e) := by
  have hreach := h.reach
  rw [refilled_dvtx hk] at hreach ⊢
  exact (dvtCycle_command e).run_produceFrom h.idle h.instance_lt (Eng.cycles_lt _) h.portOnly hreach

theorem State.Refills.run_utx (h : s.Refills e) (hk : (s.eng e).kind = .utx) :
    produceFrom (utxCycle e) (s.eng e).cycles 0 s =
      if (s.refilled e).halted then .error .fault (s.refilled e) else .ok () (s.refilled e) := by
  have hreach := h.reach
  rw [refilled_utx hk] at hreach ⊢
  exact (utxCycle_command e).run_produceFrom h.idle h.instance_lt (Eng.cycles_lt _) h.portOnly hreach

theorem refilled_tapeLaw (hk : (s.eng e).kind = .dvtx ∨ (s.eng e).kind = .utx) :
    TapeLaw s (s.refilled e) := by
  rcases hk with hk | hk
  · rw [refilled_dvtx hk]
    exact (dvtCycle_command e).cycled_tapeLaw _ _ _
  · rw [refilled_utx hk]
    exact (utxCycle_command e).cycled_tapeLaw _ _ _

/-- The cycles of a prefill keep the engine's course. -/
theorem State.Refills.course (h : s.Refills e) (hk : (s.eng e).kind = .dvtx ∨ (s.eng e).kind = .utx) :
    Course e true s (s.refilled e) := by
  rcases hk with hk | hk
  · have hcourse := (Producer.produceFrom (Producer.dvtCycle (e := e)) (s.eng e).cycles 0).course s
    rw [h.run_dvtx hk] at hcourse
    split at hcourse <;> exact hcourse
  · have hcourse := (Producer.produceFrom (Producer.utxCycle (e := e) (steals := true)) (s.eng e).cycles 0).course s
    rw [h.run_utx hk] at hcourse
    split at hcourse <;> exact hcourse

/-- The CIP header without data of a DVTX engine's overrun buffer (44_dv_transmit.md R245). -/
theorem run_fillOverrun (hk : (s.eng e).kind = .dvtx) (hrow : s.par.dvRow (s.dvt e).dvMode = some row)
    (hb : (s.eng e).bufBase.toNat + (s.eng e).cycles * (s.eng e).cycleBufSize.toNat + 8 ≤ s.par.bufBytes) :
    fillOverrun e (s.eng e).cycles s = .ok () (s.withOverrunPacket e row) := by
  rw [fillOverrun, run_bind, run_getState]
  simp only [hrow]
  rw [writeCipOnly, run_writeHeader_ok hb, State.withOverrunPacket, if_pos hk, Nat.zero_mul]
  rfl

/-- How a prefill goes on from `begun`, the state in which its cycles begin: through all of them and the
overrun buffer, or to the first raise. -/
abbrev PrefillFrom (s : State) (e : Nat) (row : DvFormat) (begun : State) : Prop :=
  prefill e s = if (begun.refilled e).halted then .error .fault (begun.refilled e)
    else .ok () ((begun.refilled e).withOverrunPacket e row)

theorem prefillFrom_dvtx (hk : (s.eng e).kind = .dvtx)
    (hrow : s.par.dvRow (s.dvt e).dvMode = some row)
    (hb : (s.eng e).bufBase.toNat + (s.eng e).cycles * (s.eng e).cycleBufSize.toNat + 8 ≤ s.par.bufBytes)
    (h : (s.clockLoaded e).Refills e) : PrefillFrom s e row (s.clockLoaded e) := by
  have hclock := clockLoaded_course (e := e) (steals := true) s
  have hkind : ((s.clockLoaded e).eng e).kind = .dvtx := hclock.eng.kind.trans hk
  have hcourse := hclock.trans (h.course (.inl hkind))
  have hcycles : ((s.clockLoaded e).eng e).cycles = (s.eng e).cycles := by
    simp only [Eng.cycles, hclock.eng.segments, hclock.eng.cyclesPerSeg]
  have hfull : (((s.clockLoaded e).refilled e).eng e).cycles = (s.eng e).cycles := by
    simp only [Eng.cycles, hcourse.eng.segments, hcourse.eng.cyclesPerSeg]
  have hrun := h.run_dvtx hkind
  rw [hcycles] at hrun
  rw [PrefillFrom, run_prefill_dvtx hk, run_bind, hrun]
  by_cases hhalt : ((s.clockLoaded e).refilled e).halted = true
  · rw [if_pos hhalt, if_pos hhalt]
  · rw [if_neg hhalt, if_neg hhalt, ← hfull]
    refine run_fillOverrun (hcourse.eng.kind.trans hk) ?_ ?_
    · rw [hcourse.par, hcourse.dvMode, hrow]
    · rw [hfull, hcourse.eng.bufBase, hcourse.eng.cycleBufSize, hcourse.par]
      exact hb

theorem prefillFrom_utx (hk : (s.eng e).kind = .utx) (h : s.Refills e) : PrefillFrom s e row s := by
  have hcourse := h.course (.inr hk)
  have hcycles : ((s.refilled e).eng e).cycles = (s.eng e).cycles := by
    simp only [Eng.cycles, hcourse.eng.segments, hcourse.eng.cyclesPerSeg]
  rw [PrefillFrom, run_prefill_utx hk, run_bind, h.run_utx hk]
  by_cases hhalt : (s.refilled e).halted = true
  · rw [if_pos hhalt, if_pos hhalt]
  · rw [if_neg hhalt, if_neg hhalt]
    have hkind : ((s.refilled e).eng e).kind ≠ .dvtx := by
      rw [hcourse.eng.kind, hk]
      decide
    rw [State.withOverrunPacket, if_neg hkind, hcycles]
    rfl

end

end Sys2Proof.Machine
end

section
/-! PROOF. ENG_START (obligations O24 and O26). Behind its checks it is a prefill and the start of the Port Engine
(42_buffer_engine.md R155), whatever the kind of the engine. -/

namespace Sys2Proof.Machine

variable {e : Nat}

/-! ### The start of the Port Engine (42_buffer_engine.md R155, R172) -/

theorem run_startClock_ok {s : State} {ct : Word} (he : e < s.inst.length) (h : ctLegal ct) :
    startClock e ct s = .ok () (s.modEng e (fun g =>
      { g with startCT := ct, expectedTs := ctSum ct (ctCycles g.cyclesPerSeg.toNat) })) := by
  rw [startClock, run_bind, run_modEng]
  dsimp only
  rw [run_bind, run_getEng, eng_modEng_same _ _ he]
  dsimp only
  rw [run_bind, run_addCycles_ok h]
  dsimp only
  rw [run_modEng, modEng_modEng]
  exact congrArg _ (modEng_congr rfl)

theorem run_startClock_bad {s : State} {ct : Word} (h : ¬ ctLegal ct) :
    startClock e ct s =
      .error .fault ((s.modEng e (fun g => { g with startCT := ct })).takeFault (.ctRange ct)) := by
  rw [startClock, run_bind, run_modEng]
  dsimp only
  rw [run_bind, run_getEng]
  dsimp only
  rw [run_bind, run_addCycles_bad h]

/-- The Port Engine is asked to start: it refuses, or starts and the clock with it. -/
def startPort {α : Type} (e : Nat) (refused started : M α) : M α := peStart e >>= fun r =>
  match r with
  | none => refused
  | some ct => startClock e ct >>= fun _ => started

/-- The Port Engine has been asked to start, and `rest` is left of the tape. -/
def State.portAsked (s : State) (e : Nat) (rest : List Draw) : State :=
  s.told [.peStart e (s.eng e).channel] rest

/-- The Port Engine has started at the cycle time `ct` (20_memory.md R71). -/
def Eng.startedAt (g : Eng) (ct : Word) : Eng := { g with peRunning := true, peSeg := 0, startCT := ct }

/-- The first segment is expected one segment after it (42_buffer_engine.md R155). -/
def Eng.clockedAt (g : Eng) (ct : Word) : Eng :=
  { g.startedAt ct with expectedTs := ctSum ct (ctCycles g.cyclesPerSeg.toNat) }

/-- The environment's next answer is `d`, and `rest` is left of the tape then. -/
structure State.NextIs (s : State) (d : Draw) (rest : List Draw) : Prop where
  draw : s.nextDraw = d
  tail : s.tape.tail = rest

theorem State.nextIs_of_tape {s : State} {d : Draw} {rest : List Draw} (h : s.tape = d :: rest) :
    s.NextIs d rest := ⟨s.nextDraw_of_tape h, by rw [h]; rfl⟩

section

variable {α : Type} {refused started : M α} {s : State} {d : Draw} {rest : List Draw}

theorem run_peStart (hd : s.NextIs d rest) : peStart e s =
    if d.status = 0 then .ok (some d.word) ((s.portAsked e rest).modEng e
      (fun g => { g with peRunning := true, peSeg := 0 }))
    else .ok none (s.portAsked e rest) := by
  obtain ⟨rfl, rfl⟩ := hd
  by_cases hd : s.nextDraw.status = 0
  · rw [if_pos hd]
    simp [peStart, run_request, drawAgrees, hd]
    rfl
  · have hno : drawAgrees s.nextDraw = false := by simpa [drawAgrees] using hd
    rw [if_neg hd]
    simp [peStart, run_request, hno]
    rfl

theorem run_startPort_ok (he : e < s.inst.length) (ht : s.NextIs d rest) (hd : d.status = 0)
    (hct : ctLegal d.word) :
    startPort e refused started s = started ((s.portAsked e rest).modEng e (·.clockedAt d.word)) := by
  rw [startPort, run_bind, run_peStart ht, if_pos hd]
  dsimp only
  rw [run_bind, run_startClock_ok (by rw [State.modEng_inst, List.length_set]; exact he) hct]
  dsimp only
  rw [modEng_modEng]
  rfl

theorem run_startPort_bad (ht : s.NextIs d rest) (hd : d.status = 0) (hct : ¬ ctLegal d.word) :
    startPort e refused started s = .error .fault
      (((s.portAsked e rest).modEng e (·.startedAt d.word)).takeFault (.ctRange d.word)) := by
  rw [startPort, run_bind, run_peStart ht, if_pos hd]
  dsimp only
  rw [run_bind, run_startClock_bad hct]
  dsimp only
  rw [modEng_modEng]
  rfl

theorem run_startPort_refused (ht : s.NextIs d rest) (hd : d.status ≠ 0) :
    startPort e refused started s = refused (s.portAsked e rest) := by
  rw [startPort, run_bind, run_peStart ht, if_neg hd]

end

/-! ### ENG_START (42_buffer_engine.md R155) -/

/-- An ENG_START of a set-up, stopped engine in order, which passes the checks of its kind. -/
structure State.Starts (s : State) (e : Nat) : Prop where
  idle : s.idle
  instance_lt : e < s.inst.length
  setupDone : (s.eng e).setupDone = true
  fatal : (s.eng e).fatal = false
  running : (s.eng e).running = false
  checks : startChecks s.par (s.instAt e) = true

theorem run_peLocalNodeId (s : State) (e : Nat) : peLocalNodeId e s =
    .ok (s.nextDraw.word.setWidth 6) (s.told [.localNodeId e] s.tape.tail) := by
  rw [peLocalNodeId, run_bind, run_request]
  rfl

/-- The ring is armed and the node id read. -/
def State.nodeRead (s : State) (e : Nat) : State :=
  (s.told [.localNodeId e] s.tape.tail).modEng e (fun g =>
    { g.armRing with localSid := s.nextDraw.word.setWidth 6 })

/-- What ENG_START does after the prefill. -/
def startEngine (e : Nat) : M (Option Status) :=
  startPort e (drainSlots e >>= fun _ => answer .error)
    (modEng e Eng.enterRun >>= fun _ => answer .success)

theorem State.Starts.exec_eq {s : State} (h : s.Starts e) :
    exec (.engStart e) s =
      .next (endCommand ((prefill e >>= fun _ => startEngine e) (s.nodeRead e))) := by
  have hrun : exec (.engStart e) s = .next (endCommand (engStartBody e s)) :=
    asCommand_run_instance rfl h.idle.1 h.instance_lt (.inl h.idle.2)
  have hfirst : ¬ ((s.eng e).setupDone = false ∨ (s.eng e).fatal = true) := by
    simp [h.setupDone, h.fatal]
  rw [hrun, engStartBody, run_bind, run_getState]
  dsimp only
  rw [run_ite, if_neg hfirst, run_ite, if_neg (by simp [h.running]), run_ite,
    if_neg (by simp [h.checks]), run_bind, run_modEng]
  dsimp only
  rw [run_bind, run_peLocalNodeId]
  dsimp only
  rw [run_bind, run_modEng]
  dsimp only
  have hread : (((s.modEng e Eng.armRing).told [.localNodeId e] (s.modEng e Eng.armRing).tape.tail).modEng
      e fun g => { g with localSid := (s.modEng e Eng.armRing).nextDraw.word.setWidth 6 }) =
        s.nodeRead e := by
    simp only [modEng_told, modEng_modEng]
    rfl
  rw [hread, run_bind, run_bind]
  cases prefill e (s.nodeRead e) with
  | error r t => rfl
  | ok a t => rfl

section

variable {s : State} {d : Draw} {rest : List Draw}

theorem run_startEngine_ok (he : e < s.inst.length) (ht : s.NextIs d rest) (hd : d.status = 0)
    (hct : ctLegal d.word) :
    startEngine e s = .ok (some .success)
      ((s.portAsked e rest).modEng e (fun g => (g.clockedAt d.word).enterRun)) := by
  rw [startEngine, run_startPort_ok he ht hd hct, run_bind, run_modEng, modEng_modEng]
  rfl

/-- A refused ENG_START of an engine that has nothing to drain. -/
theorem run_startEngine_refused (ht : s.NextIs d rest) (hd : d.status ≠ 0)
    (hk : (s.eng e).kind ≠ .dvtx) : startEngine e s = .ok (some .error) (s.portAsked e rest) := by
  rw [startEngine, run_startPort_refused ht hd, run_bind, run_drainSlots_none (by simpa [State.portAsked])]
  rfl

/-- A refused ENG_START of a DVTX engine drains what the prefill has produced (R157; log 26). -/
theorem run_startEngine_drained {ds rest' : List Draw} (he : e < s.inst.length) (ht : s.NextIs d rest)
    (hd : d.status ≠ 0) (hk : (s.eng e).kind = .dvtx)
    (h : (s.portAsked e rest).answers ds rest' ((s.dvt e).drained ((s.eng e).cycles + 1)).2.length) :
    startEngine e s = .ok (some .error)
      (((s.portAsked e rest).told (((s.dvt e).drained ((s.eng e).cycles + 1)).2.map
        (.frameRelease e)) rest').modDvt e (fun _ => ((s.dvt e).drained ((s.eng e).cycles + 1)).1)) := by
  rw [startEngine, run_startPort_refused ht hd, run_bind,
    run_drainSlots_dvtx (s := s.portAsked e rest) he hk h]
  rfl

end

/-- Settles O24: a receive engine has nothing to prefill or to drain. -/
theorem startReceiveResult : Obligations.StartReceiveResult := by
  intro s e d1 d2 rest hidle he ht hset hfatal hrun hkind S asked armed
  have hreceive : (s.eng e).kind = .dvrx ∨ (s.eng e).kind = .urx :=
    hkind.elim .inr fun h => .inl h.1
  have hchecks : startChecks s.par (s.instAt e) = true := by
    show (match (s.eng e).kind with | .dvrx => _ | .dvtx => _ | .urx => _ | .utx => _) = true
    rcases hkind with hk | ⟨hk, hrow⟩
    · rw [hk]
    · rw [hk]; exact hrow
  have hstart : s.Starts e := ⟨hidle, he, hset, hfatal, hrun, hchecks⟩
  have hread : s.nodeRead e = (s.modEng e armed).told [.localNodeId e] (d2 :: rest) := by
    rw [State.nodeRead, State.nextDraw_of_tape ht, ht]
    rfl
  have hkind1 : ((s.nodeRead e).eng e).kind = (s.eng e).kind := by
    rw [hread, State.told_eng, eng_modEng_same _ _ he]
  have htape : (s.nodeRead e).NextIs d2 rest := State.nextIs_of_tape (by rw [hread]; rfl)
  have he1 : e < (s.nodeRead e).inst.length := by rw [hread]; simpa using he
  have hasked : (s.nodeRead e).portAsked e rest = asked.modEng e armed := by
    rw [State.portAsked, hread, State.told_told, State.told_eng, eng_modEng_same _ _ he]
    rfl
  have hexec : exec (.engStart e) s = .next (endCommand (startEngine e (s.nodeRead e))) := by
    rw [hstart.exec_eq, run_bind, run_prefill_receive (by rw [hkind1]; exact hreceive)]
  have hnone : ((s.nodeRead e).eng e).kind ≠ .dvtx := by
    rw [hkind1]
    rcases hreceive with hk | hk <;> simp [hk]
  refine ⟨fun hd => ?_, fun hd hct => ?_, fun hd hct => ?_⟩
  · rw [hexec, run_startEngine_refused htape hd hnone, hasked]
    rfl
  · rw [hexec, run_startEngine_ok he1 htape hd hct, hasked, modEng_modEng, endCommand_some]
    refine congrArg (fun t => Host.Outcome.next (State.setStatus t .success)) (modEng_congr ?_)
    have hrec : (asked.eng e).kind.isReceive = true := by
      show (s.eng e).kind.isReceive = true
      rcases hreceive with hk | hk <;> rw [hk] <;> rfl
    simp only [Eng.enterRun, Eng.clockedAt, Eng.startedAt, armed, hrec, Bool.true_and]
  · rw [hexec, startEngine, run_startPort_bad htape hd hct, hasked, modEng_modEng]
    rfl

/-! ### ENG_START under any client -/

/-- A command that ends neither halted nor in a reset has gone through its first part. -/
theorem ok_of_endCommand_bind {α : Type} {m : M α} {k : α → M (Option Status)} {s t : State}
    (hm : FaultHalts m) (hepoch : (finalState (m s)).epoch = s.epoch)
    (ht : t = endCommand ((m >>= k) s)) (hhalt : t.halted = false) (hreset : t.epoch = s.epoch) :
    ∃ a u, m s = .ok a u ∧ t = endCommand (k a u) := by
  rw [run_bind] at ht
  cases hr : m s with
  | ok a u =>
    rw [hr] at ht
    exact ⟨a, u, rfl, ht⟩
  | error c u =>
    rw [hr] at ht hepoch
    cases c with
    | fault =>
      obtain rfl : t = u := ht
      exact absurd (hm s t hr) (by simp [hhalt])
    | reset =>
      obtain rfl : t = u.resetBlock := ht
      have hcount : u.epoch + 1 = s.epoch := hreset
      have hsame : u.epoch = s.epoch := hepoch
      omega

theorem State.nodeRead_eng {s : State} (he : e < s.inst.length) : (s.nodeRead e).eng e =
    { (s.eng e).armRing with localSid := s.nextDraw.word.setWidth 6 } :=
  eng_modEng_same _ _ he

theorem State.nodeRead_instances (s : State) : (s.nodeRead e).inst.length = s.inst.length := by
  simp [State.nodeRead]

/-- The ring is armed, and has not moved since. -/
structure Eng.RingArmed (x g : Eng) : Prop where
  jump : g.jump = ringTargets x.segments.toNat
  curSeg : g.curSeg = 0
  firstCallback : g.firstCallback = true
  stealCount : g.stealCount = 0

/-- The start of the Port Engine leaves the ring. -/
theorem Eng.RingArmed.clockedAt {x g : Eng} (h : x.RingArmed g) (ct : Word) :
    x.RingArmed (g.clockedAt ct).enterRun := by
  obtain ⟨hjump, hcur, hfirst, hsteal⟩ := h
  exact ⟨hjump, hcur, hfirst, hsteal⟩

/-- How an ENG_START ends that passes its checks and is not cut short (42_buffer_engine.md R155). -/
theorem State.Starts.outcome {s t : State} (h : s.Starts e) (ht : exec (.engStart e) s = .next t)
    (hhalt : t.halted = false) (hreset : t.epoch = s.epoch) :
    (s.eng e).RingArmed (t.eng e) ∧
    (t.status = 0x00 ∧ (t.eng e).running = true ∧ (t.eng e).peRunning = true ∧ (t.eng e).peSeg = 0 ∧
        (t.eng e).expectedTs = ctSum (t.eng e).startCT (ctCycles (s.eng e).cyclesPerSeg.toNat) ∨
      t.status = 0x01 ∧ (t.eng e).running = false) := by
  have hread := s.nodeRead_eng h.instance_lt
  have hprefill := prefill_course (e := e) (s := s.nodeRead e) (by rw [hread]; rfl)
  rw [h.exec_eq] at ht
  obtain ⟨_, u, hu, htu⟩ := ok_of_endCommand_bind (prefill_faultHalts e) hprefill.epoch
    (Host.Outcome.next.inj ht).symm hhalt hreset
  replace hprefill : Course e false (s.nodeRead e) u := by rwa [hu] at hprefill
  have he : e < u.inst.length := by
    rw [hprefill.instances, State.nodeRead_instances]
    exact h.instance_lt
  have harmed : ∀ {v : State}, Course e false (s.nodeRead e) v →
      (s.eng e).RingArmed (v.eng e) ∧ (v.eng e).running = false := fun hv =>
    ⟨⟨by rw [hv.eng.jump, hread]; rfl, by rw [hv.eng.curSeg, hread]; rfl,
      by rw [hv.eng.firstCallback, hread]; rfl, by rw [hv.eng.stealCount rfl, hread]; rfl⟩,
      by rw [hv.eng.running, hread]; exact h.running⟩
  have hasked : Course e false (s.nodeRead e) (u.portAsked e u.tape.tail) :=
    hprefill.trans (course_of_same rfl rfl rfl (tapeLaw_asked u _))
  have hnext : u.NextIs u.nextDraw u.tape.tail := ⟨rfl, rfl⟩
  by_cases hd : u.nextDraw.status = 0
  · by_cases hct : ctLegal u.nextDraw.word
    · rw [run_startEngine_ok he hnext hd hct, endCommand_some] at htu
      have heng : t.eng e = ((u.eng e).clockedAt u.nextDraw.word).enterRun := by
        rw [htu, eng_setStatus, eng_modEng_same _ _ (by exact he)]
        rfl
      rw [heng]
      have hn : (u.eng e).cyclesPerSeg = (s.eng e).cyclesPerSeg := by
        rw [hprefill.eng.cyclesPerSeg, hread]
        rfl
      rw [← hn]
      exact ⟨(harmed hprefill).1.clockedAt _, .inl ⟨congrArg State.status htu, rfl, rfl, rfl, rfl⟩⟩
    · rw [startEngine, run_startPort_bad hnext hd hct, endCommand_fault] at htu
      rw [htu, State.takeFault_halted] at hhalt
      exact absurd hhalt (by decide)
  · rw [startEngine, run_startPort_refused hnext hd] at htu
    have hdrain := (Producer.drainSlots (e := e) (steals := false)).course (u.portAsked e u.tape.tail)
    obtain ⟨_, v, hv, htv⟩ := ok_of_endCommand_bind
      (Producer.drainSlots (e := e) (steals := false)).faultHalts hdrain.epoch htu hhalt
      (hreset.trans hasked.epoch.symm)
    replace hdrain : Course e false (u.portAsked e u.tape.tail) v := by rwa [hv] at hdrain
    obtain ⟨hring, hstopped⟩ := harmed (hasked.trans hdrain)
    rw [run_answer, endCommand_some] at htv
    have heng : t.eng e = v.eng e := by rw [htv, eng_setStatus]
    rw [heng]
    exact ⟨hring, .inr ⟨congrArg State.status htv, hstopped⟩⟩

/-! ### ENG_START of a transmit engine whose clients touch BUF only -/

@[simp] theorem withOverrunPacket_tape (s : State) (row : DvFormat) :
    (s.withOverrunPacket e row).tape = s.tape := by unfold State.withOverrunPacket; dsimp only; split <;> rfl

@[simp] theorem withOverrunPacket_out (s : State) (row : DvFormat) :
    (s.withOverrunPacket e row).out = s.out := by unfold State.withOverrunPacket; dsimp only; split <;> rfl

@[simp] theorem withOverrunPacket_drawn (s : State) (row : DvFormat) :
    (s.withOverrunPacket e row).drawn = s.drawn := by
  unfold State.withOverrunPacket; dsimp only; split <;> rfl

/-- The overrun packet is one of BUF and one of the engine's slots. -/
theorem withOverrunPacket_course {steals : Bool} (s : State) (row : DvFormat) :
    Course e steals s (s.withOverrunPacket e row) := by
  have hbytes : ∀ a bytes, Course e steals s (s.writeBytes a bytes) :=
    fun _ _ => course_of_same rfl rfl rfl (tapeLaw_of_same rfl rfl)
  unfold State.withOverrunPacket
  dsimp only
  split
  · exact (hbytes _ _).trans (course_modEng fun _ => ⟨by constructor <;> rfl, rfl, fun _ => rfl⟩)
  · exact course_modEng fun _ => ⟨by constructor <;> rfl, rfl, fun _ => rfl⟩

/-- An engine's prefill has come to the state `begun`, in which its cycles begin. -/
structure State.Prefilling (s begun : State) (e : Nat) (row : DvFormat) : Prop where
  transmit : (begun.eng e).kind = .dvtx ∨ (begun.eng e).kind = .utx
  course : Course e true s begun
  idle : begun.idle
  instance_lt : e < begun.inst.length
  portOnly : ∀ d ∈ begun.tape, d.portOnly
  run : (begun.refilled e).reach ≤ begun.reach → PrefillFrom s e row begun

section

variable {s begun : State} {row : DvFormat}

theorem prefilling_dvtx (hk : (s.eng e).kind = .dvtx) (hrow : s.par.dvRow (s.dvt e).dvMode = some row)
    (hb : (s.eng e).bufBase.toNat + (s.eng e).cycles * (s.eng e).cycleBufSize.toNat + 8 ≤ s.par.bufBytes)
    (hidle : s.idle) (he : e < s.inst.length) (hport : ∀ d ∈ s.tape, d.portOnly) :
    s.Prefilling (s.clockLoaded e) e row := by
  have hclock := clockLoaded_course (e := e) (steals := true) s
  have he' : e < (s.clockLoaded e).inst.length := by rwa [hclock.instances]
  have hport' : ∀ d ∈ (s.clockLoaded e).tape, d.portOnly :=
    fun d hd => hport d (hclock.suffix.subset hd)
  exact ⟨.inl (hclock.eng.kind.trans hk), hclock, hidle, he', hport',
    fun hreach => prefillFrom_dvtx hk hrow hb ⟨hidle, he', hport', hreach⟩⟩

theorem prefilling_utx (hk : (s.eng e).kind = .utx) (hidle : s.idle) (he : e < s.inst.length)
    (hport : ∀ d ∈ s.tape, d.portOnly) : s.Prefilling s e row :=
  ⟨.inr hk, course_refl s, hidle, he, hport,
    fun hreach => prefillFrom_utx hk ⟨hidle, he, hport, hreach⟩⟩

theorem State.Prefilling.run_halted (h : s.Prefilling begun e row)
    (hhalt : (begun.refilled e).halted = true) (hdrawn : (begun.refilled e).drawn ≤ begun.reach) :
    prefill e s = .error .fault (begun.refilled e) := by
  have hrun := h.run ((refilled_tapeLaw h.transmit).reach_le_of_drawn hdrawn)
  rwa [PrefillFrom, if_pos hhalt] at hrun

/-- A prefill that does not raise, where the tape still holds an answer then. -/
theorem State.Prefilling.run_ok (h : s.Prefilling begun e row)
    (hhalt : (begun.refilled e).halted = false) (htape : (begun.refilled e).tape ≠ []) :
    prefill e s = .ok () ((begun.refilled e).withOverrunPacket e row) ∧
      Course e true s ((begun.refilled e).withOverrunPacket e row) := by
  have hreach : (begun.refilled e).reach ≤ begun.reach :=
    ((refilled_tapeLaw h.transmit).reach_eq htape).le
  have hrun := h.run hreach
  rw [PrefillFrom, if_neg (by rw [hhalt]; exact Bool.false_ne_true)] at hrun
  have hrefills : begun.Refills e := ⟨h.idle, h.instance_lt, h.portOnly, hreach⟩
  exact ⟨hrun, (h.course.trans (hrefills.course h.transmit)).trans (withOverrunPacket_course _ row)⟩

end

/-- Behind the prefill an ENG_START launches the engine from `u`, where the environment's next answer is `d`. -/
structure State.Launches (s u : State) (e : Nat) (d : Draw) (rest : List Draw) : Prop where
  exec_eq : exec (.engStart e) s = .next (endCommand (startEngine e u))
  next : u.NextIs d rest
  instance_lt : e < u.inst.length
  kind : (u.eng e).kind = (s.eng e).kind
  channel : (u.eng e).channel = (s.eng e).channel
  cycles : (u.eng e).cycles = (s.eng e).cycles

section

variable {s begun : State} {row : DvFormat} {d : Draw} {rest : List Draw}

/-- A raise of the producer ends an ENG_START. -/
theorem State.Starts.run_halted (h : s.Starts e) (hp : (s.nodeRead e).Prefilling begun e row)
    (hhalt : (begun.refilled e).halted = true) (hdrawn : (begun.refilled e).drawn ≤ begun.reach) :
    exec (.engStart e) s = .next (begun.refilled e) := by
  rw [h.exec_eq, run_bind, hp.run_halted hhalt hdrawn]
  rfl

theorem State.Starts.launches (h : s.Starts e) (hp : (s.nodeRead e).Prefilling begun e row)
    (hhalt : (begun.refilled e).halted = false) (htape : (begun.refilled e).tape = d :: rest) :
    s.Launches ((begun.refilled e).withOverrunPacket e row) e d rest := by
  obtain ⟨hprefill, hcourse⟩ := hp.run_ok hhalt (by rw [htape]; exact List.cons_ne_nil _ _)
  have hread := s.nodeRead_eng h.instance_lt
  have heng : EngSame ((s.eng e).armRing) ((s.nodeRead e).eng e) := by
    rw [hread]
    constructor <;> rfl
  have hsame := heng.trans hcourse.eng.toEngSame
  refine ⟨by rw [h.exec_eq, run_bind, hprefill], State.nextIs_of_tape (by rw [withOverrunPacket_tape, htape]),
    ?_, hsame.kind, hsame.channel, ?_⟩
  · rw [hcourse.instances, State.nodeRead_instances]
    exact h.instance_lt
  · rw [Eng.cycles, hsame.segments, hsame.cyclesPerSeg]
    rfl

end

namespace State.Launches

variable {s u : State} {d : Draw} {rest : List Draw}

theorem portAsked_eq (h : s.Launches u e d rest) : u.portAsked e rest = { u with
    out := u.out ++ [.peStart e (s.eng e).channel], tape := rest, drawn := u.drawn + 1 } := by
  rw [State.portAsked, h.channel]
  rfl

theorem run_ok (h : s.Launches u e d rest) (htx : (s.eng e).kind.isReceive = false) (hd : d.status = 0)
    (hct : ctLegal d.word) : exec (.engStart e) s =
      .next { (u.portAsked e rest).modEng e (fun g =>
        { g with
          peRunning := true, peSeg := 0, startCT := d.word
          expectedTs := ctSum d.word (ctCycles g.cyclesPerSeg.toNat), running := true }) with
        status := 0x00 } := by
  have hkind : ((u.portAsked e rest).eng e).kind.isReceive = false := by
    rw [State.portAsked, State.told_eng, h.kind, htx]
  rw [h.exec_eq, run_startEngine_ok h.instance_lt h.next hd hct, endCommand_some]
  refine congrArg (fun t => Host.Outcome.next (State.setStatus t .success)) (modEng_congr ?_)
  simp only [Eng.enterRun, Eng.clockedAt, Eng.startedAt, hkind, Bool.false_and, Bool.or_false]

theorem run_range (h : s.Launches u e d rest) (hd : d.status = 0) (hct : ¬ ctLegal d.word) :
    exec (.engStart e) s = .next (((u.portAsked e rest).modEng e (·.startedAt d.word)).takeFault
      (.ctRange d.word)) := by
  rw [h.exec_eq, startEngine, run_startPort_bad h.next hd hct, endCommand_fault]

theorem run_refused (h : s.Launches u e d rest) (hk : (s.eng e).kind = .utx) (hd : d.status ≠ 0) :
    exec (.engStart e) s = .next { u.portAsked e rest with status := 0x01 } := by
  rw [h.exec_eq, run_startEngine_refused h.next hd (by rw [h.kind, hk]; decide), endCommand_some]
  rfl

theorem run_drained (h : s.Launches u e d rest) (hk : (s.eng e).kind = .dvtx) (hd : d.status ≠ 0)
    {ds rest' : List Draw}
    (ha : (u.portAsked e rest).answers ds rest' ((u.dvt e).drained ((s.eng e).cycles + 1)).2.length) :
    exec (.engStart e) s = .next { ((u.portAsked e rest).told
      (((u.dvt e).drained ((s.eng e).cycles + 1)).2.map (.frameRelease e)) rest').modDvt e
        (fun _ => ((u.dvt e).drained ((s.eng e).cycles + 1)).1) with status := 0x01 } := by
  rw [← h.cycles] at ha ⊢
  rw [h.exec_eq, run_startEngine_drained h.instance_lt h.next hd (h.kind.trans hk) ha, endCommand_some]
  rfl

end State.Launches

/-- A DVTX engine's ENG_START comes to its prefill with the node id and the clock read. -/
theorem State.Starts.prefilling_dvtx {s : State} {row : DvFormat} (h : s.Starts e)
    (hk : (s.eng e).kind = .dvtx) (hrow : s.par.dvRow (s.dvt e).dvMode = some row)
    (hb : (s.eng e).bufBase.toNat + (s.eng e).cycles * (s.eng e).cycleBufSize.toNat + 8 ≤ s.par.bufBytes)
    (hport : ∀ d ∈ s.tape, d.portOnly) :
    (s.nodeRead e).Prefilling ((s.nodeRead e).clockLoaded e) e row := by
  have hread := s.nodeRead_eng h.instance_lt
  have hdvt : (s.nodeRead e).dvt e = s.dvt e := by rw [State.nodeRead, dvt_modEng, State.told_dvt]
  refine Machine.prefilling_dvtx (by rw [hread]; exact hk) (by rw [hdvt]; exact hrow)
    (by rw [hread]; exact hb) h.idle ?_ fun d hd => hport d (List.mem_of_mem_tail hd)
  rw [State.nodeRead_instances]
  exact h.instance_lt

theorem State.Starts.prefilling_utx {s : State} {row : DvFormat} (h : s.Starts e)
    (hk : (s.eng e).kind = .utx) (hport : ∀ d ∈ s.tape, d.portOnly) :
    (s.nodeRead e).Prefilling (s.nodeRead e) e row := by
  have hread := s.nodeRead_eng h.instance_lt
  refine Machine.prefilling_utx (by rw [hread]; exact hk) h.idle ?_
    fun d hd => hport d (List.mem_of_mem_tail hd)
  rw [State.nodeRead_instances]
  exact h.instance_lt

/-- How the launch ends, each way (42_buffer_engine.md R155, R157). -/
theorem State.Launches.ends {s u asked : State} {d : Draw} {rest : List Draw}
    (h : s.Launches u e d rest) (htx : (s.eng e).kind.isReceive = false)
    (hasked : u.portAsked e rest = asked) :
    (d.status = 0 → ctLegal d.word → exec (.engStart e) s = .next { asked.modEng e (fun g =>
      { g with
        peRunning := true, peSeg := 0, startCT := d.word
        expectedTs := ctSum d.word (ctCycles g.cyclesPerSeg.toNat), running := true }) with
      status := 0x00 }) ∧
    (d.status = 0 → ¬ ctLegal d.word → exec (.engStart e) s = .next ((asked.modEng e (fun g =>
      { g with peRunning := true, peSeg := 0, startCT := d.word })).takeFault (.ctRange d.word))) ∧
    (d.status ≠ 0 → (s.eng e).kind = .utx →
      exec (.engStart e) s = .next { asked with status := 0x01 }) ∧
    (∀ ds rest', d.status ≠ 0 → (s.eng e).kind = .dvtx →
      let r := (asked.dvt e).drained ((s.eng e).cycles + 1)
      asked.answers ds rest' r.2.length →
      exec (.engStart e) s = .next { (asked.told (r.2.map (.frameRelease e)) rest').modDvt e
        (fun _ => r.1) with status := 0x01 }) := by
  subst hasked
  exact ⟨h.run_ok htx, h.run_range, fun hd hk => h.run_refused hk hd,
    fun ds rest' hd hk => h.run_drained hk hd⟩

/-- The state in which the cycles of an ENG_START's prefill begin, written out. -/
theorem State.Starts.begun {s begun : State} {row : DvFormat} {d1 d2 : Draw} {rest : List Draw}
    (h : s.Starts e) (hport : ∀ d ∈ s.tape, d.portOnly) {armed : Eng → Eng}
    (harmed : armed (s.eng e) = { (s.eng e).armRing with localSid := d1.word.setWidth 6 })
    (hbegun : (s.eng e).kind = .dvtx ∧ s.par.dvRow (s.dvt e).dvMode = some row ∧
        s.tape = d1 :: d2 :: rest ∧
        (s.eng e).bufBase.toNat + (s.eng e).cycles * (s.eng e).cycleBufSize.toNat + 8 ≤ s.par.bufBytes ∧
        begun = { (s.modEng e armed).modDvt e (fun x => { x with txClock := d2.word }) with
          out := s.out ++ [.localNodeId e, .cycleTime e], tape := rest, drawn := s.drawn + 2 } ∨
      (s.eng e).kind = .utx ∧ s.tape = d1 :: rest ∧
        begun = { s.modEng e armed with
          out := s.out ++ [.localNodeId e], tape := rest, drawn := s.drawn + 1 }) :
    (s.nodeRead e).Prefilling begun e row ∧ begun.reach = s.reach := by
  have hnode : ∀ {ds : List Draw}, s.tape = d1 :: ds →
      s.nodeRead e = (s.modEng e armed).told [.localNodeId e] ds := fun ht => by
    rw [State.nodeRead, State.nextDraw_of_tape ht, ht, modEng_told]
    exact congrArg (State.told · _ _) (modEng_congr harmed.symm)
  rcases hbegun with ⟨hk, hrow, ht, hb, hbegun⟩ | ⟨hk, ht, hbegun⟩
  · have hclock : (s.nodeRead e).clockLoaded e = begun := by
      rw [hbegun, State.clockLoaded, State.nextDraw_of_tape (d := d2) (ds := rest) (by rw [hnode ht]; rfl),
        hnode ht, State.told_told]
      rfl
    refine ⟨hclock ▸ h.prefilling_dvtx hk hrow hb hport, ?_⟩
    rw [hbegun, State.reach, State.reach, ht]
    exact (Nat.add_right_comm _ 2 _).trans (Nat.add_assoc _ _ 2)
  · have hstate : s.nodeRead e = begun := by
      rw [hbegun, hnode ht]
      rfl
    refine ⟨?_, ?_⟩
    · have hp := h.prefilling_utx (row := row) hk hport
      rwa [hstate] at hp ⊢
    · rw [hbegun, State.reach, State.reach, ht]
      exact (Nat.add_right_comm _ 1 _).trans (Nat.add_assoc _ _ 1)

/-- Settles O26: a prefill keeps the ring armed under any client; where the clients touch BUF only it is the
producer commands one after another, and the start of the Port Engine follows. -/
theorem startOutcome : Obligations.StartOutcome := by
  refine ⟨fun s t e hidle he hset hfatal hrun hchecks ht hhalt hreset => ?_, ?_⟩
  · obtain ⟨⟨hjump, hcur, hfirst, hsteal⟩, hends⟩ :=
      State.Starts.outcome ⟨hidle, he, hset, hfatal, hrun, hchecks⟩ ht hhalt hreset
    exact ⟨hjump, hcur, hfirst, hsteal, hends⟩
  intro s begun e row d1 d2 rest hidle he hset hfatal hrun hchecks hport S n armed hbegun
  have hstart : s.Starts e := ⟨hidle, he, hset, hfatal, hrun, hchecks⟩
  obtain ⟨hprefilling, hreach⟩ := hstart.begun hport rfl hbegun
  have htx : (s.eng e).kind.isReceive = false := by
    rcases hbegun with ⟨hk, -⟩ | ⟨hk, -⟩ <;> rw [hk] <;> rfl
  clear hbegun
  refine ⟨fun hhalt hdrawn => hstart.run_halted hprefilling hhalt (hreach ▸ hdrawn),
    fun d3 rest3 hhalt htape => ?_⟩
  have hlaunch := hstart.launches hprefilling hhalt htape
  have hasked := hlaunch.portAsked_eq
  rw [withOverrunPacket_out, withOverrunPacket_drawn] at hasked
  exact hlaunch.ends htx hasked

end Sys2Proof.Machine
end

section
/-! PROOF. The recovery after an overrun and after a forced stop (obligation O33). Both arm the ring, rebuild what
the engine's kind has in its buffers, and start the Port Engine again (42_buffer_engine.md R171 to R173). -/

namespace Sys2Proof.Machine

variable {e : Nat}

/-! ### The start of the Port Engine in a restart (R172) -/

/-- What a restart does behind the rebuild. -/
def restartPort (e : Nat) : M Unit :=
  startPort e (modEng e (fun g => { g with running := false, fatal := true, wdArmed := false }) >>= fun _ =>
    engMsg e .autoRestartFailed none) (pure ())

theorem run_restart (s : State) (e : Nat) :
    restart e s = (rebuild e >>= fun _ => restartPort e) (s.modEng e Eng.armRing) := by
  rw [restart, run_bind, run_modEng]
  dsimp only
  rw [run_bind, run_bind]
  cases rebuild e (s.modEng e Eng.armRing) with
  | error r t => rfl
  | ok a t =>
    dsimp only
    rw [restartPort, startPort, run_bind, run_bind]
    cases peStart e t with
    | error r u => rfl
    | ok r u =>
      cases r with
      | none => rfl
      | some ct =>
        dsimp only
        rw [run_bind]
        cases startClock e ct u <;> rfl

/-- How a restart ends, each way, from the state `u` that asks the Port Engine to start. -/
theorem restart_ends {i : Instr} {s u : State} {channel : BitVec 6} {d : Draw} {rest : List Draw}
    (hexec : exec i s = .next (stepEnd (restartPort e u))) (he : e < u.inst.length)
    (hchannel : (u.eng e).channel = channel) (ht : u.tape = d :: rest) :
    let asked := u.told [.peStart e channel] rest
    (d.status = 0 → ctLegal d.word → exec i s = .next (asked.modEng e (fun g =>
      { g with
        peRunning := true, peSeg := 0, startCT := d.word
        expectedTs := ctSum d.word (ctCycles g.cyclesPerSeg.toNat) }))) ∧
    (d.status = 0 → ¬ ctLegal d.word → exec i s = .next ((asked.modEng e (fun g =>
      { g with peRunning := true, peSeg := 0, startCT := d.word })).takeFault (.ctRange d.word))) ∧
    (∀ ds rest', d.status ≠ 0 → asked.answers ds rest' 1 →
      exec i s = .next ((asked.told [.engMsg e .autoRestartFailed none] rest').modEng e (fun g =>
        { g with running := false, fatal := true, wdArmed := false }))) := by
  subst hchannel
  have hnext := State.nextIs_of_tape ht
  refine ⟨fun hd hct => ?_, fun hd hct => ?_, fun ds rest' hd hanswers => ?_⟩
  · rw [hexec, restartPort, run_startPort_ok he hnext hd hct]
    rfl
  · rw [hexec, restartPort, run_startPort_bad hnext hd hct]
    rfl
  · obtain ⟨x, es, rfl, hquiet, htape, hlen, -⟩ := State.answers_succ (n := 0) hanswers
    obtain rfl : es = [] := List.eq_nil_of_length_eq_zero hlen
    rw [hexec, restartPort, run_startPort_refused hnext hd, run_bind, run_modEng]
    dsimp only
    rw [run_engMsg_quiet (s := (u.portAsked e rest).modEng e _) (d := x) (ds := rest') htape hquiet]
    rfl

/-! ### The two events up to the rebuild (R171, R173) -/

/-- What a restart keeps of an engine's setup. -/
structure Eng.SameSetup (x y : Eng) : Prop where
  kind : y.kind = x.kind
  channel : y.channel = x.channel
  segments : y.segments = x.segments
  cyclesPerSeg : y.cyclesPerSeg = x.cyclesPerSeg
  bufBase : y.bufBase = x.bufBase
  cycleBufSize : y.cycleBufSize = x.cycleBufSize

theorem Eng.SameSetup.cycles {x y : Eng} (h : x.SameSetup y) : y.cycles = x.cycles := by
  rw [Eng.cycles, h.segments, h.cyclesPerSeg, Eng.cycles]

/-- The event `i` has told the client and armed the ring, and has come to the rebuild in the state `o`. -/
structure State.Reopened (s o : State) (e : Nat) (i : Instr) (rest : List Draw) : Prop where
  exec_eq : exec i s = .next (stepEnd ((rebuild e >>= fun _ => restartPort e) o))
  par : o.par = s.par
  instance_lt : e < o.inst.length
  halted : o.halted = s.halted
  inCallback : o.inCallback = s.inCallback
  tape : o.tape = rest
  drawn : o.drawn = s.drawn + 1
  dvr : o.dvr e = s.dvr e
  dvt : o.dvt e = s.dvt e
  eng : (s.eng e).SameSetup (o.eng e)

/-- An event that has changed its engine outside its setup and made calls, taking one answer. -/
theorem reopened_of_modEng {s : State} {i : Instr} {f : Eng → Eng} {outs : List Out} {rest : List Draw}
    (he : e < s.inst.length) (hf : (s.eng e).SameSetup (f (s.eng e)))
    (hexec : exec i s = .next (stepEnd ((rebuild e >>= fun _ => restartPort e)
      { s.modEng e f with out := s.out ++ outs, tape := rest, drawn := s.drawn + 1 }))) :
    s.Reopened { s.modEng e f with out := s.out ++ outs, tape := rest, drawn := s.drawn + 1 } e i rest where
  exec_eq := hexec
  par := rfl
  instance_lt := by simpa using he
  halted := rfl
  inCallback := rfl
  tape := rfl
  drawn := rfl
  dvr := dvr_modEng _ _ _ _
  dvt := dvt_modEng _ _ _ _
  eng := by
    have heng : (s.modEng e f).eng e = f (s.eng e) := eng_modEng_same _ _ he
    exact heng ▸ hf

section

variable {s : State} {d : Draw} {rest : List Draw}

theorem exec_evOverrun_running (hhalt : s.halted = false) (he : e < s.inst.length) (ht : s.tape = d :: rest)
    (hd : d.quiet) (hrun : (s.eng e).running = true) :
    exec (.evOverrun e) s = .next (stepEnd ((rebuild e >>= fun _ => restartPort e)
      { s.modEng e (fun g => Eng.armRing { g with
          peRunning := false, peStops := g.peStops + 1, finalizeOwed := g.finalizeOwed + 1 }) with
        out := s.out ++ [.peStop e, .engMsg e .overrun none], tape := rest, drawn := s.drawn + 1 })) := by
  have hexec : exec (.evOverrun e) s = .next (stepEnd (evOverrunBody e s)) := asEvent_run hhalt he
  rw [hexec, evOverrunBody, run_bind, run_getEng]
  dsimp only
  rw [run_ite, if_neg (by simp [hrun]), run_bind, run_peStop]
  dsimp only
  rw [run_bind, run_engMsg_quiet (s := (s.emit (.peStop e)).modEng e _) (d := d) (ds := rest) ht hd]
  dsimp only
  rw [run_restart, modEng_takeDraw, modEng_emit, modEng_emit, modEng_emit, modEng_modEng]
  simp only [State.emit, State.takeDraw, List.append_assoc]
  rfl

theorem exec_evForceStop_running (hhalt : s.halted = false) (he : e < s.inst.length)
    (ht : s.tape = d :: rest) (hd : d.quiet) (hrun : (s.eng e).running = true) :
    exec (.evForceStop e) s = .next (stepEnd ((rebuild e >>= fun _ => restartPort e)
      { s.modEng e Eng.armRing with
        out := s.out ++ [.engMsg e .forcedStop none], tape := rest, drawn := s.drawn + 1 })) := by
  have hexec : exec (.evForceStop e) s = .next (stepEnd (evForceStopBody e s)) := asEvent_run hhalt he
  rw [hexec, evForceStopBody, run_bind, run_getEng]
  dsimp only
  rw [run_ite, if_neg (by simp [hrun]), run_bind, run_engMsg_quiet ht hd]
  dsimp only
  rw [run_restart, modEng_takeDraw, modEng_emit]
  rfl

end

/-! ### The rebuild (R172) -/

theorem run_rebuild_urx {s : State} (hk : (s.eng e).kind = .urx) : rebuild e s = .ok () s := by
  rw [rebuild, run_bind, run_getEng]
  simp only [hk, run_pure]

theorem run_rebuild_dvrx {s : State} (hk : (s.eng e).kind = .dvrx) : rebuild e s = abandonCurrent e s := by
  rw [rebuild, run_bind, run_getEng]
  simp only [hk]

theorem run_rebuild_transmit {s : State} (hk : (s.eng e).kind = .dvtx ∨ (s.eng e).kind = .utx) :
    rebuild e s = (drainSlots e >>= fun _ => prefill e) s := by
  rw [rebuild, run_bind, run_getEng]
  rcases hk with hk | hk <;> simp only [hk]

/-- A drain leaves the stream's mode. -/
theorem drained_dvMode (d : Dvt) (n : Nat) : (d.drained n).1.dvMode = d.dvMode := by
  have h : ∀ (ks : List Nat) (a : Dvt × List Nat),
      (ks.foldl Dvt.releaseSlot a).1.dvMode = a.1.dvMode := by
    intro ks
    induction ks with
    | nil => exact fun _ => rfl
    | cons k ks ih => exact fun a => (ih _).trans (releaseSlot_sameCourse a.1 a.2 k).dvMode
  exact h _ _

namespace State.Reopened

variable {s o : State} {i : Instr} {rest : List Draw}

/-- The event ends as the start of the Port Engine does where the rebuild comes to `u`. -/
theorem exec_rebuilt (h : s.Reopened o e i rest) {u : State} (hu : rebuild e o = .ok () u) :
    exec i s = .next (stepEnd (restartPort e u)) := by
  rw [h.exec_eq, run_bind, hu]

/-- A DVRX engine abandons its frame in progress (43_dv_receive.md R209). -/
theorem exec_dvrx (h : s.Reopened o e i rest) (hk : (s.eng e).kind = .dvrx) {ds rest1 : List Draw}
    (ha : o.answers ds rest1 ((s.dvr e).abandonNotices e).length) :
    exec i s = .next (stepEnd (restartPort e
      ((o.told ((s.dvr e).abandonNotices e) rest1).modDvr e Dvr.cleared))) := by
  rw [← h.dvr] at ha ⊢
  exact h.exec_rebuilt ((run_rebuild_dvrx (h.eng.kind.trans hk)).trans (run_abandonCurrent h.instance_lt ha))

/-- The rebuild of a transmit engine comes to a prefill, whose cycles begin in the state `begun`. -/
structure Refills (s o begun : State) (e : Nat) (row : DvFormat) : Prop where
  exists_prefilling : ∃ v : State, rebuild e o = prefill e v ∧ (v.eng e).channel = (s.eng e).channel ∧
    v.Prefilling begun e row
  reach : begun.reach = s.reach

/-- A DVTX engine drains every cycle buffer and loads its clock (42_buffer_engine.md R157; log 26). -/
theorem refills_dvtx (h : s.Reopened o e i rest) (hk : (s.eng e).kind = .dvtx) {row : DvFormat}
    {d1 d3 : Draw} {ds rest1 : List Draw} (ht : s.tape = d1 :: rest) (hidle : s.idle)
    (hport : ∀ d ∈ s.tape, d.portOnly) (hrow : s.par.dvRow (s.dvt e).dvMode = some row)
    (hb : (s.eng e).bufBase.toNat + (s.eng e).cycles * (s.eng e).cycleBufSize.toNat + 8 ≤ s.par.bufBytes)
    (ha : o.answers ds (d3 :: rest1) ((s.dvt e).drained ((s.eng e).cycles + 1)).2.length) :
    Refills s o
      (((o.told (((s.dvt e).drained ((s.eng e).cycles + 1)).2.map (.frameRelease e)) (d3 :: rest1)).told
        [.cycleTime e] rest1).modDvt e
          (fun _ => { ((s.dvt e).drained ((s.eng e).cycles + 1)).1 with txClock := d3.word })) e row := by
  have hkind : (o.eng e).kind = .dvtx := h.eng.kind.trans hk
  have hdrain := run_drainSlots_dvtx (e := e) (s := o) (ds := ds) (rest := d3 :: rest1) h.instance_lt hkind
  rw [h.dvt, h.eng.cycles] at hdrain
  have hreach : s.tape.length = 1 + (ds.length + (1 + rest1.length)) := by
    rw [ht, ← h.tape, ha.1]
    simp only [List.length_cons, List.length_append]
    omega
  have hdrawn := h.drawn
  have hcount := ha.2.1
  generalize hr : (s.dvt e).drained ((s.eng e).cycles + 1) = r at ha hdrain hcount ⊢
  have hmode : r.1.dvMode = (s.dvt e).dvMode := by rw [← hr, drained_dvMode]
  refine ⟨⟨(o.told (r.2.map (.frameRelease e)) (d3 :: rest1)).modDvt e (fun _ => r.1), ?_, ?_, ?_⟩, ?_⟩
  · rw [run_rebuild_transmit (.inl hkind), run_bind, hdrain ha]
  · rw [eng_modDvt, State.told_eng, h.eng.channel]
  · have hclock : ((o.told (r.2.map (.frameRelease e)) (d3 :: rest1)).modDvt e
        (fun _ => r.1)).clockLoaded e =
          (((o.told (r.2.map (.frameRelease e)) (d3 :: rest1)).told [.cycleTime e] rest1).modDvt e
            (fun _ => { r.1 with txClock := d3.word })) := by
      rw [State.clockLoaded, State.nextDraw_of_tape (d := d3) (ds := rest1) rfl, ← modDvt_told,
        modDvt_modDvt]
      rfl
    rw [← hclock]
    have hdvt : ((o.told (r.2.map (.frameRelease e)) (d3 :: rest1)).modDvt e (fun _ => r.1)).dvt e = r.1 :=
      dvt_modDvt_same _ _ h.instance_lt
    have heng : ((o.told (r.2.map (.frameRelease e)) (d3 :: rest1)).modDvt e (fun _ => r.1)).eng e =
        o.eng e := eng_modDvt _ _ _ _
    refine prefilling_dvtx (by rw [heng, hkind]) ?_ ?_ ?_ ?_ ?_
    · rw [hdvt, hmode]
      exact h.par ▸ hrow
    · rw [heng, h.eng.bufBase, h.eng.cycles, h.eng.cycleBufSize]
      exact h.par ▸ hb
    · exact ⟨h.halted.trans hidle.1, h.inCallback.trans hidle.2⟩
    · simpa using h.instance_lt
    · intro d hd
      refine hport d ?_
      rw [ht, ← h.tape, ha.1]
      exact List.mem_cons_of_mem _ (List.mem_append_right _ hd)
  · show o.drawn + (r.2.map (Out.frameRelease e)).length + 1 + rest1.length = s.drawn + s.tape.length
    rw [List.length_map]
    omega

/-- A UTX engine has nothing to drain. -/
theorem refills_utx (h : s.Reopened o e i rest) (hk : (s.eng e).kind = .utx) {row : DvFormat}
    {d1 : Draw} (ht : s.tape = d1 :: rest) (hidle : s.idle) (hport : ∀ d ∈ s.tape, d.portOnly) :
    Refills s o o e row := by
  have hkind : (o.eng e).kind = .utx := h.eng.kind.trans hk
  refine ⟨⟨o, ?_, h.eng.channel, ?_⟩, ?_⟩
  · rw [run_rebuild_transmit (.inr hkind), run_bind, run_drainSlots_none (by rw [hkind]; decide)]
  · refine prefilling_utx hkind ⟨h.halted.trans hidle.1, h.inCallback.trans hidle.2⟩ h.instance_lt ?_
    intro d hd
    rw [h.tape] at hd
    exact hport d (by rw [ht]; exact List.mem_cons_of_mem _ hd)
  · rw [State.reach, State.reach, h.tape, h.drawn, ht, List.length_cons]
    omega

section

variable {begun : State} {row : DvFormat}

/-- A raise of the producer ends the event. -/
theorem run_halted (h : s.Reopened o e i rest) (hr : Refills s o begun e row)
    (hhalt : (begun.refilled e).halted = true) (hdrawn : (begun.refilled e).drawn ≤ s.reach) :
    exec i s = .next (begun.refilled e) := by
  obtain ⟨⟨v, hv, -, hp⟩, hreach⟩ := hr
  rw [h.exec_eq, run_bind, hv, hp.run_halted hhalt (hreach ▸ hdrawn)]
  rfl

/-- Behind the prefill the Port Engine is asked to start. -/
theorem exec_refilled (h : s.Reopened o e i rest) (hr : Refills s o begun e row)
    (hhalt : (begun.refilled e).halted = false) (htape : (begun.refilled e).tape ≠ []) :
    let u := (begun.refilled e).withOverrunPacket e row
    exec i s = .next (stepEnd (restartPort e u)) ∧ e < u.inst.length ∧
      (u.eng e).channel = (s.eng e).channel := by
  obtain ⟨⟨v, hv, hchannel, hp⟩, -⟩ := hr
  obtain ⟨hrun, hcourse⟩ := hp.run_ok hhalt htape
  refine ⟨h.exec_rebuilt (hv.trans hrun), ?_, hcourse.eng.channel.trans hchannel⟩
  rw [hcourse.instances, ← hp.course.instances]
  exact hp.instance_lt

end

end State.Reopened

/-- Settles O33: both events arm the ring, rebuild what the engine's kind has in its buffers, and ask the Port
Engine to start. -/
theorem overrunAndForcedStopRestart : Obligations.OverrunAndForcedStopRestart := by
  intro s e i d1 rest hhalt he ht hquiet hrun hi S n rearmed opened ends refills
  have h : s.Reopened opened e i rest := by
    rcases hi with rfl | rfl
    · have hopened : opened = _ := if_pos rfl
      rw [hopened]
      exact reopened_of_modEng he (by constructor <;> rfl) (exec_evOverrun_running hhalt he ht hquiet hrun)
    · have hopened : opened = _ := if_neg (by simp)
      rw [hopened]
      exact reopened_of_modEng he (by constructor <;> rfl) (exec_evForceStop_running hhalt he ht hquiet hrun)
  clear_value opened
  have hrefills : ∀ {begun : State} {row : DvFormat}, ((∀ d ∈ s.tape, d.portOnly) → s.idle →
      State.Reopened.Refills s opened begun e row) → refills begun row := by
    intro begun row hbegun hport hcall
    have hr := hbegun hport ⟨hhalt, hcall⟩
    refine ⟨fun hfull hdrawn => h.run_halted hr hfull hdrawn, fun hfull d2 rest2 htape => ?_⟩
    have htape' : (begun.refilled e).tape = d2 :: rest2 := by rwa [withOverrunPacket_tape] at htape
    obtain ⟨hexec, hlt, hchannel⟩ := h.exec_refilled hr hfull (by rw [htape']; exact List.cons_ne_nil _ _)
    exact restart_ends hexec hlt hchannel htape
  refine ⟨fun hk d2 rest2 => ?_, fun hk ds rest1 d2 rest2 ha => ?_, fun hk row ds rest1 d3 hrow hb ha => ?_,
    fun hk row => ?_⟩
  · exact restart_ends (h.exec_rebuilt (run_rebuild_urx (h.eng.kind.trans hk))) h.instance_lt h.eng.channel
  · exact restart_ends (h.exec_dvrx hk ha) (by simpa using h.instance_lt)
      (by rw [eng_modDvr, State.told_eng, h.eng.channel])
  · exact hrefills fun hport hidle => h.refills_dvtx hk ht hidle hport hrow hb ha
  · exact hrefills fun hport hidle => h.refills_utx hk ht hidle hport

end Sys2Proof.Machine
end

section
/-! PROOF. Every step keeps the ring law (obligation O36): the jump targets of a set-up engine are those of the
ring whose last segment stands before CUR_SEG (42_buffer_engine.md R169). ENG_SETUP and a rearming make the ring
of segment 0, an advance that of the next segment; `keepsEvery_moves` carries the law over a step. -/

namespace Sys2Proof.Machine

/-- The ring of `S` segments in which `c` is the current one: the segment before `c` points to the overrun
descriptor, every other one to the next segment (42_buffer_engine.md R169). -/
def ringAt (S c : Nat) : List Jump :=
  (List.range S).map fun s => if s = (c + S - 1) % S then .overrun else .start ((s + 1) % S)

theorem Eng.ringLaw_iff (g : Eng) : g.ringLaw ↔ (g.setupDone = true →
    2 ≤ g.segments.toNat ∧ g.curSeg.toNat < g.segments.toNat ∧
      g.jump = ringAt g.segments.toNat g.curSeg.toNat) := Iff.rfl

/-- The initial ring is the ring of segment 0 (R153). -/
theorem ringTargets_eq_ringAt {S : Nat} (h : 2 ≤ S) : ringTargets S = ringAt S 0 := by
  refine List.map_congr_left fun s hs => ?_
  have hlt : s < S := List.mem_range.mp hs
  have hlast : (0 + S - 1) % S = S - 1 := by rw [Nat.zero_add, Nat.mod_eq_of_lt (by omega)]
  rw [hlast]
  by_cases hs : s + 1 = S
  · rw [if_pos hs, if_pos (by omega)]
  · rw [if_neg hs, if_neg (by omega), Nat.mod_eq_of_lt (by omega)]

/-- The segment before `c` in the ring, and the one after it (R168). -/
theorem pred_succ_mod {S c : Nat} (h : c < S) :
    (c + S - 1) % S = (if c = 0 then S - 1 else c - 1) ∧ (c + 1) % S = (if c + 1 = S then 0 else c + 1) := by
  constructor
  · split
    · next h0 => rw [h0, Nat.zero_add, Nat.mod_eq_of_lt (by omega)]
    · rw [show c + S - 1 = c - 1 + S by omega, Nat.add_mod_right, Nat.mod_eq_of_lt (by omega)]
  · split
    · next hS => rw [hS, Nat.mod_self]
    · rw [Nat.mod_eq_of_lt (by omega)]

/-- Re-pointing `c` and the segment before it moves the ring on by one segment (R168). -/
theorem ringAt_repoint {S c : Nat} (hS : 2 ≤ S) (hc : c < S) :
    ((ringAt S c).set c .overrun).set ((c + S - 1) % S) (.start c) = ringAt S ((c + 1) % S) := by
  have hnext : (c + 1) % S < S := Nat.mod_lt _ (by omega)
  obtain ⟨hpred, hsucc⟩ := pred_succ_mod hc
  have hback : ((c + 1) % S + S - 1) % S = c := by
    rw [(pred_succ_mod hnext).1, hsucc]
    split <;> split <;> omega
  refine List.ext_getElem (by simp [ringAt]) fun s hs _ => ?_
  have hs : s < S := by simpa [ringAt] using hs
  have hsucc' := (pred_succ_mod hs).2
  simp only [ringAt, List.getElem_set, List.getElem_map, List.getElem_range, hback]
  by_cases hp : (c + S - 1) % S = s
  · have hstart : (s + 1) % S = c := by
      rw [hsucc']
      rw [hpred] at hp
      split at hp <;> split <;> omega
    rw [if_pos hp, hstart, if_neg]
    rw [hpred] at hp
    split at hp <;> omega
  · by_cases hcs : c = s
    · rw [if_neg hp, if_pos hcs, if_pos hcs.symm]
    · rw [if_neg hp, if_neg hcs, if_neg (Ne.symm hcs), if_neg (Ne.symm hp)]

/-- The law speaks of fields that the cycles of an engine leave as they are. -/
theorem Eng.ringLaw_of_same {x g : Eng} (h : EngSame x g) (hx : x.ringLaw) : g.ringLaw := by
  simpa only [Eng.ringLaw_iff, h.setupDone, h.segments, h.curSeg, h.jump] using hx

/-- A rearmed ring of at least two segments, at segment 0 (R153, R156). -/
theorem Eng.ringLaw_rearmed {g : Eng} (hcur : g.curSeg = 0) (hjump : g.jump = ringTargets g.segments.toNat)
    (hS : g.setupDone = true → 2 ≤ g.segments.toNat) : g.ringLaw := fun hset => by
  have hS := hS hset
  have hcur : g.curSeg.toNat = 0 := by rw [hcur]; rfl
  exact ⟨hS, by omega, by rw [hjump, hcur]; exact ringTargets_eq_ringAt hS⟩

/-- The ring law of an advanced engine (R163, R168). -/
theorem Eng.ringLaw_advance {g : Eng} (h : g.ringLaw) : (g.advance g.curSeg.toNat).ringLaw := fun hset => by
  obtain ⟨hS, hcur, hjump⟩ := h hset
  have hnext : (g.curSeg.toNat + 1) % g.segments.toNat < g.segments.toNat := Nat.mod_lt _ (by omega)
  have hcur' : (g.advance g.curSeg.toNat).curSeg.toNat = (g.curSeg.toNat + 1) % g.segments.toNat :=
    (BitVec.toNat_ofNat _ _).trans (Nat.mod_eq_of_lt (hnext.trans g.segments.isLt))
  refine ⟨hS, hcur'.trans_lt hnext, ?_⟩
  rw [hcur']
  change (g.jump.set _ _).set _ _ = _
  rw [hjump]
  exact ringAt_repoint hS hcur

/-- Each move of the transport state and of the queue keeps the law. -/
theorem Eng.ringLaw_of_move {x g : Eng} (h : EngMove x g) (hx : x.ringLaw) : g.ringLaw := by
  cases h with
  | finishSetup cbs base _ _ hS => exact Eng.ringLaw_rearmed rfl rfl fun _ => hS
  | armRing => exact Eng.ringLaw_rearmed rfl rfl fun hset => (hx hset).1
  | advance => exact Eng.ringLaw_advance hx
  | setupFailed _ _ => exact hx
  | enterRun _ _ => exact hx
  | stopPe => exact hx
  | hold => exact hx
  | restartFailed => exact hx
  | pushEvent _ _ => exact hx
  | confirmStop _ => exact hx
  | takeEvent _ _ _ _ => exact hx
  | takeFinalize _ _ => exact hx

/-- The ring of a set-up engine is out of reach of CSR_WRITE: SEGMENTS is an RWS field (10_state.md R26). -/
theorem Csr.ringLaw_store {x : Inst} (c : Csr) (w : Word) (hw : c.writable x.eng = true)
    (hx : x.eng.ringLaw) : (c.store x w).eng.ringLaw := by
  cases c with
  | engSegments =>
    have hset : x.eng.setupDone = false := by simpa [Csr.writable, Csr.access] using hw
    exact fun h => absurd (hset.symm.trans h) Bool.false_ne_true
  | _ => exact hx

theorem ringLaw_moves : InstMoves (·.eng.ringLaw) where
  reset _ h := absurd h Bool.false_ne_true
  dvt _ _ _ := id
  engSame _ _ := Eng.ringLaw_of_same
  engMove _ _ := Eng.ringLaw_of_move
  abandonFrame _ _ _ := id
  beginFrame _ _ _ _ _ _ _ _ := id
  fillFrame _ _ _ _ := id
  dispatchFrame _ _ _ := id
  dropReference _ _ := id
  endDispatch _ _ := id
  release _ _ _ _ := id
  register _ _ := id
  lawful _ _ _ := id
  allocCurrent _ _ _ := id
  deliverBuf _ _ _ _ := id
  releaseBuf _ _ _ _ := id
  csrStore _ := Csr.ringLaw_store

/-- Settles O36: the ring law of one engine is kept by every move, and so by every step. -/
theorem stepKeepsRingLaw : Obligations.StepKeepsRingLaw :=
  fun _ _ hlaw hstep => step_moves (keepsEvery_moves ringLaw_moves) hstep hlaw

end Sys2Proof.Machine
end

section
/-! PROOF. ENG_SETUP, the refusals of ENG_START, ENG_STOP and ENG_SET_WATCHDOG (obligations O23, O25, O27 and
O28): each exit of their pseudocode in its order (42_buffer_engine.md R151 to R158, R174). -/

namespace Sys2Proof.Machine

variable {e : Nat} {s : State}

/-! ### `nextPow2` (42_buffer_engine.md R152) -/

/-- Doubling from a power of two below every power that reaches `m` ends at the least that does. -/
theorem doubleUntil_least {m : Nat} : ∀ (fuel i : Nat), m ≤ 2 ^ (i + fuel) → (∀ j, m ≤ 2 ^ j → i ≤ j) →
    ∃ k, doubleUntil m fuel (2 ^ i) = 2 ^ k ∧ m ≤ 2 ^ k ∧ ∀ j, m ≤ 2 ^ j → k ≤ j
  | 0, i, hm, hi => ⟨i, rfl, hm, hi⟩
  | fuel + 1, i, hm, hi => by
    by_cases h : m ≤ 2 ^ i
    · exact ⟨i, if_pos h, h, hi⟩
    · have hstep : doubleUntil m (fuel + 1) (2 ^ i) = doubleUntil m fuel (2 ^ (i + 1)) := by
        rw [doubleUntil, if_neg h, Nat.pow_succ']
      rw [hstep]
      refine doubleUntil_least fuel (i + 1) (by rwa [Nat.add_right_comm]) fun j hj => ?_
      exact Nat.lt_of_le_of_ne (hi j hj) fun hij => h (hij ▸ hj)

theorem nextPow2_least (m : Nat) :
    ∃ i, nextPow2 m = 2 ^ i ∧ m ≤ 2 ^ i ∧ ∀ j, m ≤ 2 ^ j → i ≤ j :=
  doubleUntil_least m 0 (by rw [Nat.zero_add]; exact Nat.lt_two_pow_self.le) fun _ _ => Nat.zero_le _

/-! ### ENG_SETUP (R151) -/

/-- A region in BUF and apart from the live ones and from the transmit frames (20_memory.md R69). -/
theorem State.allocatable_of_apart {b size : Nat} (hbuf : b + size ≤ s.par.bufBytes)
    (hregions : ∀ r ∈ s.regions, b + size ≤ r.1 ∨ r.1 + r.2 ≤ b)
    (hframes : ∀ x ∈ s.inst, x.eng.kind = .dvtx → ∀ row, s.par.dvRow x.dvt.dvMode = some row →
      b + size ≤ x.dvt.txFrameBase.toNat ∨ x.dvt.txFrameBase.toNat + s.par.fTx * row.frameSize ≤ b) :
    s.allocatable (b, size) = true := by
  have hdisjoint : ∀ r : Nat × Nat, b + size ≤ r.1 ∨ r.1 + r.2 ≤ b → rangesDisjoint (b, size) r = true :=
    fun r hr => by
      rcases hr with hr | hr <;> simp [rangesDisjoint, hr]
  simp only [State.allocatable, Bool.and_eq_true, decide_eq_true_eq, List.all_eq_true]
  refine ⟨⟨hbuf, fun r hr => hdisjoint r (hregions r hr)⟩, fun r hr => hdisjoint r ?_⟩
  obtain ⟨x, hx, hrange⟩ := List.mem_filterMap.mp hr
  unfold Inst.txRange at hrange
  split at hrange
  · next hk hrow =>
    cases hrange
    exact hframes x hx hk _ hrow
  · cases hrange

theorem run_peAllocProgram {S N cbs : Nat} {d : Draw} {ds : List Draw} (h : s.tape = d :: ds) :
    peAllocProgram e S N cbs s = .ok (drawAgrees d) ((s.emit (.allocProgram e S N cbs)).takeDraw ds) := by
  rw [peAllocProgram, run_bind, run_request_tape h]
  rfl

section

variable {d1 d2 : Draw} {rest : List Draw}

theorem run_engSetup_again (h : (s.eng e).setupDone = true ∨ (s.eng e).fatal = true) :
    engSetupBody e s = .ok (some .error) s := by
  rw [engSetupBody, run_bind, run_getEng]
  dsimp only
  rw [run_ite, if_pos h, run_answer]

theorem run_engSetup_illegal (h : ¬ ((s.eng e).setupDone = true ∨ (s.eng e).fatal = true))
    (hconf : (s.eng e).segments.toNat < 2 ∨ (s.eng e).cyclesPerSeg.toNat < 1 ∨
      (s.eng e).minPayload.toNat < 1) : engSetupBody e s = .ok (some .badArgument) s := by
  rw [engSetupBody, run_bind, run_getEng]
  dsimp only
  rw [run_ite, if_neg h, run_ite, if_pos hconf, run_answer]

/-- The bytes that an ENG_SETUP of this configuration asks for. -/
abbrev Eng.wantedSize (g : Eng) : Nat := g.regionSize (nextPow2 g.minPayload.toNat)

/-- An ENG_SETUP that gets as far as the size of the region. -/
structure Eng.Configured (g : Eng) : Prop where
  fresh : ¬ (g.setupDone = true ∨ g.fatal = true)
  legal : ¬ (g.segments.toNat < 2 ∨ g.cyclesPerSeg.toNat < 1 ∨ g.minPayload.toNat < 1)

theorem run_engSetup_tooLarge (h : (s.eng e).Configured) (hsize : 2 ^ 32 - 1 < (s.eng e).wantedSize) :
    engSetupBody e s = .ok (some .noMemory) (s.modEng e (fun g => { g with fatal := true })) := by
  rw [engSetupBody, run_bind, run_getEng]
  dsimp only
  rw [run_ite, if_neg h.fresh, run_ite, if_neg h.legal, run_ite, if_pos hsize, run_bind, run_modEng]
  rfl

theorem run_engSetup_noRegion (h : (s.eng e).Configured) (hsize : ¬ 2 ^ 32 - 1 < (s.eng e).wantedSize)
    (ht : s.tape = d1 :: rest) (hd : d1.status ≠ 0) :
    engSetupBody e s = .ok (some .noMemory) ((s.told [.alloc e (s.eng e).wantedSize] rest).modEng e
      (fun g => { g with fatal := true })) := by
  rw [engSetupBody, run_bind, run_getEng]
  dsimp only
  rw [run_ite, if_neg h.fresh, run_ite, if_neg h.legal, run_ite, if_neg hsize, run_bind, run_alloc ht,
    if_neg fun h => hd h.1]
  rfl

/-- The region is allocated and its program asked for (R151). -/
def State.programAsked (s : State) (e : Nat) (base : Word) (rest : List Draw) : State :=
  (s.told [.alloc e (s.eng e).wantedSize, .allocProgram e (s.eng e).segments.toNat
    (s.eng e).cyclesPerSeg.toNat (nextPow2 (s.eng e).minPayload.toNat)] rest).addRegion
      (base.toNat, (s.eng e).wantedSize)

theorem run_engSetup_program (h : (s.eng e).Configured) (hsize : ¬ 2 ^ 32 - 1 < (s.eng e).wantedSize)
    (ht : s.tape = d1 :: d2 :: rest) (hd : d1.status = 0)
    (hfree : s.allocatable (d1.word.toNat, (s.eng e).wantedSize) = true) :
    engSetupBody e s =
      if d2.status = 0 then
        .ok (some .success) ((((s.programAsked e d1.word rest).modEng e
          (·.finishSetup (nextPow2 (s.eng e).minPayload.toNat) d1.word)).setRes0
            (BitVec.ofNat 32 (nextPow2 (s.eng e).minPayload.toNat))).setRes1 d1.word)
      else .ok (some .error) ((s.programAsked e d1.word rest).modEng e (fun g => { g with fatal := true })) := by
  have hasked : (((((s.emit (.alloc e (s.eng e).wantedSize)).takeDraw (d2 :: rest)).addRegion
      (d1.word.toNat, (s.eng e).wantedSize)).emit (.allocProgram e (s.eng e).segments.toNat
        (s.eng e).cyclesPerSeg.toNat (nextPow2 (s.eng e).minPayload.toNat))).takeDraw rest) =
          s.programAsked e d1.word rest := by
    simp [State.emit, State.takeDraw, State.addRegion, State.programAsked, State.told]
  rw [engSetupBody, run_bind, run_getEng]
  dsimp only
  rw [run_ite, if_neg h.fresh, run_ite, if_neg h.legal, run_ite, if_neg hsize, run_bind, run_alloc ht,
    if_pos ⟨hd, hfree⟩]
  dsimp only
  rw [run_bind, run_peAllocProgram (d := d2) (ds := rest) rfl, hasked]
  dsimp only
  by_cases hd2 : d2.status = 0
  · rw [run_ite, if_pos (by simp [drawAgrees, hd2]), if_pos hd2]
    rfl
  · rw [run_ite, if_neg (by simpa [drawAgrees] using hd2), if_neg hd2]
    rfl

end

/-- Settles O23: each exit of ENG_SETUP, in the order of its pseudocode. -/
theorem setupResult : Obligations.SetupResult := by
  refine ⟨fun m _ => nextPow2_least m, ?_⟩
  intro s e d1 d2 rest hidle he ht g S N cbs size discarded s1 b apart s2 hfree
  have hrun : exec (.engSetup e) s = .next (endCommand (engSetupBody e s)) :=
    asCommand_run_instance rfl hidle.1 he (.inl hidle.2)
  rw [hrun]
  refine congrArg Host.Outcome.next ?_
  by_cases hset : g.setupDone = true ∨ g.fatal = true
  · rw [if_pos hset, run_engSetup_again hset]
    rfl
  rw [if_neg hset]
  by_cases hconf : S < 2 ∨ N < 1 ∨ g.minPayload.toNat < 1
  · rw [if_pos hconf, run_engSetup_illegal hset hconf]
    rfl
  have h : (s.eng e).Configured := ⟨hset, hconf⟩
  rw [if_neg hconf]
  by_cases hsize : 2 ^ 32 - 1 < size
  · rw [if_pos hsize, run_engSetup_tooLarge h hsize]
    rfl
  rw [if_neg hsize]
  by_cases hd1 : d1.status = 0
  case neg =>
    rw [if_pos hd1, run_engSetup_noRegion h hsize ht hd1]
    rfl
  obtain ⟨hbuf, hregions, hframes⟩ := hfree hd1
  rw [if_neg fun hd => hd hd1,
    run_engSetup_program h hsize ht hd1 (State.allocatable_of_apart hbuf hregions hframes)]
  by_cases hd2 : d2.status = 0
  · rw [if_pos hd2, if_neg fun hd => hd hd2]
    rfl
  · rw [if_neg hd2, if_pos hd2]
    rfl

/-! ### ENG_START refused (R154, R155) -/

theorem startChecks_eq_false {p : Params} {x : Inst}
    (h : x.eng.kind = .dvrx ∧ p.dvRow x.dvr.dvMode = none ∨
      x.eng.kind = .dvtx ∧ p.dvRow x.dvt.dvMode = none ∨
      x.eng.kind = .dvtx ∧ (∃ row, p.dvRow x.dvt.dvMode = some row ∧
        ¬ (0 < row.blk ∧ row.frameSize % row.blk = 0 ∧ x.dvt.blocksPerCycle.toNat * row.blk ≤ row.frameSize ∧
          8 + x.dvt.blocksPerCycle.toNat * row.blk ≤ x.eng.cycleBufSize.toNat ∧
          x.dvt.txFrameBase.toNat + p.fTx * row.frameSize ≤ p.bufBytes)) ∨
      x.eng.kind = .utx ∧ x.eng.cycleBufSize.toNat < 8) : startChecks p x = false := by
  unfold startChecks
  rcases h with ⟨hk, hrow⟩ | ⟨hk, hrow⟩ | ⟨hk, row, hrow, hbad⟩ | ⟨hk, hsize⟩
  · rw [hk]; simp [hrow]
  · rw [hk]; simp [hrow]
  · rw [hk]; simp only [hrow]; exact decide_eq_false hbad
  · rw [hk]; exact decide_eq_false (Nat.not_le.mpr hsize)

section

variable (hset : (s.eng e).setupDone = true) (hfatal : (s.eng e).fatal = false)

theorem run_engStart_notReady (h : (s.eng e).setupDone = false ∨ (s.eng e).fatal = true) :
    engStartBody e s = .ok (some .error) s := by
  rw [engStartBody, run_bind, run_getState]
  dsimp only
  rw [run_ite, if_pos h, run_answer]

include hset hfatal

theorem run_engStart_running (hrun : (s.eng e).running = true) :
    engStartBody e s = .ok (some .exclusiveAccess) s := by
  rw [engStartBody, run_bind, run_getState]
  dsimp only
  rw [run_ite, if_neg (by simp [hset, hfatal]), run_ite, if_pos hrun, run_answer]

theorem run_engStart_unfit (hrun : (s.eng e).running = false)
    (hchecks : startChecks s.par (s.instAt e) = false) :
    engStartBody e s = .ok (some .badArgument) s := by
  rw [engStartBody, run_bind, run_getState]
  dsimp only
  rw [run_ite, if_neg (by simp [hset, hfatal]), run_ite, if_neg (by simp [hrun]), run_ite, if_pos hchecks,
    run_answer]

end

/-- Settles O25: the checks of ENG_START in their order. -/
theorem startRefused : Obligations.StartRefused := by
  intro s e hidle he g x
  have hrun : exec (.engStart e) s = .next (endCommand (engStartBody e s)) :=
    asCommand_run_instance rfl hidle.1 he (.inl hidle.2)
  refine ⟨fun h => ?notReady, fun hset hfatal hbusy => ?running, fun hset hfatal hbusy hunfit => ?unfit⟩
  case notReady => rw [hrun, run_engStart_notReady h]; rfl
  case running => rw [hrun, run_engStart_running hset hfatal hbusy]; rfl
  case unfit => rw [hrun, run_engStart_unfit hset hfatal hbusy (startChecks_eq_false hunfit)]; rfl

/-! ### ENG_STOP and ENG_SET_WATCHDOG (R158, R174) -/

theorem run_engStop_stopped (h : (s.eng e).running = false) :
    engStopBody e s = .ok (some .exclusiveAccess) s := by
  rw [engStopBody, run_bind, run_getEng]
  dsimp only
  rw [run_ite, if_pos h, run_answer]

/-- The Port Engine is stopped, and the command holds with no status (R158; log 17). -/
theorem run_engStop_running (h : (s.eng e).running = true) :
    engStopBody e s = .ok none ((s.modEng e (fun g =>
      { g with
        wdArmed := false, peRunning := false, peStops := g.peStops + 1
        finalizeOwed := g.finalizeOwed + 1, running := false, stopHold := true })).emit (.peStop e)) := by
  rw [engStopBody, run_bind, run_getEng]
  dsimp only
  rw [run_ite, if_neg (by simp [h]), run_bind, run_modEng]
  dsimp only
  rw [run_bind, run_peStop]
  dsimp only
  rw [run_bind, run_modEng]
  simp only [modEng_emit, modEng_modEng]
  rfl

/-- Settles O27: the two exits of ENG_STOP. -/
theorem stopResult : Obligations.StopResult := by
  intro s e hidle he
  have hrun : exec (.engStop e) s = .next (endCommand (engStopBody e s)) :=
    asCommand_run_instance rfl hidle.1 he (.inl hidle.2)
  refine ⟨fun h => ?_, fun h => ?_⟩
  · rw [hrun, run_engStop_running h]; rfl
  · rw [hrun, run_engStop_stopped h]; rfl

theorem run_engSetWatchdog (s : State) (e : Nat) : engSetWatchdogBody e s =
    if 1 < s.arg0.toNat then .ok (some .badArgument) s
    else .ok (some .success) (s.modEng e (·.setWatchdog (s.arg0 == 1))) := by
  rw [engSetWatchdogBody, run_bind, run_getState]
  dsimp only
  rw [run_ite, run_bind, run_modEng]
  rfl

theorem Kind.isReceive_iff (k : Kind) : k.isReceive = true ↔ k = .dvrx ∨ k = .urx := by
  cases k <;> simp [Kind.isReceive]

/-- A registration arms the watchdog of a running receive engine (R174). -/
theorem Eng.setWatchdog_true (g : Eng) : g.setWatchdog true =
    { g with
      wdRegistered := true
      wdArmed := if g.running = true ∧ (g.kind = .dvrx ∨ g.kind = .urx) then true else g.wdArmed } := by
  have harmed : (g.wdArmed || (g.running && g.kind.isReceive)) =
      if g.running = true ∧ (g.kind = .dvrx ∨ g.kind = .urx) then true else g.wdArmed := by
    simp only [← Kind.isReceive_iff, ← Bool.and_eq_true]
    cases g.running && g.kind.isReceive <;> simp
  rw [Eng.setWatchdog, if_pos rfl, harmed]

/-- Settles O28: the two operands that ENG_SET_WATCHDOG takes, and the others. -/
theorem setWatchdogResult : Obligations.SetWatchdogResult := by
  intro s e hhalt he
  have hrun : exec (.engSetWatchdog e) s = .next (endCommand (engSetWatchdogBody e s)) :=
    asCommand_run_instance rfl hhalt he (.inr rfl)
  rw [hrun, run_engSetWatchdog]
  refine congrArg Host.Outcome.next ?_
  by_cases hbad : 1 < s.arg0.toNat
  · rw [if_pos hbad, if_pos hbad]
    rfl
  rw [if_neg hbad, if_neg hbad]
  by_cases hone : s.arg0 = 1
  · rw [if_pos hone, beq_iff_eq.mpr hone, funext Eng.setWatchdog_true]
    rfl
  · rw [if_neg hone, beq_eq_false_iff_ne.mpr hone]
    rfl

end Sys2Proof.Machine
end

section
/-! PROOF. What a client does inside its callback, whatever it does: each act is the one that `State.clientDoes`
describes, a raise ends them, and the callback returns or is abandoned (60_exceptions.md R315, R318, R319;
70_reset_and_hazards.md R341). -/

namespace Sys2Proof.Machine

/-! ### Computations that no reset cuts short -/

/-- The computation keeps the block in the callback it is in and halts it only by a raise, and no reset falls
in it. -/
structure Contained {α : Type} (m : M α) : Prop where
  raises : ∀ s c t, m s = .error c t → c = .fault ∧ t.halted = true
  keeps : ∀ s a t, m s = .ok a t → t.halted = s.halted ∧ t.inCallback = s.inCallback

section

variable {α β : Type}

theorem contained_bind {m : M α} {k : α → M β} (hm : Contained m) (hk : ∀ a, Contained (k a)) :
    Contained (m >>= k) := by
  constructor
  · intro s c t h
    rw [run_bind] at h
    cases hr : m s with
    | ok a u => rw [hr] at h; exact (hk a).raises u c t h
    | error r u => rw [hr] at h; cases h; exact hm.raises s c t hr
  · intro s b t h
    rw [run_bind] at h
    cases hr : m s with
    | ok a u =>
      rw [hr] at h
      obtain ⟨hhalt, hcall⟩ := hm.keeps s a u hr
      obtain ⟨hhalt', hcall'⟩ := (hk a).keeps u b t h
      exact ⟨hhalt'.trans hhalt, hcall'.trans hcall⟩
    | error r u => rw [hr] at h; cases h

theorem contained_ite {c : Prop} [Decidable c] {m n : M α} (hm : Contained m) (hn : Contained n) :
    Contained (if c then m else n) := by split <;> assumption

theorem contained_pure (a : α) : Contained (pure a : M α) :=
  ⟨fun _ _ _ h => (by cases h), fun _ _ _ h => by cases h; exact ⟨rfl, rfl⟩⟩

theorem contained_answer (c : Status) : Contained (answer c) := contained_pure _

theorem contained_getState : Contained getState :=
  ⟨fun _ _ _ h => (by cases h), fun _ _ _ h => by cases h; exact ⟨rfl, rfl⟩⟩

theorem contained_update {f : State → State}
    (h : ∀ s, (f s).halted = s.halted ∧ (f s).inCallback = s.inCallback) : Contained (update f) :=
  ⟨fun _ _ _ h => (by cases h), fun s _ _ ht => by cases ht; exact h s⟩

theorem contained_raise (f : BlockFault) : Contained (raise f : M α) :=
  ⟨fun _ _ _ h => (by cases h; exact ⟨rfl, rfl⟩), fun _ _ _ h => by cases h⟩

theorem contained_chk (t : Word) : Contained (chk t) := contained_ite (contained_pure ()) (contained_raise _)

theorem contained_memRead (a n : Nat) : Contained (memRead a n) := by
  have h : memRead a n = getState >>= fun s =>
      if a + n ≤ s.par.bufBytes then pure (s.readBytes a n) else raise (.badAddress a n) := by
    funext s
    rw [run_bind, run_getState]
    dsimp only
    rw [run_ite]
    rfl
  rw [h]
  exact contained_bind contained_getState fun _ => contained_ite (contained_pure _) (contained_raise _)

theorem contained_memWrite (a : Nat) (bytes : List Byte) : Contained (memWrite a bytes) := by
  have h : memWrite a bytes = getState >>= fun s =>
      if a + bytes.length ≤ s.par.bufBytes then update (·.writeBytes a bytes)
      else raise (.badAddress a bytes.length) := by
    funext s
    rw [run_bind, run_getState]
    dsimp only
    rw [run_ite]
    rfl
  rw [h]
  exact contained_bind contained_getState fun _ =>
    contained_ite (contained_update fun _ => ⟨rfl, rfl⟩) (contained_raise _)

theorem contained_modEng (e : Nat) (g : Eng → Eng) : Contained (modEng e g) :=
  contained_update fun _ => ⟨rfl, rfl⟩
theorem contained_modDvr (e : Nat) (g : Dvr → Dvr) : Contained (modDvr e g) :=
  contained_update fun _ => ⟨rfl, rfl⟩
theorem contained_modTs (e : Nat) (g : Ts → Ts) : Contained (modTs e g) :=
  contained_update fun _ => ⟨rfl, rfl⟩

theorem contained_writeRes0 (v : Word) : Contained (writeRes0 v) := contained_update fun _ => ⟨rfl, rfl⟩
theorem contained_writeRes1 (v : Word) : Contained (writeRes1 v) := contained_update fun _ => ⟨rfl, rfl⟩
theorem contained_writeRes2 (v : Word) : Contained (writeRes2 v) := contained_update fun _ => ⟨rfl, rfl⟩
theorem contained_writeRes3 (v : Word) : Contained (writeRes3 v) := contained_update fun _ => ⟨rfl, rfl⟩

/-- A nested command (60_exceptions.md R319). -/
theorem contained_nestedBody (i : Instr) : Contained (nestedBody i) := by
  unfold nestedBody isCipBody parseCipBody buildCipBody ctAddBody ctDeltaBody ctIndexBody csrReadBody
    dvrReleaseBody tsReleasePesBody engSetWatchdogBody
  dsimp only
  repeat first
    | with_reducible exact contained_getState
    | with_reducible exact contained_answer _
    | with_reducible exact contained_raise _
    | with_reducible exact contained_chk _
    | with_reducible exact contained_memRead _ _
    | with_reducible exact contained_memWrite _ _
    | with_reducible exact contained_writeRes0 _
    | with_reducible exact contained_writeRes1 _
    | with_reducible exact contained_writeRes2 _
    | with_reducible exact contained_writeRes3 _
    | with_reducible exact contained_modDvr _ _
    | with_reducible exact contained_modTs _ _
    | with_reducible exact contained_modEng _ _
    | with_reducible refine contained_ite ?_ ?_
    | with_reducible refine contained_bind ?_ fun _ => ?_
    | split

theorem contained_runCommand (i : Instr) {body : M (Option Status)} (h : Contained body) :
    Contained (runCommand i body) := by
  constructor
  · intro s c t ht
    unfold runCommand at ht
    split at ht
    · cases ht
    split at ht
    · exact (contained_raise _).raises s c t ht
    · cases hb : body s with
      | ok b u => rw [hb] at ht; cases b <;> cases ht
      | error r u => rw [hb] at ht; cases ht; exact h.raises s c t hb
  · intro s a t ht
    unfold runCommand at ht
    split at ht
    · cases ht; exact ⟨rfl, rfl⟩
    split at ht
    · cases ht
    · cases hb : body s with
      | ok b u =>
        rw [hb] at ht
        have hkeeps := h.keeps s b u hb
        cases b <;> cases ht <;> exact hkeeps
      | error r u => rw [hb] at ht; cases ht

end

/-! ### Acts of a client -/

/-- A computation that no reset cuts short, by the state it ends in. -/
theorem Contained.run_unit {m : M Unit} (h : Contained m) {s : State} (hs : s.halted = false) :
    m s = if (finalState (m s)).halted then .error .fault (finalState (m s)) else .ok () (finalState (m s)) := by
  cases hr : m s with
  | ok a t => rw [finalState_ok, if_neg (by simp [(h.keeps s a t hr).1, hs])]
  | error c t =>
    obtain ⟨rfl, hhalt⟩ := h.raises s c t hr
    rw [finalState_error, if_pos hhalt]

/-- A command allowed inside a callback is its nested pseudocode (60_exceptions.md R319). -/
theorem exec_nestable {i : Instr} (h : nestable i = true) (s : State) :
    exec i s = asCommand i (nestedBody i) s := by
  cases i <;> first | rfl | cases h

/-- Any other raises there, or answers BadArgument, before its pseudocode. -/
theorem runCommand_not_nestable {i : Instr} (h : nestable i = false) (b c : M (Option Status)) {s : State}
    (hs : 0 < s.inCallback) : runCommand i b s = runCommand i c s := by
  simp [runCommand, h, hs]

/-- A command that a client issues is the command (R319, R320). -/
theorem exec_inCallback {i : Instr} (hi : i.isEvent = false) {s : State} (hhalt : s.halted = false)
    (hs : 0 < s.inCallback) : exec i s = .next (finalState (runCommand i (nestedBody i) s)) := by
  have hrun : exec i s = asCommand i (nestedBody i) s := by
    cases hn : nestable i with
    | true => exact exec_nestable hn s
    | false =>
      obtain ⟨body, hbody⟩ := exec_command hi
      rw [hbody, asCommand, asCommand, runCommand_not_nestable hn body (nestedBody i) hs]
  rw [hrun, asCommand, if_neg (by simp [hhalt])]
  have hc := contained_runCommand i (contained_nestedBody i)
  cases hr : runCommand i (nestedBody i) s with
  | ok a t => rfl
  | error c t => obtain ⟨rfl, -⟩ := hc.raises s c t hr; rfl

theorem contained_clientAct (a : HostAct) : Contained (clientAct a) := by
  unfold clientAct
  split
  · refine contained_bind (contained_update fun _ => ⟨rfl, rfl⟩) fun _ => ?_
    split
    · exact contained_runCommand _ (contained_nestedBody _)
    · exact contained_update fun _ => ⟨rfl, rfl⟩
  · exact contained_update fun s => by next r _ _ => cases r <;> exact ⟨rfl, rfl⟩
  · exact contained_memWrite _ _
  · exact contained_bind (contained_memRead _ _) fun _ => contained_pure _
  · exact contained_pure _

theorem finalState_clientAct (a : HostAct) {s : State} (hhalt : s.halted = false) (hs : 0 < s.inCallback) :
    finalState (clientAct a s) = s.clientDoes a := by
  cases a with
  | read r => rfl
  | poke a b =>
    rw [clientAct, run_portWrite, State.clientDoes]
    split <;> rfl
  | peek a =>
    rw [clientAct, run_portRead, State.clientDoes]
    split <;> rfl
  | write r v =>
    cases r with
    | cmd =>
      simp only [clientAct, nestedCommand, State.clientDoes, run_bind, run_update]
      cases hw : decodeCommand v with
      | error _ => rfl
      | ok i =>
        dsimp only
        rw [exec_inCallback (s := { s with cmd := v }) (decodeCommand_ok hw).2 hhalt hs]
        rfl
    | _ => rfl

theorem run_clientAct (a : HostAct) {s : State} (hhalt : s.halted = false) (hs : 0 < s.inCallback) :
    clientAct a s = if (s.clientDoes a).halted then .error .fault (s.clientDoes a)
      else .ok () (s.clientDoes a) := by
  have hrun := (contained_clientAct a).run_unit hhalt
  rwa [finalState_clientAct a hhalt hs] at hrun

theorem State.clientRan_cons (s : State) (a : HostAct) (acts : List HostAct) (hs : s.halted = false) :
    s.clientRan (a :: acts) = (s.clientDoes a).clientRan acts := by
  simp [State.clientRan, hs]

theorem State.clientRan_halted {s : State} (hs : s.halted = true) (acts : List HostAct) :
    s.clientRan acts = s := by
  induction acts with
  | nil => rfl
  | cons a acts ih =>
    rw [State.clientRan, List.foldl_cons, if_pos hs]
    exact ih

/-- Everything a client does: it ends where an act raises (R315). -/
theorem run_clientActs (acts : List HostAct) {s : State} (hhalt : s.halted = false) (hs : 0 < s.inCallback) :
    clientActs acts s = (if (s.clientRan acts).halted then .error .fault (s.clientRan acts)
        else .ok () (s.clientRan acts)) ∧
      ((s.clientRan acts).halted = false → (s.clientRan acts).inCallback = s.inCallback) := by
  induction acts generalizing s with
  | nil =>
    rw [State.clientRan, List.foldl_nil, if_neg (by simp [hhalt])]
    exact ⟨rfl, fun _ => rfl⟩
  | cons a acts ih =>
    have hact := run_clientAct a hhalt hs
    rw [State.clientRan_cons s a acts hhalt, clientActs, run_bind]
    cases hd : (s.clientDoes a).halted with
    | true =>
      rw [hd, if_pos rfl] at hact
      rw [hact, State.clientRan_halted hd, hd]
      exact ⟨rfl, fun h => absurd h (by decide)⟩
    | false =>
      rw [hd, if_neg (by decide)] at hact
      obtain ⟨-, hcall⟩ := (contained_clientAct a).keeps s _ _ hact
      obtain ⟨hrun, hcall'⟩ := ih hd (hcall ▸ hs)
      rw [hact]
      exact ⟨hrun, fun h => (hcall' h).trans hcall⟩

/-! ### A callback -/

section

variable {s : State} {o : Out} {d : Draw} {rest : List Draw}

theorem State.called_inCallback (hhalt : s.halted = false) (h : (s.called o d rest).halted = false) :
    (s.called o d rest).inCallback = s.inCallback + 1 :=
  (run_clientActs d.acts (s := (s.enterCallback o).takeDraw rest) hhalt (Nat.succ_pos _)).2 h

/-- A callback that the tape answers: its client may raise or be cut off by a reset, and else returns. -/
theorem run_callback_called (hhalt : s.halted = false) (ht : s.tape = d :: rest) :
    callback o s = if (s.called o d rest).halted then .error .fault (s.called o d rest)
      else if d.reset then .error .reset (s.called o d rest)
      else .ok d (s.called o d rest).leaveCallback := by
  have hacts : clientActs d.acts ((s.enterCallback o).takeDraw rest) =
      if (s.called o d rest).halted then .error .fault (s.called o d rest)
      else .ok () (s.called o d rest) :=
    (run_clientActs d.acts (s := (s.enterCallback o).takeDraw rest) hhalt (Nat.succ_pos _)).1
  rw [callback, run_bind, run_update]
  dsimp only
  rw [run_bind, run_draw_tape (s := s.enterCallback o) ht]
  dsimp only
  rw [run_bind, hacts]
  cases (s.called o d rest).halted with
  | true => rfl
  | false => cases d.reset <;> simp

theorem run_notify_called (hhalt : s.halted = false) (ht : s.tape = d :: rest) :
    notify o s = if (s.called o d rest).halted then .error .fault (s.called o d rest)
      else if d.reset then .error .reset (s.called o d rest)
      else .ok () (s.called o d rest).leaveCallback := by
  rw [notify, run_bind, run_callback_called hhalt ht]
  cases (s.called o d rest).halted with
  | true => rfl
  | false => cases d.reset <;> rfl

end

end Sys2Proof.Machine
end

section
/-! PROOF. Events of a stopped engine and out of order, the timers' events, EV_FINALIZE and the validation of a
transmit segment's time stamp (obligations O29, O32, O34 and O35; 42_buffer_engine.md R159 to R175). -/

namespace Sys2Proof.Machine

variable {e : Nat} {s : State}

/-- A raise in a block that was not halted (60_exceptions.md R314). -/
theorem takeFault_eq (hhalt : s.halted = false) (f : BlockFault) :
    s.takeFault f = { s with halted := true, faults := f.flag s.faults, faultInfo := some f } := by
  rw [State.takeFault, hhalt]
  rfl

/-! ### Events dropped or out of order (R162, R170) -/

section

variable (h : (s.eng e).running = false)

include h

theorem run_evSegment_stopped (seg : Nat) : evSegmentBody e seg s = .ok () s := by
  rw [evSegmentBody, run_bind, run_getEng]
  dsimp only
  rw [run_ite, if_pos h, run_pure]

theorem run_evOverrun_stopped : evOverrunBody e s = .ok () s := by
  rw [evOverrunBody, run_bind, run_getEng]
  dsimp only
  rw [run_ite, if_pos h, run_pure]

theorem run_evForceStop_stopped : evForceStopBody e s = .ok () s := by
  rw [evForceStopBody, run_bind, run_getEng]
  dsimp only
  rw [run_ite, if_pos h, run_pure]

end

theorem run_evWatchdog_dropped (h : (s.eng e).running = false ∨ (s.eng e).wdArmed = false) :
    evWatchdogBody e s = .ok () s := by
  rw [evWatchdogBody, run_bind, run_getEng]
  dsimp only
  rw [run_ite, if_pos h, run_pure]

theorem run_evSegment_outOfOrder {seg : Nat} (h : (s.eng e).running = true)
    (hseg : seg ≠ (s.eng e).curSeg.toNat) :
    evSegmentBody e seg s = .error .fault (s.takeFault (.segOrder seg (s.eng e).curSeg.toNat)) := by
  rw [evSegmentBody, run_bind, run_getEng]
  dsimp only
  rw [run_ite, if_neg (by simp [h]), run_ite, if_pos hseg, run_raise]

/-- Settles O29: a stopped engine drops its events, and a running one takes no other segment than CUR_SEG. -/
theorem eventsDroppedOrOutOfOrder : Obligations.EventsDroppedOrOutOfOrder := by
  intro s e n hhalt he
  have hevent : ∀ body : M Unit, asEvent e body s = .next (stepEnd (body s)) := fun body =>
    asEvent_run hhalt he
  refine ⟨fun h => ⟨?_, ?_, ?_, ?_⟩, fun h hn => ?_⟩
  · exact (hevent _).trans (by rw [run_evSegment_stopped h]; rfl)
  · exact (hevent _).trans (by rw [run_evOverrun_stopped h]; rfl)
  · exact (hevent _).trans (by rw [run_evForceStop_stopped h]; rfl)
  · exact (hevent _).trans (by rw [run_evWatchdog_dropped (.inl h)]; rfl)
  · exact (hevent _).trans (by rw [run_evSegment_outOfOrder h hn, stepEnd_fault, takeFault_eq hhalt]; rfl)

/-! ### The timers' events (R160, R175) -/

theorem run_evPollTimeout (s : State) (e : Nat) : evPollTimeoutBody e s =
    if (s.eng e).stopHold then .error .fault (s.takeFault (.finalizeTimeout e)) else .ok () s := by
  rw [evPollTimeoutBody, run_bind, run_getEng]
  dsimp only
  rw [run_ite]
  rfl

/-- The watchdog is armed again where it is registered (R175). -/
def Eng.rearmedWatchdog (g : Eng) : Eng := { g with wdArmed := g.wdArmed || g.wdRegistered }

section

variable {d : Draw} {rest : List Draw}

/-- EV_WATCHDOG of a running engine whose watchdog is armed, whatever its client does. -/
theorem run_evWatchdog (hhalt : s.halted = false) (ht : s.tape = d :: rest)
    (hrun : (s.eng e).running = true) (harmed : (s.eng e).wdArmed = true) :
    evWatchdogBody e s =
      if (s.called (.engMsg e .noData none) d rest).halted then
        .error .fault (s.called (.engMsg e .noData none) d rest)
      else if d.reset then .error .reset (s.called (.engMsg e .noData none) d rest)
      else .ok () ((s.called (.engMsg e .noData none) d rest).leaveCallback.modEng e Eng.rearmedWatchdog) := by
  rw [evWatchdogBody, run_bind, run_getEng]
  dsimp only
  rw [run_ite, if_neg (by simp [hrun, harmed]), run_bind, engMsg, run_notify_called hhalt ht]
  cases (s.called (.engMsg e .noData none) d rest).halted with
  | true => rfl
  | false => cases d.reset <;> rfl

/-- The end of such an event: by a raise, by a reset, or with the watchdog armed again. -/
theorem exec_evWatchdog (hhalt : s.halted = false) (he : e < s.inst.length) (ht : s.tape = d :: rest)
    (hrun : (s.eng e).running = true) (harmed : (s.eng e).wdArmed = true) :
    let ran := s.called (.engMsg e .noData none) d rest
    exec (.evWatchdog e) s = .next (if ran.halted then ran else if d.reset then ran.resetBlock
      else { ran.modEng e Eng.rearmedWatchdog with inCallback := s.inCallback }) := by
  intro ran
  have hexec : exec (.evWatchdog e) s = .next (stepEnd (evWatchdogBody e s)) := asEvent_run hhalt he
  rw [hexec, run_evWatchdog hhalt ht hrun harmed]
  refine congrArg Host.Outcome.next ?_
  have hcall : ran.halted = false → ran.inCallback = s.inCallback + 1 := State.called_inCallback hhalt
  change stepEnd (if ran.halted then .error .fault ran else if d.reset then .error .reset ran
    else .ok () (ran.leaveCallback.modEng e Eng.rearmedWatchdog)) = _
  cases hran : ran.halted with
  | true => rfl
  | false =>
    cases d.reset with
    | true => rfl
    | false =>
      show ran.leaveCallback.modEng e Eng.rearmedWatchdog = _
      rw [modEng_leaveCallback, State.leaveCallback, State.modEng_inCallback, hcall hran]
      rfl

/-- A callback whose client does nothing. -/
theorem State.called_of_noActs {o : Out} (h : d.acts = []) : s.called o d rest =
    { s with out := s.out ++ [o], tape := rest, drawn := s.drawn + 1, inCallback := s.inCallback + 1 } := by
  rw [State.called, h]
  rfl

theorem clientDoes_command {w : Word} {i : Instr} {t : State} (hw : decodeCommand w = .ok i)
    (ht : exec i { s with cmd := w } = .next t) : s.clientDoes (.write .cmd w) = t := by
  simp only [State.clientDoes, hw, ht]

/-- The watchdog is unregistered (R174). -/
def Eng.unregistered (g : Eng) : Eng := { g with wdRegistered := false, wdArmed := false }

/-- The client that unregisters the watchdog of its engine: it clears ARG0 and issues ENG_SET_WATCHDOG. -/
theorem State.called_unregister {o : Out} (hhalt : s.halted = false) (he : e < s.inst.length)
    (hfits : e ≤ 255)
    (hacts : d.acts = [.write .arg0 0, .write .cmd (encodeWord (.engSetWatchdog e))]) :
    s.called o d rest =
      { s.modEng e Eng.unregistered with
        cmd := encodeWord (.engSetWatchdog e), arg0 := 0, status := 0x00, out := s.out ++ [o], tape := rest
        drawn := s.drawn + 1, inCallback := s.inCallback + 1 } := by
  have hwf : (Instr.engSetWatchdog e).wellFormed = true := by
    simpa [Instr.wellFormed, instanceFits] using by omega
  have hword : decodeCommand (encodeWord (.engSetWatchdog e)) = .ok (.engSetWatchdog e) :=
    decodeCommand_of_decode (decode_of_encodeWord hwf rfl rfl) rfl
  let v : State := (s.enterCallback o).takeDraw rest
  have hset := setWatchdogResult { v with arg0 := 0, cmd := encodeWord (.engSetWatchdog e) } e hhalt he
  have hdoes : State.clientDoes (v.clientDoes (.write .arg0 0)) (.write .cmd (encodeWord (.engSetWatchdog e))) =
      _ := clientDoes_command hword hset
  rw [State.called, hacts]
  change v.clientRan _ = _
  rw [State.clientRan_cons v _ _ hhalt, State.clientRan_cons (v.clientDoes (.write .arg0 0)) _ _ hhalt, hdoes]
  rfl

end

/-- Settles O35: EV_WATCHDOG by what its client does in the callback, and EV_POLL_TIMEOUT by the hold. -/
theorem timerEvents : Obligations.TimerEvents := by
  intro s e hhalt he
  have hevent : ∀ body : M Unit, asEvent e body s = .next (stepEnd (body s)) := fun body =>
    asEvent_run hhalt he
  refine ⟨fun h => ?dropped, fun d rest ht hq hrun harmed => ?quiet,
    fun d rest ht hacts hreset hrun harmed => ?reset, fun d rest ht hrun harmed => ?any,
    fun d rest ht hreset hfits hacts hrun harmed => ?unregister, fun h => ?timeout, fun h => ?idle⟩
  case dropped => exact (hevent _).trans (by rw [run_evWatchdog_dropped h]; rfl)
  case quiet =>
    obtain ⟨hacts, hreset⟩ := hq
    have hcalled := s.called_of_noActs (o := .engMsg e .noData none) (rest := rest) hacts
    rw [exec_evWatchdog hhalt he ht hrun harmed, hcalled]
    dsimp only
    rw [if_neg (by simp [hhalt]), if_neg (by simp [hreset])]
    rw [modEng_self _ e Eng.rearmedWatchdog]
    show Eng.rearmedWatchdog (s.eng e) = s.eng e
    rw [Eng.rearmedWatchdog, harmed, Bool.true_or, ← harmed]
  case reset =>
    have hcalled := s.called_of_noActs (o := .engMsg e .noData none) (rest := rest) hacts
    rw [exec_evWatchdog hhalt he ht hrun harmed, hcalled]
    dsimp only
    rw [if_neg (by simp [hhalt]), if_pos hreset]
    rfl
  case any =>
    intro ran
    have hexec := exec_evWatchdog hhalt he ht hrun harmed
    refine ⟨fun h => ?_, fun h hreset => ?_, fun h hreset => ?_⟩
    · rw [hexec, if_pos h]
    · rw [hexec, if_neg (by rw [h]; decide), if_pos hreset]
    · rw [hexec, if_neg (by rw [h]; decide), if_neg (by rw [hreset]; decide)]
      rfl
  case unregister =>
    have hcalled := State.called_unregister (o := .engMsg e .noData none) (rest := rest) hhalt he hfits hacts
    rw [exec_evWatchdog hhalt he ht hrun harmed, hcalled]
    dsimp only
    rw [if_neg (by simp [hhalt]), if_neg (by rw [hreset]; decide)]
    rw [modEng_self _ e Eng.rearmedWatchdog]
    · rfl
    · show Eng.rearmedWatchdog ((s.modEng e Eng.unregistered).eng e) = (s.modEng e Eng.unregistered).eng e
      rw [eng_modEng_same _ _ he]
      rfl
  case timeout =>
    refine (hevent _).trans ?_
    rw [run_evPollTimeout, if_pos h, stepEnd_fault, takeFault_eq hhalt]
    rfl
  case idle => exact (hevent _).trans (by rw [run_evPollTimeout, if_neg (by simp [h])]; rfl)

/-! ### EV_FINALIZE (R159) -/

/-- One FINALIZE is no longer owed. -/
def Eng.finalized (g : Eng) : Eng := { g with finalizeOwed := g.finalizeOwed - 1 }

/-- The last FINALIZE owed has ended the hold. -/
def Eng.released (g : Eng) : Eng := { g with finalizeOwed := 0, stopHold := false }

theorem run_evFinalize_notOwed (h : (s.eng e).finalizeOwed = 0) : evFinalizeBody e s = .ok () s := by
  rw [evFinalizeBody, run_bind, run_getEng]
  dsimp only
  rw [run_ite, if_pos h, run_pure]

theorem run_evFinalize_counted (h : 0 < (s.eng e).finalizeOwed)
    (hmore : 1 < (s.eng e).finalizeOwed ∨ (s.eng e).stopHold = false) :
    evFinalizeBody e s = .ok () (s.modEng e Eng.finalized) := by
  have hlast : ¬ ((s.eng e).finalizeOwed = 1 ∧ (s.eng e).stopHold = true) := by
    rintro ⟨hone, hhold⟩
    rcases hmore with hmore | hmore
    · omega
    · exact absurd (hmore.symm.trans hhold) Bool.false_ne_true
  rw [evFinalizeBody, run_bind, run_getEng]
  dsimp only
  rw [run_ite, if_neg (by omega), run_bind, run_modEng]
  dsimp only
  rw [run_ite, if_neg hlast, run_pure]
  rfl

/-- The last FINALIZE owed tears the engine down and ends the held ENG_STOP with Success. -/
theorem run_evFinalize_last {u : State} (hone : (s.eng e).finalizeOwed = 1)
    (hhold : (s.eng e).stopHold = true) (hdown : teardown e (s.modEng e Eng.finalized) = .ok () u) :
    evFinalizeBody e s = .ok () ((u.modEng e (fun g => { g with stopHold := false })).setStatus .success) := by
  rw [evFinalizeBody, run_bind, run_getEng]
  dsimp only
  rw [run_ite, if_neg (by omega), run_bind, run_modEng]
  dsimp only
  rw [run_ite, if_pos ⟨hone, hhold⟩, run_bind]
  have hdown' : teardown e (s.modEng e (fun g => { g with finalizeOwed := g.finalizeOwed - 1 })) = .ok () u :=
    hdown
  rw [hdown']
  rfl

theorem run_teardown_universal (hk : (s.eng e).kind = .urx ∨ (s.eng e).kind = .utx) :
    teardown e s = .ok () s := by
  rw [teardown, run_bind, run_getEng]
  rcases hk with hk | hk <;> simp only [hk, run_pure]

theorem run_teardown_dvrx (hk : (s.eng e).kind = .dvrx) : teardown e s = abandonCurrent e s := by
  rw [teardown, run_bind, run_getEng]
  simp only [hk]

/-- Settles O34: EV_FINALIZE by the count of those owed and the hold, and the teardown of each kind. -/
theorem finalizeResult : Obligations.FinalizeResult := by
  intro s e hhalt he g ended
  have hexec : exec (.evFinalize e) s = .next (stepEnd (evFinalizeBody e s)) := asEvent_run hhalt he
  have heng : (s.modEng e Eng.finalized).eng e = (s.eng e).finalized := eng_modEng_same _ _ he
  refine ⟨fun h => ?notOwed, fun h hmore => ?counted,
    fun hone hhold => ⟨fun hk => ?universal, fun ds rest hk ha => ?dvrx, fun ds rest hk => ?dvtx⟩⟩
  case notOwed => rw [hexec, run_evFinalize_notOwed h]; rfl
  case counted => rw [hexec, run_evFinalize_counted h hmore]; rfl
  all_goals
    have hreleased : (s.modEng e (fun g => { g.finalized with stopHold := false })) =
        s.modEng e Eng.released := modEng_congr (by
      show { g.finalized with stopHold := false } = g.released
      rw [Eng.finalized, hone]
      rfl)
  case universal =>
    rw [hexec, run_evFinalize_last hone hhold (run_teardown_universal (by rw [heng]; exact hk)), modEng_modEng,
      hreleased]
    rfl
  case dvrx =>
    have hdown := run_abandonCurrent (s := s.modEng e Eng.finalized) (ds := ds) (rest := rest) (e := e)
      (by simpa using he) (by rw [dvr_modEng]; exact ha)
    rw [dvr_modEng] at hdown
    rw [hexec, run_evFinalize_last hone hhold ((run_teardown_dvrx (by rw [heng]; exact hk)).trans hdown),
      modDvr_modEng, modEng_told, modEng_modEng, hreleased]
    show _ = Host.Outcome.next (State.setStatus (State.modEng _ e Eng.released) .success)
    rw [modDvr_modEng, modEng_told]
    rfl
  case dvtx =>
    intro r gone ha
    have hcycles : ((s.modEng e Eng.finalized).eng e).cycles = g.cycles := by rw [heng]; rfl
    have hdown := run_teardown_dvtx (s := s.modEng e Eng.finalized) (ds := ds) (rest := rest) (e := e)
      (by simpa using he) (by rw [heng]; exact hk) (by rw [dvt_modEng, hcycles]; exact ha)
    rw [dvt_modEng, hcycles] at hdown
    rw [hexec, run_evFinalize_last hone hhold hdown, modDvt_modEng, modEng_told, modEng_modEng, hreleased]
    show _ = Host.Outcome.next (State.setStatus (State.modEng _ e Eng.released) .success)
    rw [modDvt_modEng, modEng_told]
    rfl

end Sys2Proof.Machine
end

section
/-! PROOF. The validation of a transmit segment's time stamp (obligation O32), case by case
(42_buffer_engine.md R167). -/

namespace Sys2Proof.Machine

variable {e c : Nat} {s : State} {act exp : Word}

theorem run_readTsSlot {ts : Word} (h : sparseGet (s.eng e).tsSlot c = some ts) :
    readTsSlot e c s = .ok ts s := by
  rw [readTsSlot, run_bind, run_getEng]
  simp only [h, run_pure]

/-- Below the seconds, `withSeconds` has the bits of the expected stamp. -/
theorem extract_withSeconds (act exp : Word) {start len : Nat} (h : start + len ≤ 25) :
    (withSeconds act exp).extractLsb' start len = exp.extractLsb' start len := by
  refine BitVec.eq_of_getLsbD_eq fun i hi => ?_
  have hlow : start + i < 25 := by omega
  have hbit : (act.extractLsb' 25 7 ++ exp.extractLsb' 0 25).getLsbD (start + i) = exp.getLsbD (start + i) := by
    rw [BitVec.getLsbD_append, if_pos hlow, BitVec.getLsbD_extractLsb']
    simp [hlow]
  rw [BitVec.getLsbD_extractLsb', BitVec.getLsbD_extractLsb']
  exact congrArg _ hbit

/-- The seconds of a stamp do not bear on its legality (41_cycle_time.md R140). -/
theorem ctLegal_withSeconds (act : Word) (h : ctLegal exp) : ctLegal (withSeconds act exp) := by
  simp only [ctLegal, ctOff, ctCyc, extract_withSeconds act exp (by decide : 0 + 12 ≤ 25),
    extract_withSeconds act exp (by decide : 12 + 13 ≤ 25)]
  exact h

/-! ### The cases (R167) -/

/-- Case (a): only the seconds differ at the first segment. -/
abbrev Eng.ambiguous (g : Eng) (act exp : Word) : Prop :=
  g.firstCallback = true ∧ ctCyc act = ctCyc exp ∧ ctSec act ≠ ctSec exp

theorem run_correctTimestamp_ambiguous (h : (s.eng e).ambiguous act exp) :
    correctTimestamp e act exp s = .ok (withSeconds act exp) s := by
  rw [correctTimestamp, run_bind, run_getEng]
  dsimp only
  rw [run_ite, if_pos h, run_pure]

section

variable (hact : ctLegal act) (hexp : ctLegal exp) (h : ¬ (s.eng e).ambiguous act exp)

include hact hexp h

/-- The other cases, by the number of cycles lost. -/
theorem run_correctTimestamp_lost : correctTimestamp e act exp s =
    (if ctLost act exp = 0 then pure exp
    else if ctLost act exp ≤ (s.eng e).recoveryThreshold.toNat then do
      if (s.eng e).kind = .dvtx then do
        modEng e (·.steal (ctLost act exp))
        advanceTxClock e (ctLost act exp)
      else pure ()
      pure act
    else do
      if (s.eng e).kind = .dvtx then advanceTxClock e (ctLost act exp) else pure ()
      engMsg e .timeStampAdjust (some (ctLost act exp))
      pure act : M Word) s := by
  rw [correctTimestamp, run_bind, run_getEng]
  dsimp only
  rw [run_ite, if_neg h, run_bind, run_chk_ok hact]
  dsimp only
  rw [run_bind, run_chk_ok hexp]

theorem run_correctTimestamp_none (hlost : ctLost act exp = 0) :
    correctTimestamp e act exp s = .ok exp s := by
  rw [run_correctTimestamp_lost hact hexp h, if_pos hlost, run_pure]

end

/-- The transmit clock moved on by the cycles lost (R167). -/
def Dvt.clockedOn (d : Dvt) (lost : Nat) : Dvt := { d with txClock := ctSum d.txClock (ctCycles lost) }

theorem run_advanceTxClock (h : ctLegal (s.dvt e).txClock) (lost : Nat) :
    advanceTxClock e lost s = .ok () (s.modDvt e (·.clockedOn lost)) := by
  rw [advanceTxClock, run_bind, run_getDvt]
  dsimp only
  rw [run_bind, run_addCycles_ok h]
  dsimp only
  rw [run_modDvt]
  exact congrArg _ (by rw [modDvt_eq, modDvt_eq]; rfl)

section

variable (hact : ctLegal act) (hexp : ctLegal exp) (h : ¬ (s.eng e).ambiguous act exp)
  (hclock : ctLegal (s.dvt e).txClock)

include hact hexp h hclock

/-- Up to the threshold a DVTX engine owes the cycles lost (R167). -/
theorem run_correctTimestamp_stolen (hlost : ctLost act exp ≠ 0)
    (hfew : ctLost act exp ≤ (s.eng e).recoveryThreshold.toNat) :
    correctTimestamp e act exp s = .ok act (if (s.eng e).kind = .dvtx then
      (s.modEng e (·.steal (ctLost act exp))).modDvt e (·.clockedOn (ctLost act exp)) else s) := by
  rw [run_correctTimestamp_lost hact hexp h, if_neg hlost, if_pos hfew]
  by_cases hk : (s.eng e).kind = .dvtx
  · rw [if_pos hk, if_pos hk, run_bind, run_modEng]
    dsimp only
    rw [run_bind, run_advanceTxClock (by rwa [dvt_modEng])]
    rfl
  · rw [if_neg hk, if_neg hk]
    rfl

/-- Beyond the threshold the client is told (R167). -/
theorem run_correctTimestamp_told {d : Draw} {rest : List Draw} (ht : s.tape = d :: rest) (hd : d.quiet)
    (hmany : (s.eng e).recoveryThreshold.toNat < ctLost act exp) :
    correctTimestamp e act exp s = .ok act
      ((if (s.eng e).kind = .dvtx then s.modDvt e (·.clockedOn (ctLost act exp)) else s).told
        [.engMsg e .timeStampAdjust (some (ctLost act exp))] rest) := by
  rw [run_correctTimestamp_lost hact hexp h, if_neg (by omega), if_neg (by omega)]
  by_cases hk : (s.eng e).kind = .dvtx
  · rw [if_pos hk, if_pos hk, run_bind, run_advanceTxClock hclock]
    dsimp only
    rw [run_bind, run_engMsg_quiet (s := s.modDvt e _) (d := d) (ds := rest) ht hd]
    rfl
  · rw [if_neg hk, if_neg hk]
    change (engMsg e .timeStampAdjust (some (ctLost act exp)) >>= fun _ => pure act) s = _
    rw [run_bind, run_engMsg_quiet ht hd]
    rfl

end

/-- EXPECTED_TS follows the corrected stamp by one segment (R167). -/
theorem run_validateTimestamp {u : State} {t : Word} (hslot : sparseGet (s.eng e).tsSlot c = some act)
    (hact : ctLegal act) (hrun : correctTimestamp e act (s.eng e).expectedTs s = .ok t u) (ht : ctLegal t) :
    validateTimestamp e c s = .ok () (u.modEng e (fun g =>
      { g with expectedTs := ctSum t (ctCycles (s.eng e).cyclesPerSeg.toNat) })) := by
  rw [validateTimestamp, run_bind, run_readTsSlot hslot]
  dsimp only
  rw [run_bind, run_chk_ok hact]
  dsimp only
  rw [run_bind, run_getEng]
  dsimp only
  rw [run_bind, hrun]
  dsimp only
  rw [run_bind, run_addCycles_ok ht]
  rfl

/-- Settles O32: the stamp is checked, corrected by its case, and EXPECTED_TS follows it. -/
theorem timestampValidation : Obligations.TimestampValidation := by
  intro s e c act he g exp lost next ambiguous hslot hexp hclock hkind
  refine ⟨fun hact => ?illegal, fun hact ha => ?ambiguous, fun hact ha hlost => ?none,
    fun hact ha hlost hfew => ?stolen, fun d rest ht hd hact ha hmany => ?told⟩
  case illegal =>
    rw [validateTimestamp, run_bind, run_readTsSlot hslot]
    dsimp only
    rw [run_bind, run_chk_bad hact]
  case ambiguous =>
    exact run_validateTimestamp hslot hact (run_correctTimestamp_ambiguous ha) (ctLegal_withSeconds act hexp)
  case none => exact run_validateTimestamp hslot hact (run_correctTimestamp_none hact hexp ha hlost) hexp
  case stolen =>
    rw [run_validateTimestamp hslot hact
      (run_correctTimestamp_stolen hact hexp ha hclock (Nat.ne_of_gt hlost) hfew) hact]
    by_cases hk : g.kind = .dvtx
    · rw [if_pos hk, if_pos hk, modDvt_modEng, modEng_modEng]
      rfl
    · rw [if_neg hk, if_neg hk]
  case told =>
    rw [run_validateTimestamp hslot hact
      (run_correctTimestamp_told hact hexp ha hclock ht hd hmany) hact]
    refine congrArg (EStateM.Result.ok ()) ?_
    by_cases hk : g.kind = .dvtx
    · rw [if_pos hk, if_pos hk, modEng_told, modDvt_modEng]
      rfl
    · rw [if_neg hk, if_neg hk]
      rfl

end Sys2Proof.Machine
end

section
/-! PROOF. EV_SEGMENT around its cycles, and the segment without data (obligation O30; 42_buffer_engine.md R163,
R166, R168). -/

namespace Sys2Proof.Machine

variable {e : Nat} {s : State}

/-! ### `checkSlot` (42_buffer_engine.md R166) -/

theorem run_checkSlot_ok {k : Nat} {h : Word} (hh : sparseGet (s.eng e).slotHdr k = some h)
    (hlen : dataLength h ≤ (s.eng e).cycleBufSize.toNat) : checkSlot e k s = .ok h s := by
  rw [checkSlot, run_bind, run_getEng]
  simp only [hh]
  rw [run_ite, if_neg (Nat.not_lt.mpr hlen), run_pure]

theorem run_checkSlot_unwritten {k : Nat} (hh : sparseGet (s.eng e).slotHdr k = none) :
    checkSlot e k s = .error .fault (s.takeFault (.cycleOversize k none)) := by
  rw [checkSlot, run_bind, run_getEng]
  simp only [hh]
  rfl

theorem run_checkSlot_oversize {k : Nat} {h : Word} (hh : sparseGet (s.eng e).slotHdr k = some h)
    (hlen : (s.eng e).cycleBufSize.toNat < dataLength h) :
    checkSlot e k s = .error .fault (s.takeFault (.cycleOversize k (some (dataLength h)))) := by
  rw [checkSlot, run_bind, run_getEng]
  simp only [hh]
  rw [run_ite, if_pos hlen, run_raise]

/-! ### Around the cycles (R163, R168) -/

/-- The ring of `S` segments has moved past segment `c`. -/
def Eng.movedPast (c S : Nat) (g : Eng) : Eng :=
  { g with
    jump := (g.jump.set c .overrun).set ((c + S - 1) % S) (.start c)
    curSeg := BitVec.ofNat 16 ((c + 1) % S) }

def Eng.calledBack (g : Eng) : Eng := { g with firstCallback := false }

/-- The cycles of an EV_SEGMENT of CUR_SEG. -/
abbrev currentCycles (e : Nat) (g : Eng) : M Bool :=
  segmentCycles e g.curSeg.toNat g.cyclesPerSeg.toNat (g.curSeg.toNat * g.cyclesPerSeg.toNat) false

/-- The end of EV_SEGMENT; `any` says whether one of its cycles carried data. -/
def endSegment (e : Nat) (any : Bool) : M Unit := do
  modEng e Eng.calledBack
  let g ← getEng e
  if g.kind.isReceive ∧ g.wdRegistered ∧ any then rearmWatchdog else pure ()

/-- What EV_SEGMENT of segment `c` does once its cycles are done. -/
def closeSegment (e c : Nat) (receives any : Bool) : M Unit := do
  modEng e (·.advance c)
  if receives then endSegment e any
  else do
    validateTimestamp e c
    endSegment e any

/-- EV_SEGMENT of CUR_SEG on a running engine. -/
theorem run_evSegment_current (hrun : (s.eng e).running = true) :
    evSegmentBody e (s.eng e).curSeg.toNat s = (currentCycles e (s.eng e) >>=
      closeSegment e (s.eng e).curSeg.toNat (s.eng e).kind.isReceive) s := by
  rw [evSegmentBody, run_bind, run_getEng]
  dsimp only
  rw [run_ite, if_neg (by simp [hrun]), run_ite, if_neg (by simp)]
  rfl

theorem exec_evSegment_current (hhalt : s.halted = false) (he : e < s.inst.length)
    (hrun : (s.eng e).running = true) :
    exec (.evSegment e (s.eng e).curSeg.toNat) s = .next (stepEnd ((currentCycles e (s.eng e) >>=
      closeSegment e (s.eng e).curSeg.toNat (s.eng e).kind.isReceive) s)) := by
  have hexec : exec (.evSegment e (s.eng e).curSeg.toNat) s =
      .next (stepEnd (evSegmentBody e (s.eng e).curSeg.toNat s)) := asEvent_run hhalt he
  rw [hexec, run_evSegment_current hrun]

/-- The watchdog's deadline is not part of the state (R176). -/
theorem run_endSegment (any : Bool) : endSegment e any s = .ok () (s.modEng e Eng.calledBack) := by
  rw [endSegment, run_bind, run_modEng]
  dsimp only
  rw [run_bind, run_getEng]
  dsimp only
  split <;> rfl

theorem modEng_advance {c S : Nat} (hS : (s.eng e).segments.toNat = S) :
    s.modEng e (·.advance c) = s.modEng e (Eng.movedPast c S) := by
  subst hS
  exact modEng_congr rfl

/-- A receive segment ends with its ring move. -/
theorem run_closeSegment_receive {c S : Nat} (hS : (s.eng e).segments.toNat = S) (any : Bool) :
    closeSegment e c true any s = .ok () ((s.modEng e (Eng.movedPast c S)).modEng e Eng.calledBack) := by
  rw [closeSegment, run_bind, run_modEng, modEng_advance hS]
  exact run_endSegment any

/-- A transmit segment validates its time stamp in between. -/
theorem run_closeSegment_transmit {c S : Nat} (hS : (s.eng e).segments.toNat = S) (any : Bool) :
    closeSegment e c false any s =
      (validateTimestamp e c >>= fun _ => endSegment e any) (s.modEng e (Eng.movedPast c S)) := by
  rw [closeSegment, run_bind, run_modEng, modEng_advance hS]
  rfl

/-! ### URX_CYCLE (42_buffer_engine.md R180) -/

/-- The format of a cycle is noted and its source packets go to the demultiplexer (R180, R181). -/
def feedRecord (e pa : Nat) (r : CipRecord) (attached : Bool) : M Status := do
  modEng e (fun g => { g with lastFmt := some r.header.fmt })
  if r.header.fmt = fmtMpeg2Ts ∧ attached ∧ r.sourcePacketSize = 192 then
    feedPackets e pa r.numSourcePackets 0
  else pure ()
  pure .success

/-- What URX_CYCLE does once the raw client has been called (R180). -/
def urxPacket (e : Nat) (hdr : Word) (pa : Nat) : M Status := do
  if isCipHeader hdr = false ∨ dataLength hdr ≤ 8 then pure .success
  else do
    let p ← memRead pa (dataLength hdr)
    let par ← getPar
    match parseCip par.maxSourcePackets p (dataLength hdr) with
    | none => pure .success
    | some r => do
      let g ← getEng e
      if g.lastFmt.isSome ∧ g.lastFmt ≠ some r.header.fmt ∧ g.demuxAttach then do
        tsFlush e
        feedRecord e pa r g.demuxAttach
      else feedRecord e pa r g.demuxAttach

theorem urxCycle_eq (e : Nat) (hdr : Word) (pa : Nat) (ts : Word) : urxCycle e hdr pa ts =
    getEng e >>= fun g => if g.urxCallback then
      notify (.urxPacket e hdr pa (dataLength hdr) ts) >>= fun _ => urxPacket e hdr pa
    else urxPacket e hdr pa := by
  rfl

/-! ### Cycles without CIP data (obligation O30) -/

/-- A cycle that DVR_CYCLE and URX_CYCLE pass over (R164, R180). -/
abbrev passedOver (h : Word) : Prop := isCipHeader h = false ∨ dataLength h ≤ 8

section

variable {h ts : Word} (hh : passedOver h)

include hh

theorem run_dvrCycle_passedOver (pa : Nat) : ∃ st, dvrCycle e h pa ts s = .ok st s := by
  rw [dvrCycle, run_bind, run_getState]
  dsimp only
  cases s.par.dvRow (s.dvr e).dvMode with
  | none => exact ⟨_, rfl⟩
  | some row =>
    dsimp only
    rw [run_ite, if_pos hh]
    exact ⟨_, rfl⟩

theorem run_urxCycle_passedOver (hcall : (s.eng e).urxCallback = false) (pa : Nat) :
    ∃ st, urxCycle e h pa ts s = .ok st s := by
  rw [urxCycle_eq, run_bind, run_getEng]
  dsimp only
  rw [run_ite, if_neg (by simp [hcall]), urxPacket, run_ite, if_pos hh]
  exact ⟨_, rfl⟩

theorem run_consumeCycle_passedOver {c : Nat} (hts : sparseGet (s.eng e).tsSlot c = some ts)
    (hk : (s.eng e).kind = .dvrx ∨ (s.eng e).kind = .urx ∧ (s.eng e).urxCallback = false) (k : Nat) :
    consumeCycle e c k h s = .ok () s := by
  rw [consumeCycle, run_bind, run_getEng]
  dsimp only
  rw [run_bind, run_readTsSlot hts]
  dsimp only
  rcases hk with hk | ⟨hk, hcall⟩
  · obtain ⟨st, hst⟩ := run_dvrCycle_passedOver (e := e) (s := s) (ts := ts) hh ((s.eng e).slotAddr k)
    simp only [hk]
    rw [run_bind, hst]
    rfl
  · obtain ⟨st, hst⟩ := run_urxCycle_passedOver (ts := ts) hh hcall ((s.eng e).slotAddr k)
    simp only [hk]
    rw [run_bind, hst]
    rfl

end

theorem run_segmentCycles_passedOver {c : Nat} {ts : Word} (hts : sparseGet (s.eng e).tsSlot c = some ts)
    (hk : (s.eng e).kind = .dvrx ∨ (s.eng e).kind = .urx ∧ (s.eng e).urxCallback = false) :
    ∀ (n k : Nat) (any : Bool), (∀ j, j < n → ∃ h, sparseGet (s.eng e).slotHdr (k + j) = some h ∧
      dataLength h ≤ (s.eng e).cycleBufSize.toNat ∧ passedOver h) →
    ∃ b, segmentCycles e c n k any s = .ok b s
  | 0, _, any, _ => ⟨any, rfl⟩
  | n + 1, k, any, hall => by
    obtain ⟨h, hh, hlen, hpass⟩ := hall 0 (Nat.succ_pos n)
    obtain ⟨b, hb⟩ := run_segmentCycles_passedOver hts hk n (k + 1) (any || carriesPayload h) fun j hj => by
      rw [Nat.add_right_comm, Nat.add_assoc]
      exact hall (j + 1) (Nat.succ_lt_succ hj)
    refine ⟨b, ?_⟩
    rw [segmentCycles, run_bind, run_getEng]
    dsimp only
    rw [run_ite, if_pos ((Kind.isReceive_iff _).mpr (hk.imp_right And.left)), run_bind,
      run_checkSlot_ok (by simpa using hh) hlen]
    dsimp only
    rw [run_bind, run_consumeCycle_passedOver hpass hts hk]
    exact hb

/-- Settles O30: every cycle is passed over, and then the ring moves. -/
theorem emptySegmentResult : Obligations.EmptySegmentResult := by
  intro s e hhalt he g c S N hrun hk ⟨ts, hts⟩ hall
  obtain ⟨any, hcycles⟩ := run_segmentCycles_passedOver hts hk N (c * N) false fun j hj => by
    obtain ⟨h, hh, hlen, hdata⟩ := hall j hj
    refine ⟨h, hh, hlen, hdata.imp_left fun htag => ?_⟩
    simpa [isCipHeader, isoTag] using htag
  have hrun' : currentCycles e (s.eng e) s = .ok any s := hcycles
  rw [exec_evSegment_current hhalt he hrun, run_bind, hrun']
  dsimp only
  rw [(Kind.isReceive_iff _).mpr (hk.imp_right And.left), run_closeSegment_receive rfl, modEng_modEng]
  rfl

end Sys2Proof.Machine
end

section
/-! PROOF. UTX_CYCLE (obligation O55; 42_buffer_engine.md R182). Its client writes its payload byte by byte through
the memory port, inside its callback. -/

namespace Sys2Proof.Machine

variable {e : Nat} {s : State}

/-! ### Bytes written through the memory port (20_memory.md R62) -/

def pokes (payload : List (Nat × Byte)) : List HostAct := payload.map fun b => HostAct.poke b.1 b.2

/-- The bytes have been written one after another. -/
def State.poked (s : State) (payload : List (Nat × Byte)) : State :=
  payload.foldl (fun t b => t.writeBytes b.1 [b.2]) s

/-- Only BUF has changed. -/
theorem State.poked_eq (s : State) (payload : List (Nat × Byte)) :
    s.poked payload = { s with buf := (s.poked payload).buf } := by
  induction payload generalizing s with
  | nil => rfl
  | cons b payload ih =>
    show (s.writeBytes b.1 [b.2]).poked payload = _
    rw [ih]
    rfl

/-- What is written does not depend on the calls. -/
theorem State.buf_poked {s t : State} (h : t.buf = s.buf) (payload : List (Nat × Byte)) :
    (t.poked payload).buf = (s.poked payload).buf := by
  induction payload generalizing s t with
  | nil => exact h
  | cons b payload ih =>
    exact ih (show sparseSetRun t.buf b.1 [b.2] = sparseSetRun s.buf b.1 [b.2] by rw [h])

theorem State.clientRan_pokes (hhalt : s.halted = false) {payload : List (Nat × Byte)}
    (hin : ∀ b ∈ payload, b.1 < s.par.bufBytes) (acts : List HostAct) :
    s.clientRan (pokes payload ++ acts) = (s.poked payload).clientRan acts := by
  induction payload generalizing s with
  | nil => rfl
  | cons b payload ih =>
    have hb : s.clientDoes (.poke b.1 b.2) = s.writeBytes b.1 [b.2] := if_pos (hin b List.mem_cons_self)
    show s.clientRan (.poke b.1 b.2 :: (pokes payload ++ acts)) = _
    rw [State.clientRan_cons _ _ _ hhalt, hb]
    exact ih hhalt fun c hc => hin c (List.mem_cons_of_mem _ hc)

section

variable {c : Draw} {rest : List Draw} {payload : List (Nat × Byte)} {o : Out}

/-- Inside the callback, before its client acts. -/
def State.entered (s : State) (o : Out) (rest : List Draw) : State := (s.enterCallback o).takeDraw rest

theorem State.entered_poked : (s.entered o rest).poked payload =
    { (s.told [o] rest).poked payload with inCallback := s.inCallback + 1 } := by
  rw [State.poked_eq, State.poked_eq (s.told [o] rest),
    State.buf_poked (s := s.told [o] rest) (t := s.entered o rest) rfl]
  rfl

theorem State.called_pokes (hhalt : s.halted = false) (hin : ∀ b ∈ payload, b.1 < s.par.bufBytes)
    {acts : List HostAct} (hacts : c.acts = pokes payload ++ acts) :
    s.called o c rest = ((s.entered o rest).poked payload).clientRan acts := by
  have hcalled : s.called o c rest = (s.entered o rest).clientRan c.acts := rfl
  rw [hcalled, hacts, State.clientRan_pokes (s := s.entered o rest) hhalt hin]

/-- The callback returns where the client has only written into BUF. -/
theorem run_callback_pokes (hhalt : s.halted = false) (ht : s.tape = c :: rest)
    (hin : ∀ b ∈ payload, b.1 < s.par.bufBytes) (hacts : c.acts = pokes payload) (hreset : c.reset = false) :
    callback o s = .ok c ((s.told [o] rest).poked payload) := by
  have hran : s.called o c rest = (s.entered o rest).poked payload :=
    State.called_pokes hhalt hin (acts := []) (by rw [hacts, List.append_nil])
  have hgo : ((s.entered o rest).poked payload).halted = false := by rw [State.poked_eq]; exact hhalt
  rw [run_callback_called hhalt ht, hran, if_neg (by simp [hgo]), if_neg (by simp [hreset]),
    State.entered_poked, State.poked_eq (s.told [o] rest)]
  rfl

/-- A byte outside BUF raises, and the callback never returns (60_exceptions.md R315). -/
theorem run_callback_badPoke (hs : s.idle) (ht : s.tape = c :: rest)
    (hin : ∀ b ∈ payload, b.1 < s.par.bufBytes) {bad : Nat} {b : Byte} {more : List HostAct}
    (hbad : s.par.bufBytes ≤ bad) (hacts : c.acts = pokes payload ++ .poke bad b :: more) :
    callback o s = .error .fault
      { ((s.told [o] rest).poked payload).takeFault (.badAddress bad 1) with inCallback := 1 } := by
  obtain ⟨hhalt, hcall⟩ := hs
  have hgo : ((s.entered o rest).poked payload).halted = false := by rw [State.poked_eq]; exact hhalt
  have hout : ¬ bad < ((s.entered o rest).poked payload).par.bufBytes := by
    rw [State.poked_eq]
    exact Nat.not_lt.mpr hbad
  rw [run_callback_called hhalt ht, State.called_pokes hhalt hin hacts, State.clientRan_cons _ _ _ hgo,
    State.clientDoes, if_neg hout, State.clientRan_halted (by rfl), if_pos (by rfl), State.entered_poked, hcall]
  rfl

end

/-! ### UTX_CYCLE (42_buffer_engine.md R182) -/

theorem exec_utxCycle_run (hs : s.idle) (he : e < s.inst.length) :
    exec (.utxCycle e) s = .next (endCommand (producerBody (utxCycle e) s)) :=
  asCommand_run_instance rfl hs.1 he (.inl hs.2)

/-- The call that asks the client for its payload. -/
def utxFillCall (e k : Nat) (g : Eng) : Out := .utxFill e k (g.slotAddr k) g.cycleBufSize.toNat

theorem run_utxCycle {k : Nat} (hset : (s.eng e).setupDone = true) (hkind : (s.eng e).kind = .utx)
    (hk : k ≤ (s.eng e).slots) : utxCycle e k s = (callback (utxFillCall e k (s.eng e)) >>= fun a =>
      if (s.eng e).cycleBufSize.toNat < dataLength a.word then raise (.cycleOversize k (some (dataLength a.word)))
      else do
        modEng e (·.setSlotHdr k a.word)
        pure (.success, dataLength a.word)) s := by
  rw [utxCycle, run_bind, run_getEng]
  dsimp only
  rw [run_ite, if_neg (by simp [hset, hkind, hk])]
  rfl

theorem exec_utxCycle_refused (hs : s.idle) (he : e < s.inst.length)
    (h : (s.eng e).setupDone = false ∨ (s.eng e).kind ≠ .utx ∨ (s.eng e).slots < s.arg0.toNat) :
    exec (.utxCycle e) s = .next (s.setStatus .badArgument) := by
  rw [exec_utxCycle_run hs he]
  simp [producerBody, utxCycle, h]

theorem toNat_eq_dataLength (w : Word) : w.toNat / 2 ^ 16 = dataLength w := by
  rw [dataLength, BitVec.extractLsb'_toNat, Nat.shiftRight_eq_div_pow]
  have := w.isLt
  omega

/-- Settles O55: each exit of UTX_CYCLE; the client's callback ends as its bytes say. -/
theorem utxResult : Obligations.UtxResult := by
  intro s e hs he g k slots
  refine ⟨fun h => exec_utxCycle_refused hs he h, ?_⟩
  intro c rest payload hset hkind hk ht hin len pk filled
  refine ⟨?_, ?_⟩
  · intro hacts hreset
    have hcall := run_callback_pokes (o := utxFillCall e k g) hs.1 ht hin hacts hreset
    rw [exec_utxCycle_run hs he]
    have hlen : len = dataLength c.word := toNat_eq_dataLength c.word
    rw [hlen]
    split
    · next hbig =>
      rw [endCommand_producerBody_fault (t := filled.takeFault (.cycleOversize k (some (dataLength c.word))))]
      rw [run_utxCycle hset hkind hk, run_bind, hcall]
      dsimp only
      rw [run_ite, if_pos hbig, run_raise]
      rfl
    · next hfit =>
      rw [endCommand_producerBody (n := dataLength c.word) (t := filled.modEng e (·.setSlotHdr k c.word))]
      · rfl
      rw [run_utxCycle hset hkind hk, run_bind, hcall]
      dsimp only
      rw [run_ite, if_neg hfit]
      rfl
  · intro bad b more hbad hacts
    have hcall := run_callback_badPoke (o := utxFillCall e k g) hs ht hin hbad hacts
    rw [exec_utxCycle_run hs he, endCommand_producerBody_fault]
    rw [run_utxCycle hset hkind hk, run_bind, hcall]
    rfl

end Sys2Proof.Machine
end

section
/-! PROOF. What the receivers do: DVR_CYCLE, TS_PACKET, TS_FLUSH and URX_CYCLE (obligations O31, O54 and O58).
Their pseudocode is put together from a few parts, so that what holds of each part, whatever the clients do in
their callbacks, holds of each of them (spec/42_buffer_engine.md R180, spec/43_dv_receive.md R203,
spec/45_ts_demux.md R271, R287). -/

namespace Sys2Proof.Machine

/-! ### The parts of a receiver -/

/-- Pseudocode put together from the parts of the receivers at index `e`. Where `room` names a size of BUF,
nothing is read beyond it and nothing raises. -/
inductive Receiver (e : Nat) (room : Option Nat) : {α : Type} → M α → Prop
  | pure {α : Type} (a : α) : Receiver e room (pure a : M α)
  | getEng : Receiver e room (getEng e)
  | getDvr : Receiver e room (getDvr e)
  | getTs : Receiver e room (getTs e)
  | getPar : Receiver e room getPar
  /-- what is read of the state is not in the registers of the command port -/
  | getState {α : Type} {k : State → M α} (hk : ∀ s, Receiver e room (k s))
      (hports : ∀ s p, k (State.withPorts s p) = k s) : Receiver e room (getState >>= k)
  | callback (o : Out) : Receiver e room (callback o)
  | memRead {a n : Nat} (h : ∀ B, room = some B → a + n ≤ B) : Receiver e room (memRead a n)
  | frame (g : Dvr → Dvr) : Receiver e room (modDvr e g)
  | stream (g : Ts → Ts) : Receiver e room (modTs e g)
  | lastFmt (f : Option (BitVec 6)) : Receiver e room (modEng e (fun g => { g with lastFmt := f }))
  | bind {α β : Type} {m : M α} {k : α → M β} (hm : Receiver e room m) (hk : ∀ a, Receiver e room (k a)) :
      Receiver e room (m >>= k)

variable {e : Nat} {room : Option Nat}

namespace Receiver

theorem ite {α : Type} {c : Prop} [Decidable c] {m n : M α} (hm : Receiver e room m)
    (hn : Receiver e room n) : Receiver e room (if c then m else n) := by split <;> assumption

theorem notify (o : Out) : Receiver e room (notify o) := .bind (.callback o) fun _ => .pure ()

/-! DV receive (43_dv_receive.md R203 to R210). -/

theorem notifyConsumers (m : Msg) : ∀ l, Receiver e room (notifyConsumers e m l)
  | [] => .pure ()
  | _ :: cs => .bind (.notify _) fun _ => notifyConsumers m cs

theorem notifyAll (m : Msg) : Receiver e room (notifyAll e m) := .bind .getDvr fun _ => .notifyConsumers m _

theorem abandon (f : Nat) : Receiver e room (abandon e f) := .bind (.frame _) fun _ => .notifyAll _

theorem abandonCurrent : Receiver e room (abandonCurrent e) := by
  refine .bind .getDvr fun d => ?_
  cases d.currentFrame with
  | some f => exact .abandon f
  | none => exact .pure ()

theorem startFrame (row : DvFormat) (syt : Half) (ts : Word) : Receiver e room (startFrame e row syt ts) := by
  refine .bind .getDvr fun d => ?_
  cases d.freeQueue with
  | nil => exact .bind (.notifyAll _) fun _ => .pure _
  | cons f rest => exact .bind (.frame _) fun _ => .pure _

theorem offerFrame (f : Nat) : ∀ l, Receiver e room (offerFrame e f l)
  | [] => .pure ()
  | _ :: cs => .bind (.callback _) fun _ => .bind .getDvr fun _ =>
      .ite (.bind (.frame _) fun _ => offerFrame f cs) (.bind (.pure ()) fun _ => offerFrame f cs)

theorem dispatch (f : Nat) : Receiver e room (dispatch e f) :=
  .bind (.frame _) fun _ => .bind .getDvr fun _ => .bind (.offerFrame f _) fun _ => .frame _

theorem copyBlock (f : Nat) (row : DvFormat) (p : List Byte) (o : Nat) :
    Receiver e room (copyBlock e f row p o) :=
  .bind (.frame _) fun _ => .bind .getDvr fun _ => .ite (.dispatch f) (.pure ())

theorem cycleBlocks (row : DvFormat) (p : List Byte) (syt : Half) (ts : Word) :
    ∀ n b, Receiver e room (cycleBlocks e row p syt ts n b)
  | 0, _ => .pure ()
  | n + 1, b => by
    refine .bind .getDvr fun d => ?_
    cases d.currentFrame with
    | some f => exact .bind (.copyBlock f row p _) fun _ => cycleBlocks row p syt ts n _
    | none =>
      refine .bind (.startFrame row syt ts) fun ok => .ite (.bind .getDvr fun d => ?_) (.pure ())
      cases d.currentFrame with
      | some f => exact .bind (.copyBlock f row p _) fun _ => cycleBlocks row p syt ts n _
      | none => exact .pure ()

theorem cycleData (row : DvFormat) (p : List Byte) (len : Nat) (ts : Word) :
    Receiver e room (cycleData e row p len ts) := by
  refine .bind .getDvr fun d => ?_
  cases d.currentFrame with
  | none => exact .pure ()
  | some f => exact .ite (.cycleBlocks row p _ ts _ _) (.abandon f)

/-- DVR_CYCLE (R203). -/
theorem dvrCycle (hdr : Word) (pa : Nat) (ts : Word) : Receiver e none (dvrCycle e hdr pa ts) := by
  refine .getState (fun s => ?_) fun _ _ => rfl
  cases s.par.dvRow (s.dvr e).dvMode with
  | none => exact .pure _
  | some row =>
    refine .ite (.pure _) (.bind (.memRead fun _ h => by cases h) fun p => .ite ?_ ?_)
    · refine .bind .abandonCurrent fun _ => .ite (.bind (.notifyAll _) fun _ => .pure _) ?_
      exact .bind (.startFrame _ _ _) fun _ => .ite (.bind (.cycleData _ _ _ _) fun _ => .pure _) (.pure _)
    · exact .bind (.cycleData _ _ _ _) fun _ => .pure _

/-! The demultiplexer (45_ts_demux.md R271 to R290). -/

theorem notifyPes (m : Msg) (b : Option Nat) : Receiver e room (notifyPes e m b) :=
  .bind (.stream _) fun _ => .notify _

theorem deliver (y : StreamType) (m : Msg) : Receiver e room (deliver e y m) := by
  refine .bind .getTs fun t => ?_
  cases (t.stream y).curBuf with
  | some b => exact .bind (.stream _) fun _ => .notifyPes _ _
  | none => exact .pure ()

theorem packetError (y : StreamType) : Receiver e room (packetError e y) :=
  .bind .getTs fun _ => .ite (.bind (.deliver y _) fun _ => .stream _)
    (.bind (.notifyPes _ _) fun _ => .stream _)

theorem discontinuity (y : StreamType) : Receiver e room (discontinuity e y) :=
  .bind (.stream _) fun _ => .notifyPes _ _

theorem startPes (y : StreamType) (ts : Word) : Receiver e room (startPes e y ts) := by
  have hbegin : Receiver e room (do
      let t ← Machine.getTs e
      if (t.stream y).curBuf.isNone then modTs e (·.allocCurrent y) else Pure.pure ()
      modTs e (·.beginPes y ts)) :=
    .bind .getTs fun _ => .ite (.bind (.stream _) fun _ => .stream _) (.stream _)
  exact .bind .getTs fun _ => .ite (.bind (.deliver y _) fun _ => hbegin) hbegin

theorem accumulate (y : StreamType) (bytes : List Byte) : Receiver e room (accumulate e y bytes) := by
  refine .bind .getPar fun p => .bind .getTs fun t => ?_
  cases (t.stream y).curBuf with
  | none => exact .pure ()
  | some b => exact .ite (.stream _) (.ite (.stream _) (.bind (.deliver y _) fun _ => .stream _))

theorem streamPacket (y : StreamType) (t : List Byte) (ts : Word) :
    Receiver e room (streamPacket e y t ts) := by
  have hdata : ∀ _ : Unit, Receiver e room (do
      let u ← Machine.getTs e
      if (u.stream y).foundFirst then
        if 0 < (tsPayload (tsHeader t) t).length then Machine.accumulate e y (tsPayload (tsHeader t) t)
        else Pure.pure ()
      else Pure.pure ()) := fun _ =>
    .bind .getTs fun _ => .ite (.ite (.accumulate y _) (.pure ())) (.pure ())
  have hnoted : ∀ _ : Unit, Receiver e room (do
      modTs e (·.modStream y (fun x => { x with streamCont := some (tsHeader t).cc }))
      if (tsHeader t).pusi then Machine.startPes e y ts else Pure.pure ()
      let u ← Machine.getTs e
      if (u.stream y).foundFirst then
        if 0 < (tsPayload (tsHeader t) t).length then Machine.accumulate e y (tsPayload (tsHeader t) t)
        else Pure.pure ()
      else Pure.pure ()) := fun _ =>
    .bind (.stream _) fun _ => .ite (.bind (.startPes y ts) hdata) (hdata ())
  refine .ite (.packetError y) (.ite (.pure ()) (.ite (.packetError y) (.bind .getTs fun u => ?_)))
  cases (u.stream y).streamCont with
  | some last => exact .ite (.bind (.discontinuity y) hnoted) (hnoted ())
  | none => exact hnoted ()

theorem psiPacket (t : List Byte) : Receiver e room (psiPacket e t) := by
  have hraw : ∀ _ : Unit, Receiver e room (do
      let u ← Machine.getTs e
      if u.rawPsiRegistered then Machine.notify (.psiRaw e t) else Pure.pure ()) := fun _ =>
    .bind .getTs fun _ => .ite (.notify _) (.pure ())
  exact .bind .getTs fun _ => .ite (.bind (.callback _) fun _ => .bind (.stream _) hraw) (hraw ())

theorem psiWatchdog : Receiver e room (psiWatchdog e) :=
  .bind .getTs fun _ => .ite (.bind (.stream _) fun _ => .notifyPes _ _) (.pure ())

/-- TS_PACKET (R271). -/
theorem tsPacket {addr : Nat} (h : ∀ B, room = some B → addr + 188 ≤ B) (ts : Word) :
    Receiver e room (tsPacket e addr ts) := by
  have hend : ∀ _ : Unit, Receiver e room (do
      Machine.psiWatchdog e
      Pure.pure Status.success) := fun _ => .bind .psiWatchdog fun _ => .pure _
  refine .bind (.memRead h) fun t => .ite (.pure _) (.bind (.stream _) fun _ => .bind .getPar fun p =>
    .bind .getTs fun u => ?_)
  cases u.classify p (tsHeader t).pid with
  | video => exact .bind (.streamPacket _ _ _) hend
  | audio => exact .bind (.streamPacket _ _ _) hend
  | psi => exact .bind (.psiPacket _) hend
  | hdv => exact .ite (.bind (.notify _) hend) (hend ())
  | other => exact hend ()

theorem flushStream (y : StreamType) : Receiver e room (flushStream e y) :=
  .bind .getTs fun _ => .ite (.bind (.deliver y _) fun _ => .stream _) (.stream _)

/-- TS_FLUSH (R287). -/
theorem tsFlush : Receiver e room (tsFlush e) := .bind (.flushStream _) fun _ => .flushStream _

/-! The universal receiver (42_buffer_engine.md R180). -/

theorem feedPackets (pa : Nat) : ∀ n i, Receiver e none (feedPackets e pa n i)
  | 0, _ => .pure ()
  | n + 1, i => .bind (.memRead fun _ h => by cases h) fun _ =>
      .bind (.tsPacket (fun _ h => by cases h) _) fun _ => feedPackets pa n (i + 1)

theorem feedRecord (pa : Nat) (r : CipRecord) (attached : Bool) :
    Receiver e none (feedRecord e pa r attached) :=
  .bind (.lastFmt _) fun _ => .ite (.bind (.feedPackets pa _ 0) fun _ => .pure _) (.pure _)

theorem urxPacket (hdr : Word) (pa : Nat) : Receiver e none (urxPacket e hdr pa) := by
  refine .ite (.pure _) (.bind (.memRead fun _ h => by cases h) fun p => .bind .getPar fun par => ?_)
  cases parseCip par.maxSourcePackets p (dataLength hdr) with
  | none => exact .pure _
  | some r => exact .bind .getEng fun g => .ite (.bind .tsFlush fun _ => .feedRecord pa r _) (.feedRecord pa r _)

/-- URX_CYCLE (R180). -/
theorem urxCycle (hdr : Word) (pa : Nat) (ts : Word) : Receiver e none (urxCycle e hdr pa ts) := by
  rw [urxCycle_eq]
  exact .bind .getEng fun _ => .ite (.bind (.notify _) fun _ => .urxPacket hdr pa) (.urxPacket hdr pa)

end Receiver

/-! ### What a receiver leaves, whatever the clients do -/

/-- A receiver leaves its engine, but for the watchdog that a client may set and the format it has noted. -/
def EngIntake (x y : Eng) : Prop :=
  y = { x with wdRegistered := y.wdRegistered, wdArmed := y.wdArmed, lastFmt := y.lastFmt }

/-- What a receiver at index `e` leaves of the state. -/
structure Intake (e : Nat) (s t : State) : Prop extends TapeLaw s t where
  par : t.par = s.par
  instances : t.inst.length = s.inst.length
  eng : EngIntake (s.eng e) (t.eng e)

theorem EngIntake.trans {x y z : Eng} (a : EngIntake x y) (b : EngIntake y z) : EngIntake x z := by
  rw [EngIntake] at *
  rw [b, a]

theorem EngIntake.setWatchdog (x : Eng) (b : Bool) : EngIntake x (x.setWatchdog b) := by
  unfold Eng.setWatchdog
  split <;> rfl

theorem intake_refl (s : State) : Intake e s s := ⟨TapeLaw.refl s, rfl, rfl, rfl⟩

theorem Intake.trans {s t u : State} (a : Intake e s t) (b : Intake e t u) : Intake e s u :=
  ⟨a.toTapeLaw.trans b.toTapeLaw, b.par.trans a.par, b.instances.trans a.instances, a.eng.trans b.eng⟩

theorem intake_travels : Travels (Intake e) := ⟨intake_refl, Intake.trans⟩

/-- A move outside the parameters, the instances and the answers. -/
theorem intake_of_same {s t : State} (hpar : t.par = s.par) (hinst : t.inst = s.inst) (htape : TapeLaw s t) :
    Intake e s t := by
  have heng : t.eng e = s.eng e := by simp [State.eng, State.instAt, hinst, hpar]
  exact ⟨htape, hpar, by rw [hinst], by rw [heng]; rfl⟩

theorem intake_modEng {s : State} {j : Nat} {g : Eng → Eng} (hg : ∀ x, EngIntake x (g x)) :
    Intake e s (s.modEng j g) := by
  refine ⟨tapeLaw_of_same rfl rfl, rfl, by simp, ?_⟩
  by_cases hj : j < s.inst.length
  · by_cases hje : j = e
    · subst hje
      rw [eng_modEng_same _ _ hj]
      exact hg _
    · rw [eng_modEng_ne _ _ hje]
      rfl
  · rw [modEng_absent hj]
    rfl

theorem intake_modDvr (s : State) (j : Nat) (g : Dvr → Dvr) : Intake e s (s.modDvr j g) :=
  ⟨tapeLaw_of_same rfl rfl, rfl, by simp, by rw [eng_modDvr]; rfl⟩

theorem intake_modTs (s : State) (j : Nat) (g : Ts → Ts) : Intake e s (s.modTs j g) :=
  ⟨tapeLaw_of_same rfl rfl, rfl, by simp, by rw [eng_modTs]; rfl⟩

theorem intake_calls : CallStable (Intake e) where
  toTravels := intake_travels
  setCmd _ _ := intake_of_same rfl rfl (tapeLaw_of_same rfl rfl)
  setStatus _ _ := intake_of_same rfl rfl (tapeLaw_of_same rfl rfl)
  setRes0 _ _ := intake_of_same rfl rfl (tapeLaw_of_same rfl rfl)
  setRes1 _ _ := intake_of_same rfl rfl (tapeLaw_of_same rfl rfl)
  setRes2 _ _ := intake_of_same rfl rfl (tapeLaw_of_same rfl rfl)
  setRes3 _ _ := intake_of_same rfl rfl (tapeLaw_of_same rfl rfl)
  hostWrite _ r _ := by cases r <;> exact intake_of_same rfl rfl (tapeLaw_of_same rfl rfl)
  writeBytes _ _ _ _ := intake_of_same rfl rfl (tapeLaw_of_same rfl rfl)
  takeFault _ _ := intake_of_same rfl rfl (tapeLaw_of_same rfl rfl)
  release s j _ _ _ _ := intake_modDvr s j _
  releaseBuf s j _ _ _ := intake_modTs s j _
  setWatchdog _ _ b := intake_modEng fun x => EngIntake.setWatchdog x b
  enterCallback _ _ := intake_of_same rfl rfl (tapeLaw_of_same rfl rfl)
  leaveCallback _ := intake_of_same rfl rfl (tapeLaw_of_same rfl rfl)
  emit _ _ := intake_of_same rfl rfl (tapeLaw_of_same rfl rfl)
  takeDraw _ _ h := intake_of_same rfl rfl (tapeLaw_takeDraw h)

/-! ### How a receiver runs -/

/-- What holds of every part of a receiver: what it leaves, that it halts the block where it raises, that it
runs the same whatever the command port holds where its clients touch BUF only, and that it raises nothing
where its clients do nothing and `room` bounds what it reads. -/
structure Tame (e : Nat) (room : Option Nat) {α : Type} (m : M α) : Prop where
  intake : Leads (Intake e) m
  faultHalts : FaultHalts m
  steady : ∀ {s}, (∀ d ∈ s.tape, d.portOnly) → (finalState (m s)).reach ≤ s.reach → Steady m s
  goesOn : ∀ {s}, room = some s.par.bufBytes → (∀ d ∈ s.tape, d.quiet) →
    (finalState (m s)).reach ≤ s.reach → ∃ a t, m s = .ok a t

section

variable {α β : Type}

/-- A part that always goes on, and takes nothing off the tape. -/
theorem tame_of_ok {m : M α} {a : State → α} {f : State → State} (h : ∀ s, m s = .ok (a s) (f s))
    (hf : ∀ s, Intake e s (f s)) (hkeeps : ∀ s, (f s).halted = s.halted ∧ (f s).inCallback = s.inCallback)
    (hports : ∀ s p, m (s.withPorts p) = .ok (a s) ((f s).withPorts p)) : Tame e room m where
  intake s := by rw [h]; exact hf s
  faultHalts := faultHalts_of_ok fun s => ⟨_, _, h s⟩
  steady _ _ := steady_of_ok (h _) (hkeeps _) (hports _)
  goesOn _ _ _ := ⟨_, _, h _⟩

theorem tame_bind {m : M α} {k : α → M β} (hm : Tame e room m) (hk : ∀ a, Tame e room (k a)) :
    Tame e room (m >>= k) where
  intake := leads_bind intake_travels hm.intake fun a => (hk a).intake
  faultHalts := faultHalts_bind hm.faultHalts fun a => (hk a).faultHalts
  steady {s} hs hreach := by
    have hintake := hm.intake s
    cases hr : m s with
    | ok a t =>
      rw [hr] at hintake
      rw [run_bind, hr] at hreach
      have hrest : t.reach ≤ (finalState (k a t)).reach := ((hk a).intake t).reach_le
      refine steady_bind (hm.steady hs (by rw [hr]; exact hrest.trans hreach)) fun b u hu => ?_
      cases hr.symm.trans hu
      exact (hk a).steady (fun d hd => hs d (hintake.suffix.subset hd)) (hreach.trans hintake.reach_le)
    | error c t =>
      rw [run_bind, hr] at hreach
      exact steady_bind (hm.steady hs (by rw [hr]; exact hreach)) fun b u hu =>
        absurd (hr.symm.trans hu) (by simp)
  goesOn {s} hroom hs hreach := by
    have hintake := hm.intake s
    have hstart : (finalState (m s)).reach ≤ (finalState ((m >>= k) s)).reach := by
      rw [run_bind]
      cases m s with
      | ok a t => exact ((hk a).intake t).reach_le
      | error c t => exact Nat.le_refl _
    obtain ⟨a, t, hr⟩ := hm.goesOn hroom hs (hstart.trans hreach)
    rw [hr] at hintake
    rw [run_bind, hr] at hreach ⊢
    exact (hk a).goesOn (hintake.par ▸ hroom) (fun d hd => hs d (hintake.suffix.subset hd))
      (hreach.trans hintake.reach_le)

theorem tame_callback (o : Out) : Tame e room (callback o) where
  intake := leads_callback intake_calls o
  faultHalts := faultHalts_callback o
  steady {s} hs hreach := by
    cases ht : s.tape with
    | nil => exact absurd hreach (Nat.not_le.mpr (reach_callback_free ht))
    | cons d ds => exact steady_callback ht (hs d (by simp [ht]))
  goesOn {s} _ hs hreach := by
    cases ht : s.tape with
    | nil => exact absurd hreach (Nat.not_le.mpr (reach_callback_free ht))
    | cons d ds => exact ⟨_, _, run_callback_quiet ht (hs d (by simp [ht]))⟩

theorem tame_memRead {a n : Nat} (h : ∀ B, room = some B → a + n ≤ B) : Tame e room (memRead a n) where
  intake := leads_memRead intake_travels intake_calls.takeFault a n
  faultHalts := faultHalts_memRead a n
  steady _ _ := steady_memRead a n _
  goesOn hroom _ _ := ⟨_, _, run_memRead_ok (h _ hroom)⟩

end

theorem Receiver.tame {α : Type} {m : M α} (h : Receiver e room m) : Tame e room m := by
  induction h with
  | pure a => exact tame_of_ok (fun s => run_pure s a) intake_refl (fun _ => ⟨rfl, rfl⟩) fun _ _ => rfl
  | getEng => exact tame_of_ok (fun s => run_getEng s e) intake_refl (fun _ => ⟨rfl, rfl⟩) fun _ _ => rfl
  | getDvr => exact tame_of_ok (fun s => run_getDvr s e) intake_refl (fun _ => ⟨rfl, rfl⟩) fun _ _ => rfl
  | getTs => exact tame_of_ok (fun s => run_getTs s e) intake_refl (fun _ => ⟨rfl, rfl⟩) fun _ _ => rfl
  | getPar => exact tame_of_ok (fun s => run_getPar s) intake_refl (fun _ => ⟨rfl, rfl⟩) fun _ _ => rfl
  | getState _ hports ih =>
    refine ⟨fun s => (ih s).intake s, fun s => (ih s).faultHalts s, fun {s} hs hreach => ?_,
      fun {s} => (ih s).goesOn⟩
    have hk := (ih s).steady hs hreach
    refine ⟨hk.noReset, hk.keeps, fun p => ?_⟩
    rw [run_bind, run_getState, run_bind, run_getState]
    dsimp only
    rw [hports]
    exact hk.ports p
  | callback o => exact tame_callback o
  | memRead h => exact tame_memRead h
  | frame g =>
    exact tame_of_ok (fun s => run_modDvr s e g) (fun s => intake_modDvr s e g) (fun _ => ⟨rfl, rfl⟩)
      fun _ _ => rfl
  | stream g =>
    exact tame_of_ok (fun s => run_modTs s e g) (fun s => intake_modTs s e g) (fun _ => ⟨rfl, rfl⟩)
      fun _ _ => rfl
  | lastFmt f =>
    exact tame_of_ok (fun s => run_modEng s e _) (fun s => intake_modEng fun _ => rfl)
      (fun _ => ⟨rfl, rfl⟩) fun _ _ => rfl
  | bind _ _ ihm ihk => exact tame_bind ihm ihk

/-! ### The receiver commands, one after another -/

/-- A command's pseudocode on its operands ARG0 to ARG2. -/
def operandsBody (m : Word → Word → Word → M Status) : M (Option Status) :=
  getState >>= fun s => m s.arg0 s.arg1 s.arg2 >>= answer

/-- `i` is the command that runs `m` on its operands. -/
structure ReceiverCommand (e : Nat) (i : Instr) (m : Word → Word → Word → M Status) : Prop where
  exec_eq : ∀ s, exec i s = asCommand i (operandsBody m) s
  names : namedInstance i = some e
  receiver : ∀ a0 a1 a2, Receiver e none (m a0 a1 a2)

theorem dvrCycle_command (e : Nat) :
    ReceiverCommand e (.dvrCycle e) fun a0 a1 a2 => dvrCycle e a0 a1.toNat a2 :=
  ⟨fun _ => rfl, rfl, fun _ _ _ => .dvrCycle _ _ _⟩

theorem urxCycle_command (e : Nat) :
    ReceiverCommand e (.urxCycle e) fun a0 a1 a2 => urxCycle e a0 a1.toNat a2 :=
  ⟨fun _ => rfl, rfl, fun _ _ _ => .urxCycle _ _ _⟩

theorem tsPacket_command (e : Nat) :
    ReceiverCommand e (.tsPacket e) fun a0 a1 _ => tsPacket e a0.toNat a1 :=
  ⟨fun _ => rfl, rfl, fun _ _ _ => .tsPacket (fun _ h => by cases h) _⟩

theorem tsFlush_command (e : Nat) :
    ReceiverCommand e (.tsFlush e) fun _ _ _ => tsFlush e >>= fun _ => pure .success := by
  refine ⟨fun s => ?_, rfl, fun _ _ _ => .bind .tsFlush fun _ => .pure _⟩
  have hbody : tsFlushBody e = operandsBody fun _ _ _ => tsFlush e >>= fun _ => pure .success := by
    funext s
    rw [tsFlushBody, operandsBody, run_bind, run_bind, run_getState]
    dsimp only
    rw [run_bind, run_bind]
    cases tsFlush e s <;> rfl
  show asCommand _ (tsFlushBody e) s = _
  rw [hbody]

namespace ReceiverCommand

variable {i : Instr} {m : Word → Word → Word → M Status}

/-- How the command ends. -/
theorem endCommand_operandsBody (s : State) : endCommand (operandsBody m s) =
    match m s.arg0 s.arg1 s.arg2 s with
    | .ok c t => t.setStatus c
    | .error .fault t => t
    | .error .reset t => t.resetBlock := by
  rw [operandsBody, run_bind, run_getState]
  dsimp only
  rw [run_bind]
  rcases m s.arg0 s.arg1 s.arg2 s with _ | ⟨_ | _, _⟩ <;> rfl

theorem reach_endCommand (s : State) :
    (endCommand (operandsBody m s)).reach = (finalState (m s.arg0 s.arg1 s.arg2 s)).reach := by
  rw [endCommand_operandsBody]
  rcases m s.arg0 s.arg1 s.arg2 s with _ | ⟨_ | _, _⟩ <;> rfl

/-- But for its registers, a command that no reset cuts short ends as its pseudocode does. -/
theorem ports_endCommand {s : State} (p : Ports) (h : ∀ t, m s.arg0 s.arg1 s.arg2 s ≠ .error .reset t) :
    (endCommand (operandsBody m s)).withPorts p =
      (finalState (m s.arg0 s.arg1 s.arg2 s)).withPorts p := by
  rw [endCommand_operandsBody]
  cases hr : m s.arg0 s.arg1 s.arg2 s with
  | ok a t => rfl
  | error c t =>
    cases c with
    | fault => rfl
    | reset => exact absurd hr (h t)

variable (h : ReceiverCommand e i m)

include h

theorem within_idle {s : State} (hs : s.idle) (he : e < s.inst.length) (a0 a1 a2 : Word) :
    s.within i a0 a1 a2 = (endCommand (operandsBody m
      (s.withPorts ⟨a0, a1, a2, s.res0, s.status⟩))).withPorts s.ports :=
  within_eq_of_exec ((h.exec_eq _).trans (asCommand_run_instance h.names hs.1 he (.inl hs.2)))

theorem within_halted {s : State} (hs : s.halted = true) (a0 a1 a2 : Word) :
    s.within i a0 a1 a2 = s :=
  within_eq_of_exec (t := { s with arg0 := a0, arg1 := a1, arg2 := a2 })
    ((h.exec_eq _).trans (asCommand_halted hs))

theorem exec_tapeLaw {s t : State} (ht : exec i s = .next t) : TapeLaw s t := by
  have hT : Travels TapeLaw := ⟨TapeLaw.refl, TapeLaw.trans⟩
  have hbody : Leads TapeLaw (operandsBody m) := leads_bind hT (leads_getState hT) fun s =>
    leads_bind hT (fun t => ((h.receiver _ _ _).tame.intake t).toTapeLaw) fun _ => leads_answer hT _
  rw [h.exec_eq, asCommand] at ht
  cases ht
  split
  · exact TapeLaw.refl s
  · exact leads_stepEnd hT (fun _ => tapeLaw_of_same rfl rfl)
      (leads_runCommand hT (fun _ _ => tapeLaw_of_same rfl rfl) (fun _ _ => tapeLaw_of_same rfl rfl) i
        (hbody s))

theorem within_tapeLaw (s : State) (a0 a1 a2 : Word) : TapeLaw s (s.within i a0 a1 a2) := by
  obtain ⟨t, ht⟩ : ∃ t, exec i { s with arg0 := a0, arg1 := a1, arg2 := a2 } = .next t :=
    ⟨_, h.exec_eq _⟩
  obtain ⟨hsuffix, hle, heq⟩ := h.exec_tapeLaw ht
  rw [within_eq_of_exec ht]
  exact ⟨hsuffix, hle, heq⟩

/-- Where the clients touch BUF only, a command that another's pseudocode calls runs as that pseudocode. -/
theorem run_within {s : State} (hs : s.idle) (he : e < s.inst.length) (hport : ∀ d ∈ s.tape, d.portOnly)
    {a0 a1 a2 : Word} (hreach : (s.within i a0 a1 a2).reach ≤ s.reach) :
    s.within i a0 a1 a2 = finalState (m a0 a1 a2 s) ∧ Steady (m a0 a1 a2) s := by
  rw [h.within_idle hs he] at hreach ⊢
  generalize hp : (⟨a0, a1, a2, s.res0, s.status⟩ : Ports) = p at hreach ⊢
  obtain rfl : p.arg0 = a0 := by rw [← hp]
  obtain rfl : p.arg1 = a1 := by rw [← hp]
  obtain rfl : p.arg2 = a2 := by rw [← hp]
  have htame := (h.receiver p.arg0 p.arg1 p.arg2).tame
  have hreach' : (finalState (m p.arg0 p.arg1 p.arg2 (s.withPorts p))).reach ≤ s.reach := by
    exact (reach_endCommand (m := m) (s.withPorts p)).symm.trans_le hreach
  have hsteady := htame.steady (s := s.withPorts p) hport hreach'
  have hfinal : finalState (m p.arg0 p.arg1 p.arg2 s) =
      (finalState (m p.arg0 p.arg1 p.arg2 (s.withPorts p))).withPorts s.ports := by
    rw [show m p.arg0 p.arg1 p.arg2 s = _ from hsteady.ports s.ports]
    cases m p.arg0 p.arg1 p.arg2 (s.withPorts p) <;> rfl
  refine ⟨?_, htame.steady hport ?_⟩
  · rw [ports_endCommand _ hsteady.noReset, hfinal]
    rfl
  · rw [hfinal]
    exact hreach'

end ReceiverCommand

end Sys2Proof.Machine
end

section
/-! PROOF. EV_SEGMENT in full (obligation O31): its cycles are the commands DVR_CYCLE, URX_CYCLE, DVT_CYCLE and
UTX_CYCLE one after another where the clients touch BUF only, and the ring moves whatever they do
(42_buffer_engine.md R161 to R168). -/

namespace Sys2Proof.Machine

variable {e : Nat} {s : State}

/-! ### Receiver commands one after another -/

/-- `n` commands `i`, the `j`-th on the operands `ops j`, where other pseudocode calls theirs. -/
def State.taken (s : State) (i : Instr) (ops : Nat → State → Word × Word × Word) (n : Nat) : State :=
  (List.range n).foldl (fun t j => t.within i (ops j t).1 (ops j t).2.1 (ops j t).2.2) s

section

variable {i : Instr} {ops : Nat → State → Word × Word × Word}

theorem State.taken_succ (s : State) (n : Nat) : s.taken i ops (n + 1) =
    (s.within i (ops 0 s).1 (ops 0 s).2.1 (ops 0 s).2.2).taken i (fun j => ops (j + 1)) n := by
  simp only [State.taken, List.range_succ_eq_map, List.foldl_cons, List.foldl_map, Nat.succ_eq_add_one]

namespace ReceiverCommand

variable {m : Word → Word → Word → M Status} (h : ReceiverCommand e i m)

include h

theorem taken_tapeLaw (n : Nat) (s : State) : TapeLaw s (s.taken i ops n) := by
  induction n generalizing s ops with
  | zero => exact TapeLaw.refl s
  | succ n ih =>
    rw [State.taken_succ]
    exact (h.within_tapeLaw s _ _ _).trans (ih _)

theorem taken_halted (hs : s.halted = true) (n : Nat) : s.taken i ops n = s := by
  induction n generalizing ops with
  | zero => rfl
  | succ n ih => rw [State.taken_succ, h.within_halted hs, ih]

/-- One such command: its pseudocode ends, or raises and halts the block. -/
theorem run_first (hs : s.idle) (he : e < s.inst.length) (hport : ∀ d ∈ s.tape, d.portOnly)
    {a0 a1 a2 : Word} (hreach : (s.within i a0 a1 a2).reach ≤ s.reach) :
    (∃ st, m a0 a1 a2 s = .ok st (s.within i a0 a1 a2) ∧ (s.within i a0 a1 a2).idle) ∨
      m a0 a1 a2 s = .error .fault (s.within i a0 a1 a2) ∧ (s.within i a0 a1 a2).halted = true := by
  obtain ⟨hwithin, hsteady⟩ := h.run_within hs he hport hreach
  rw [hwithin]
  cases hr : m a0 a1 a2 s with
  | ok st t =>
    obtain ⟨hhalt, hcall⟩ := hsteady.keeps st t hr
    exact .inl ⟨st, rfl, hhalt.trans hs.1, hcall.trans hs.2⟩
  | error c t =>
    cases c with
    | fault => exact .inr ⟨rfl, (h.receiver a0 a1 a2).tame.faultHalts s t hr⟩
    | reset => exact absurd hr (hsteady.noReset t)

theorem within_intake (hs : s.idle) (he : e < s.inst.length) (hport : ∀ d ∈ s.tape, d.portOnly)
    {a0 a1 a2 : Word} (hreach : (s.within i a0 a1 a2).reach ≤ s.reach) :
    Intake e s (s.within i a0 a1 a2) := by
  rw [(h.run_within hs he hport hreach).1]
  exact (h.receiver a0 a1 a2).tame.intake s

end ReceiverCommand

end

/-! ### The cycles of a receive segment (42_buffer_engine.md R161, R166) -/

/-- The per-cycle command of a receive kind. -/
def receiveCommand (e : Nat) (k : Kind) : Instr := if k = .dvrx then .dvrCycle e else .urxCycle e

/-- The header, the buffer address and the time stamp of cycle `k + j`. -/
def cycleOperands (g : Eng) (hdr : Nat → Word) (ts : Word) (k j : Nat) (_ : State) : Word × Word × Word :=
  (hdr (k + j), BitVec.ofNat 32 (g.slotAddr (k + j)), ts)

theorem State.consumed_eq_taken (s : State) (e k n : Nat) (hdr : Nat → Word) (ts : Word) :
    s.consumed e k n hdr ts =
      s.taken (receiveCommand e (s.eng e).kind) (cycleOperands (s.eng e) hdr ts k) n := rfl

/-- Cycle `k` is there, and its buffer has an address. -/
structure Eng.Arrived (g : Eng) (hdr : Nat → Word) (k : Nat) : Prop where
  written : sparseGet g.slotHdr k = some (hdr k)
  fits : dataLength (hdr k) ≤ g.cycleBufSize.toNat
  address : g.slotAddr k < 2 ^ 32

/-- The per-cycle function of a receive kind is the pseudocode of its command. -/
theorem consumeCycle_command {g : Eng} (hk : g.kind = .dvrx ∨ g.kind = .urx) (c : Nat) (ts : Word) :
    ∃ m, ReceiverCommand e (receiveCommand e g.kind) m ∧ ∀ (s : State) (k : Nat) (h : Word),
      EngIntake g (s.eng e) → sparseGet g.tsSlot c = some ts → g.slotAddr k < 2 ^ 32 →
      consumeCycle e c k h s =
        (m h (BitVec.ofNat 32 (g.slotAddr k)) ts >>= fun _ => pure ()) s := by
  have hstart : ∀ (s : State) (k : Nat) (h : Word), EngIntake g (s.eng e) → sparseGet g.tsSlot c = some ts →
      g.slotAddr k < 2 ^ 32 → (s.eng e).kind = g.kind ∧ (s.eng e).slotAddr k =
        (BitVec.ofNat 32 (g.slotAddr k)).toNat ∧ readTsSlot e c s = .ok ts s := by
    intro s k h hg hts haddr
    have hslot : sparseGet (s.eng e).tsSlot c = some ts := by rw [hg]; exact hts
    have hsame : (s.eng e).slotAddr k = g.slotAddr k := by rw [hg]; rfl
    exact ⟨by rw [hg], by rw [hsame, BitVec.toNat_ofNat, Nat.mod_eq_of_lt haddr], run_readTsSlot hslot⟩
  rcases hk with hk | hk
  · refine ⟨_, by rw [hk]; exact dvrCycle_command e, fun s k h hg hts haddr => ?_⟩
    obtain ⟨hkind, hsame, hread⟩ := hstart s k h hg hts haddr
    rw [consumeCycle, run_bind, run_getEng]
    dsimp only
    rw [run_bind, hread]
    simp only [hkind, hk, hsame]
  · refine ⟨_, by rw [hk]; exact urxCycle_command e, fun s k h hg hts haddr => ?_⟩
    obtain ⟨hkind, hsame, hread⟩ := hstart s k h hg hts haddr
    rw [consumeCycle, run_bind, run_getEng]
    dsimp only
    rw [run_bind, hread]
    simp only [hkind, hk, hsame]

/-- The first `n` cycles of a receive segment, one command each, and the others after them. -/
theorem run_segmentCycles_receive {g : Eng} (hk : g.kind = .dvrx ∨ g.kind = .urx) {c : Nat} {ts : Word}
    {hdr : Nat → Word} (hts : sparseGet g.tsSlot c = some ts) (r n k : Nat) (any : Bool) {s : State}
    (hs : s.idle) (he : e < s.inst.length) (hg : EngIntake g (s.eng e)) (hport : ∀ d ∈ s.tape, d.portOnly)
    (hall : ∀ j, j < n → g.Arrived hdr (k + j))
    (hreach : (s.taken (receiveCommand e g.kind) (cycleOperands g hdr ts k) n).reach ≤ s.reach) :
    let all := s.taken (receiveCommand e g.kind) (cycleOperands g hdr ts k) n
    Intake e s all ∧ ∃ b, segmentCycles e c (n + r) k any s =
      if all.halted then .error .fault all else segmentCycles e c r (k + n) b all := by
  obtain ⟨m, hcmd, hconsume⟩ := consumeCycle_command (e := e) hk c ts
  have hrecv : (s.eng e).kind.isReceive = true := by rw [hg]; exact (Kind.isReceive_iff _).mpr hk
  induction n generalizing s k any with
  | zero =>
    refine ⟨intake_refl s, any, ?_⟩
    show _ = if s.halted then _ else _
    rw [if_neg (by simp [hs.1]), Nat.zero_add]
    rfl
  | succ n ih =>
    have hops : (fun j => cycleOperands g hdr ts k (j + 1)) = cycleOperands g hdr ts (k + 1) := by
      funext j t
      rw [cycleOperands, cycleOperands, Nat.add_right_comm, Nat.add_assoc]
    rw [State.taken_succ, hops] at hreach ⊢
    have hfirst : cycleOperands g hdr ts k 0 s = (hdr k, BitVec.ofNat 32 (g.slotAddr k), ts) := rfl
    rw [hfirst] at hreach ⊢
    dsimp only at hreach ⊢
    obtain ⟨hwritten, hfits, haddr⟩ := hall 0 (Nat.succ_pos n)
    rw [Nat.add_zero] at hwritten hfits haddr
    have hreach1 := (hcmd.taken_tapeLaw n _).reach_le.trans hreach
    have hintake := hcmd.within_intake hs he hport hreach1
    have hcheck : checkSlot e k s = .ok (hdr k) s :=
      run_checkSlot_ok (by rw [hg]; exact hwritten) (by rw [hg]; exact hfits)
    rw [Nat.add_right_comm, segmentCycles, run_bind, run_getEng]
    dsimp only
    rw [run_ite, if_pos hrecv, run_bind, hcheck]
    dsimp only
    rw [run_bind, hconsume s k (hdr k) hg hts haddr, run_bind]
    rcases hcmd.run_first hs he hport hreach1 with ⟨st, hrun, hidle⟩ | ⟨hrun, hhalt⟩
    · have hg' := hg.trans hintake.eng
      obtain ⟨hrest, b, hb⟩ := ih (k + 1) (any || carriesPayload (hdr k)) hidle (hintake.instances ▸ he) hg'
        (fun d hd => hport d (hintake.suffix.subset hd))
        (fun j hj => by rw [Nat.add_right_comm, Nat.add_assoc]; exact hall (j + 1) (Nat.succ_lt_succ hj))
        (hreach.trans hintake.reach_le) (by rw [hg']; exact (Kind.isReceive_iff _).mpr hk)
      refine ⟨hintake.trans hrest, b, ?_⟩
      rw [hrun, ← Nat.add_assoc, Nat.add_right_comm k n 1]
      exact hb
    · rw [hcmd.taken_halted hhalt, hhalt, hrun]
      exact ⟨hintake, any, rfl⟩

/-! ### The cycles of a transmit segment -/

/-- The per-cycle command of a transmit kind. -/
theorem run_segmentCycles_transmit {produce : Nat → M (Status × Nat)} {kind : Kind} {c : Nat}
    (hrecv : kind.isReceive = false)
    (hproduce : ∀ (s : State) (k : Nat), (s.eng e).kind = kind →
      produceCycle e k s = (produce k >>= fun _ => pure ()) s)
    (hproducer : ∀ k, Producer e true (produce k)) (n k : Nat) (any : Bool) {s : State}
    (hk : (s.eng e).kind = kind) :
    segmentCycles e c n k any s = (produceFrom produce n k >>= fun _ => pure any) s := by
  induction n generalizing k s with
  | zero => rfl
  | succ n ih =>
    have hcourse := (hproducer k).course s
    rw [segmentCycles, run_bind, run_getEng]
    dsimp only
    rw [run_ite, if_neg (by simp [hk, hrecv]), run_bind, hproduce s k hk, run_bind, run_bind, produceFrom,
      run_bind]
    cases hr : produce k s with
    | error r t => rfl
    | ok a t =>
      rw [hr] at hcourse
      have hkind : (t.eng e).kind = kind := hcourse.eng.kind.trans hk
      change segmentCycles e c n (k + 1) any t = _
      rw [ih (k + 1) hkind, run_bind]

theorem run_segmentCycles_dvtx {c n k : Nat} {any : Bool} (hk : (s.eng e).kind = .dvtx) :
    segmentCycles e c n k any s = (produceFrom (dvtCycle e) n k >>= fun _ => pure any) s :=
  run_segmentCycles_transmit rfl
    (fun s k hk => by rw [produceCycle, run_bind, run_getEng]; simp only [hk]) Producer.dvtCycle n k any hk

theorem run_segmentCycles_utx {c n k : Nat} {any : Bool} (hk : (s.eng e).kind = .utx) :
    segmentCycles e c n k any s = (produceFrom (utxCycle e) n k >>= fun _ => pure any) s :=
  run_segmentCycles_transmit rfl
    (fun s k hk => by rw [produceCycle, run_bind, run_getEng]; simp only [hk]) Producer.utxCycle n k any hk

/-! ### The event, whatever the clients do -/

theorem faultHalts_readTsSlot (e c : Nat) : FaultHalts (readTsSlot e c) := by
  refine faultHalts_bind (faultHalts_of_ok fun s => ⟨_, s, rfl⟩) fun g => ?_
  cases sparseGet g.tsSlot c with
  | some t => exact faultHalts_pure t
  | none => exact faultHalts_bind faultHalts_draw fun _ => faultHalts_pure _

theorem faultHalts_checkSlot (e k : Nat) : FaultHalts (checkSlot e k) := by
  refine faultHalts_bind (faultHalts_of_ok fun s => ⟨_, s, rfl⟩) fun g => ?_
  cases sparseGet g.slotHdr k with
  | some h => exact faultHalts_ite (faultHalts_raise _) (faultHalts_pure h)
  | none => exact faultHalts_raise _

theorem faultHalts_consumeCycle (e c k : Nat) (h : Word) : FaultHalts (consumeCycle e c k h) := by
  refine faultHalts_bind (faultHalts_of_ok fun s => ⟨_, s, rfl⟩) fun g =>
    faultHalts_bind (faultHalts_readTsSlot e c) fun ts => ?_
  cases g.kind with
  | dvrx => exact faultHalts_bind (Receiver.dvrCycle _ _ _).tame.faultHalts fun _ => faultHalts_pure _
  | urx => exact faultHalts_bind (Receiver.urxCycle _ _ _).tame.faultHalts fun _ => faultHalts_pure _
  | dvtx => exact faultHalts_pure _
  | utx => exact faultHalts_pure _

theorem faultHalts_produceCycle (e k : Nat) : FaultHalts (produceCycle e k) := by
  refine faultHalts_bind (faultHalts_of_ok fun s => ⟨_, s, rfl⟩) fun g => ?_
  cases g.kind with
  | dvtx => exact faultHalts_bind (Producer.dvtCycle k).faultHalts fun _ => faultHalts_pure _
  | utx => exact faultHalts_bind (Producer.utxCycle (steals := true) k).faultHalts fun _ => faultHalts_pure _
  | dvrx => exact faultHalts_pure _
  | urx => exact faultHalts_pure _

theorem faultHalts_segmentCycles (e c : Nat) : ∀ n k any, FaultHalts (segmentCycles e c n k any)
  | 0, _, any => faultHalts_pure any
  | n + 1, k, _ => faultHalts_bind (faultHalts_of_ok fun s => ⟨_, s, rfl⟩) fun _ => faultHalts_ite
      (faultHalts_bind (faultHalts_checkSlot e k) fun h => faultHalts_bind (faultHalts_consumeCycle e c k h)
        fun _ => faultHalts_segmentCycles e c n (k + 1) _)
      (faultHalts_bind (faultHalts_produceCycle e k) fun _ => faultHalts_segmentCycles e c n (k + 1) _)

theorem faultHalts_addCycles (t : Word) (k : Nat) : FaultHalts (addCycles t k) :=
  faultHalts_bind (faultHalts_chk t) fun _ => faultHalts_pure _

theorem faultHalts_advanceTxClock (e lost : Nat) : FaultHalts (advanceTxClock e lost) :=
  faultHalts_bind (faultHalts_of_ok fun s => ⟨_, s, rfl⟩) fun _ =>
    faultHalts_bind (faultHalts_addCycles _ _) fun _ => faultHalts_update _

theorem faultHalts_correctTimestamp (e : Nat) (act exp : Word) : FaultHalts (correctTimestamp e act exp) := by
  have hadvance := faultHalts_advanceTxClock e
  have hact : ∀ _ : Unit, FaultHalts (pure act : M Word) := fun _ => faultHalts_pure act
  have htold : ∀ lost, ∀ _ : Unit, FaultHalts (do
      engMsg e .timeStampAdjust (some lost)
      pure act) := fun lost _ =>
    faultHalts_bind (faultHalts_bind (faultHalts_callback _) fun _ => faultHalts_pure _) hact
  refine faultHalts_bind (faultHalts_of_ok fun s => ⟨_, s, rfl⟩) fun g => faultHalts_ite (faultHalts_pure _) ?_
  refine faultHalts_bind (faultHalts_chk _) fun _ => faultHalts_bind (faultHalts_chk _) fun _ =>
    faultHalts_ite (faultHalts_pure _) (faultHalts_ite (faultHalts_ite ?_ (hact ()))
      (faultHalts_ite (faultHalts_bind (hadvance _) (htold _)) (htold _ ())))
  exact faultHalts_bind (faultHalts_update _) fun _ => faultHalts_bind (hadvance _) hact

theorem faultHalts_validateTimestamp (e c : Nat) : FaultHalts (validateTimestamp e c) :=
  faultHalts_bind (faultHalts_readTsSlot e c) fun _ => faultHalts_bind (faultHalts_chk _) fun _ =>
    faultHalts_bind (faultHalts_of_ok fun s => ⟨_, s, rfl⟩) fun _ =>
      faultHalts_bind (faultHalts_correctTimestamp e _ _) fun _ =>
        faultHalts_bind (faultHalts_addCycles _ _) fun _ => faultHalts_update _

theorem faultHalts_endSegment (e : Nat) (any : Bool) : FaultHalts (endSegment e any) :=
  faultHalts_of_ok fun _ => ⟨(), _, run_endSegment any⟩

theorem faultHalts_closeSegment (e c : Nat) (receives any : Bool) :
    FaultHalts (closeSegment e c receives any) :=
  faultHalts_bind (faultHalts_update _) fun _ => faultHalts_ite (faultHalts_endSegment e any)
    (faultHalts_bind (faultHalts_validateTimestamp e c) fun _ => faultHalts_endSegment e any)

/-- Only a reset adds to the count of resets. -/
def SameEpoch (s t : State) : Prop := t.epoch = s.epoch

theorem sameEpoch_calls : CallStable SameEpoch where
  refl _ := rfl
  trans a b := Eq.trans b a
  setCmd _ _ := rfl
  setStatus _ _ := rfl
  setRes0 _ _ := rfl
  setRes1 _ _ := rfl
  setRes2 _ _ := rfl
  setRes3 _ _ := rfl
  hostWrite _ r _ := by cases r <;> rfl
  writeBytes _ _ _ _ := rfl
  takeFault _ _ := rfl
  release _ _ _ _ _ _ := rfl
  releaseBuf _ _ _ _ _ := rfl
  setWatchdog _ _ _ := rfl
  enterCallback _ _ := rfl
  leaveCallback _ := rfl
  emit _ _ := rfl
  takeDraw _ _ _ := rfl

theorem sameEpoch_moves (e : Nat) : EngMoves SameEpoch e where
  toShared := sameEpoch_calls.shared
  abandonFrame _ _ _ := rfl
  beginFrame _ _ _ _ _ _ _ _ := rfl
  fillFrame _ _ _ _ := rfl
  dispatchFrame _ _ _ := rfl
  dropReference _ _ := rfl
  endDispatch _ _ := rfl
  lawful _ _ _ := rfl
  allocCurrent _ _ _ := rfl
  deliverBuf _ _ _ _ := rfl
  lastFmt _ _ := rfl
  slotHdr _ _ _ := rfl
  record _ _ _ := rfl
  steal _ := rfl
  writeBytes _ _ _ _ := rfl
  same _ _ _ := rfl
  addRegion _ _ := rfl

theorem sameEpoch_evSegment (receives : Bool) (g : Eng) (c : Nat) (s : State) :
    (finalState ((currentCycles e g >>= closeSegment e c receives) s)).epoch = s.epoch := by
  have hmoves := sameEpoch_moves e
  have hT := hmoves.toTravels
  have hend : ∀ any, Leads SameEpoch (endSegment e any) := fun any t => by rw [run_endSegment]; rfl
  have hadvance : Leads SameEpoch (modEng e (·.advance c)) := fun _ => rfl
  exact leads_bind hT (leads_segmentCycles hmoves _ _ _ _) (fun any => leads_bind hT hadvance fun _ =>
    leads_ite (hend any) (leads_bind hT (leads_validateTimestamp hmoves c) fun _ => hend any)) s

/-- The ring's move on an engine that is otherwise the same. -/
theorem EngSame.movedPast {x y z : Eng} {c S : Nat} (a : EngSame x y) (b : EngSame (y.movedPast c S) z) :
    z.jump = (x.jump.set c .overrun).set ((c + S - 1) % S) (.start c) ∧
      z.curSeg = BitVec.ofNat 16 ((c + 1) % S) ∧ z.running = x.running ∧ z.segments = x.segments ∧
      z.events = x.events := by
  refine ⟨?_, b.curSeg, b.running.trans a.running, b.segments.trans a.segments, b.events.trans a.events⟩
  rw [b.jump, Eng.movedPast, a.jump]

/-- The engine after an EV_SEGMENT that is neither cut short by a raise nor by a reset. -/
theorem eng_evSegment {t : State} (he : e < s.inst.length)
    (hrun : (currentCycles e (s.eng e) >>=
      closeSegment e (s.eng e).curSeg.toNat (s.eng e).kind.isReceive) s = .ok () t) :
    ∃ y z, EngSame (s.eng e) y ∧
      EngSame (y.movedPast (s.eng e).curSeg.toNat (s.eng e).segments.toNat) z ∧ t.eng e = z.calledBack := by
  have hcycles : KeepsEngines s (finalState (currentCycles e (s.eng e) s)) :=
    leads_segmentCycles (keepsEngines_moves e) _ _ _ _ s
  rw [run_bind] at hrun
  cases hc : currentCycles e (s.eng e) s with
  | error r u => rw [hc] at hrun; cases hrun
  | ok any u =>
    rw [hc] at hrun hcycles
    dsimp only at hrun
    obtain ⟨hinst, heng⟩ := hcycles
    have hinst' : e < u.inst.length := by rw [finalState_ok] at hinst; rwa [hinst]
    have hsegs : (u.eng e).segments.toNat = (s.eng e).segments.toNat :=
      congrArg BitVec.toNat (heng e).segments
    refine ⟨u.eng e, ?_⟩
    cases hr : (s.eng e).kind.isReceive with
    | true =>
      rw [hr, run_closeSegment_receive hsegs] at hrun
      cases hrun
      exact ⟨_, heng e, EngSame.refl _, by
        rw [eng_modEng_same _ _ (by simpa using hinst'), eng_modEng_same _ _ hinst']⟩
    | false =>
      rw [hr, run_closeSegment_transmit hsegs, run_bind] at hrun
      have hvalid := leads_validateTimestamp (keepsEngines_moves e) (s.eng e).curSeg.toNat
        (u.modEng e (Eng.movedPast (s.eng e).curSeg.toNat (s.eng e).segments.toNat))
      cases hv : validateTimestamp e (s.eng e).curSeg.toNat
          (u.modEng e (Eng.movedPast (s.eng e).curSeg.toNat (s.eng e).segments.toNat)) with
      | error r v => rw [hv] at hrun; cases hrun
      | ok a v =>
        rw [hv] at hrun hvalid
        dsimp only at hrun
        rw [run_endSegment] at hrun
        cases hrun
        obtain ⟨hinstv, hengv⟩ := hvalid
        have hmoved := hengv e
        rw [eng_modEng_same _ _ hinst'] at hmoved
        refine ⟨v.eng e, heng e, hmoved, eng_modEng_same _ _ ?_⟩
        rw [finalState_ok] at hinstv
        rw [hinstv]
        simpa using hinst'

/-! ### The obligation -/

/-- An EV_SEGMENT of CUR_SEG ends where one of its cycles raises. -/
theorem exec_evSegment_cut {t : State} (hhalt : s.halted = false) (he : e < s.inst.length)
    (hrun : (s.eng e).running = true) (hcut : currentCycles e (s.eng e) s = .error .fault t) :
    exec (.evSegment e (s.eng e).curSeg.toNat) s = .next t := by
  rw [exec_evSegment_current hhalt he hrun, run_bind, hcut]
  rfl

theorem exec_evSegment_receive {t : State} {any : Bool} (hhalt : s.halted = false) (he : e < s.inst.length)
    (hrun : (s.eng e).running = true) (hr : (s.eng e).kind.isReceive = true)
    (hcycles : currentCycles e (s.eng e) s = .ok any t) (hsegs : (t.eng e).segments = (s.eng e).segments) :
    exec (.evSegment e (s.eng e).curSeg.toNat) s = .next ((t.modEng e
      (Eng.movedPast (s.eng e).curSeg.toNat (s.eng e).segments.toNat)).modEng e Eng.calledBack) := by
  rw [exec_evSegment_current hhalt he hrun, run_bind, hcycles]
  dsimp only
  rw [hr, run_closeSegment_receive (by rw [hsegs])]
  rfl

/-- A transmit segment, from the end of its cycles on. -/
theorem exec_evSegment_transmit {all : State} {any : Bool} (hhalt : s.halted = false) (he : e < s.inst.length)
    (hrun : (s.eng e).running = true) (hr : (s.eng e).kind.isReceive = false)
    (hcycles : currentCycles e (s.eng e) s = .ok any all)
    (hsegs : (all.eng e).segments = (s.eng e).segments) (t : State) :
    let moved := all.modEng e (Eng.movedPast (s.eng e).curSeg.toNat (s.eng e).segments.toNat)
    (validateTimestamp e (s.eng e).curSeg.toNat moved = .ok () t →
      exec (.evSegment e (s.eng e).curSeg.toNat) s = .next (t.modEng e Eng.calledBack)) ∧
    (validateTimestamp e (s.eng e).curSeg.toNat moved = .error .fault t →
      exec (.evSegment e (s.eng e).curSeg.toNat) s = .next t) := by
  rw [exec_evSegment_current hhalt he hrun, run_bind, hcycles]
  dsimp only
  rw [hr, run_closeSegment_transmit (by rw [hsegs]), run_bind]
  refine ⟨fun h => ?_, fun h => ?_⟩
  · rw [h]
    dsimp only
    rw [run_endSegment]
    rfl
  · rw [h]
    rfl

/-- The cycles of a transmit segment are the producer commands of its kind. -/
theorem run_currentCycles_producer {i : Instr} {produce : Nat → M (Status × Nat)}
    (hcmd : ProducerCommand e i produce) (hs : s.idle) (he : e < s.inst.length)
    (hport : ∀ d ∈ s.tape, d.portOnly) {g : Eng}
    (hcycles : currentCycles e g s = (produceFrom produce g.cyclesPerSeg.toNat
      (g.curSeg.toNat * g.cyclesPerSeg.toNat) >>= fun _ => pure false) s)
    (hin : g.curSeg.toNat * g.cyclesPerSeg.toNat + g.cyclesPerSeg.toNat ≤ 2 ^ 32)
    (hdrawn : (s.cycled i (g.curSeg.toNat * g.cyclesPerSeg.toNat) g.cyclesPerSeg.toNat).drawn ≤ s.reach) :
    let all := s.cycled i (g.curSeg.toNat * g.cyclesPerSeg.toNat) g.cyclesPerSeg.toNat
    (all.halted = true → currentCycles e g s = .error .fault all) ∧
      (all.halted = false → currentCycles e g s = .ok false all ∧
        (all.eng e).segments = (s.eng e).segments) := by
  dsimp only
  have hlaw := hcmd.cycled_tapeLaw g.cyclesPerSeg.toNat s (g.curSeg.toNat * g.cyclesPerSeg.toNat)
  have hproduce := hcmd.run_produceFrom hs he hin hport (hlaw.reach_le_of_drawn hdrawn)
  have hcourse := (Producer.produceFrom hcmd.producer g.cyclesPerSeg.toNat
    (g.curSeg.toNat * g.cyclesPerSeg.toNat)).course s
  rw [hcycles, run_bind, hproduce]
  refine ⟨fun h => by rw [if_pos h], fun h => ?_⟩
  rw [hproduce, if_neg (by rw [h]; decide)] at hcourse
  exact ⟨by rw [if_neg (by rw [h]; decide)]; rfl, hcourse.eng.segments⟩

end Sys2Proof.Machine
end

section
/-! PROOF. EV_SEGMENT in full: the two parts of obligation O31 (42_buffer_engine.md R161 to R168). -/

namespace Sys2Proof.Machine

variable {e : Nat} {s : State}

/-- The cycles of a receive segment, where every one has arrived. -/
theorem exec_evSegment_consumed (hs : s.idle) (he : e < s.inst.length) (hport : ∀ d ∈ s.tape, d.portOnly)
    (hrun : (s.eng e).running = true) (hk : (s.eng e).kind = .dvrx ∨ (s.eng e).kind = .urx)
    {hdr : Nat → Word} {ts : Word} (hts : sparseGet (s.eng e).tsSlot (s.eng e).curSeg.toNat = some ts)
    {N : Nat} (hN : (s.eng e).cyclesPerSeg.toNat = N)
    (harrived : ∀ j, j < N → (s.eng e).Arrived hdr ((s.eng e).curSeg.toNat * N + j))
    (hdrawn : (s.consumed e ((s.eng e).curSeg.toNat * N) N hdr ts).drawn ≤ s.reach) :
    let all := s.consumed e ((s.eng e).curSeg.toNat * N) N hdr ts
    exec (.evSegment e (s.eng e).curSeg.toNat) s = .next (if all.halted then all else
      (all.modEng e (Eng.movedPast (s.eng e).curSeg.toNat (s.eng e).segments.toNat)).modEng e
        Eng.calledBack) := by
  subst hN
  obtain ⟨m, hcmd, -⟩ := consumeCycle_command (e := e) hk (s.eng e).curSeg.toNat ts
  have hlaw := hcmd.taken_tapeLaw (ops := cycleOperands (s.eng e) hdr ts
    ((s.eng e).curSeg.toNat * (s.eng e).cyclesPerSeg.toNat)) (s.eng e).cyclesPerSeg.toNat s
  obtain ⟨hintake, any, hcycles⟩ := run_segmentCycles_receive hk hts 0 _ _ false hs he (by rfl) hport harrived
    (hlaw.reach_le_of_drawn hdrawn)
  rw [← State.consumed_eq_taken] at hintake hcycles
  dsimp only
  split
  · next hhalt =>
    rw [if_pos hhalt] at hcycles
    exact exec_evSegment_cut hs.1 he hrun hcycles
  · next hgo =>
    rw [if_neg hgo] at hcycles
    exact exec_evSegment_receive hs.1 he hrun ((Kind.isReceive_iff _).mpr hk) hcycles (by rw [hintake.eng])

/-- The cycles of a receive segment up to one that has not arrived, or that one of them raises. -/
theorem exec_evSegment_notArrived (hs : s.idle) (he : e < s.inst.length) (hport : ∀ d ∈ s.tape, d.portOnly)
    (hrun : (s.eng e).running = true) (hk : (s.eng e).kind = .dvrx ∨ (s.eng e).kind = .urx)
    {hdr : Nat → Word} {ts : Word} (hts : sparseGet (s.eng e).tsSlot (s.eng e).curSeg.toNat = some ts)
    {N m : Nat} (hN : (s.eng e).cyclesPerSeg.toNat = N) (hm : m < N)
    (harrived : ∀ j, j < m → (s.eng e).Arrived hdr ((s.eng e).curSeg.toNat * N + j))
    (hdrawn : (s.consumed e ((s.eng e).curSeg.toNat * N) m hdr ts).drawn ≤ s.reach) :
    let some_ := s.consumed e ((s.eng e).curSeg.toNat * N) m hdr ts
    let k := (s.eng e).curSeg.toNat * N + m
    (some_.halted = true → exec (.evSegment e (s.eng e).curSeg.toNat) s = .next some_) ∧
    (some_.halted = false → sparseGet (s.eng e).slotHdr k = none →
      exec (.evSegment e (s.eng e).curSeg.toNat) s = .next (some_.takeFault (.cycleOversize k none))) ∧
    (∀ h, some_.halted = false → sparseGet (s.eng e).slotHdr k = some h →
      (s.eng e).cycleBufSize.toNat < dataLength h →
      exec (.evSegment e (s.eng e).curSeg.toNat) s =
        .next (some_.takeFault (.cycleOversize k (some (dataLength h))))) := by
  subst hN
  obtain ⟨i, hcmd, -⟩ := consumeCycle_command (e := e) hk (s.eng e).curSeg.toNat ts
  have hlaw := hcmd.taken_tapeLaw (ops := cycleOperands (s.eng e) hdr ts
    ((s.eng e).curSeg.toNat * (s.eng e).cyclesPerSeg.toNat)) m s
  obtain ⟨r, hr⟩ := Nat.exists_eq_add_of_lt hm
  obtain ⟨hintake, any, hcycles⟩ := run_segmentCycles_receive hk hts (r + 1) _ _ false hs he (by rfl) hport
    harrived (hlaw.reach_le_of_drawn hdrawn)
  rw [← State.consumed_eq_taken, ← Nat.add_assoc, ← hr] at hcycles
  rw [← State.consumed_eq_taken] at hintake
  generalize s.consumed e ((s.eng e).curSeg.toNat * (s.eng e).cyclesPerSeg.toNat) m hdr ts = t at *
  have hrecv : (t.eng e).kind.isReceive = true := by rw [hintake.eng]; exact (Kind.isReceive_iff _).mpr hk
  have hslots : (t.eng e).slotHdr = (s.eng e).slotHdr := by rw [hintake.eng]
  have hsize : (t.eng e).cycleBufSize = (s.eng e).cycleBufSize := by rw [hintake.eng]
  -- the cycle that is checked next raises
  have hnext : ∀ f, t.halted = false →
      checkSlot e ((s.eng e).curSeg.toNat * (s.eng e).cyclesPerSeg.toNat + m) t = .error .fault (t.takeFault f) →
      exec (.evSegment e (s.eng e).curSeg.toNat) s = .next (t.takeFault f) := by
    intro f hgo hcheck
    refine exec_evSegment_cut hs.1 he hrun (hcycles.trans ?_)
    rw [if_neg (by simp [hgo]), segmentCycles, run_bind, run_getEng]
    dsimp only
    rw [run_ite, if_pos hrecv, run_bind, hcheck]
  refine ⟨fun hhalt => ?_, fun hgo hnone => hnext _ hgo ?_, fun h hgo hsome hbig => hnext _ hgo ?_⟩
  · exact exec_evSegment_cut hs.1 he hrun (hcycles.trans (if_pos hhalt))
  · exact run_checkSlot_unwritten (by rw [hslots]; exact hnone)
  · exact run_checkSlot_oversize (by rw [hslots]; exact hsome) (by rw [hsize]; exact hbig)

/-- The cycles of a transmit segment. -/
theorem run_currentCycles_produced (hs : s.idle) (he : e < s.inst.length) (hport : ∀ d ∈ s.tape, d.portOnly)
    (hk : (s.eng e).kind = .dvtx ∨ (s.eng e).kind = .utx) {k N : Nat}
    (hN : (s.eng e).cyclesPerSeg.toNat = N) (hfirst : (s.eng e).curSeg.toNat * N = k)
    (hdrawn : (s.produced e k N).drawn ≤ s.reach) :
    ((s.produced e k N).halted = true → currentCycles e (s.eng e) s = .error .fault (s.produced e k N)) ∧
      ((s.produced e k N).halted = false → currentCycles e (s.eng e) s = .ok false (s.produced e k N) ∧
        ((s.produced e k N).eng e).segments = (s.eng e).segments) := by
  subst hN hfirst
  have hin : (s.eng e).curSeg.toNat * (s.eng e).cyclesPerSeg.toNat + (s.eng e).cyclesPerSeg.toNat ≤ 2 ^ 32 := by
    rw [← Nat.succ_mul, show 2 ^ 32 = 2 ^ 16 * 2 ^ 16 by decide]
    exact Nat.mul_le_mul (s.eng e).curSeg.isLt (s.eng e).cyclesPerSeg.isLt.le
  rcases hk with hk | hk
  · have hall : ∀ k n, s.produced e k n = s.cycled (.dvtCycle e) k n := fun k n => by
      simp only [State.produced, hk, if_true]
      rfl
    rw [hall] at hdrawn ⊢
    exact run_currentCycles_producer (dvtCycle_command e) hs he hport (run_segmentCycles_dvtx hk) hin hdrawn
  · have hall : ∀ k n, s.produced e k n = s.cycled (.utxCycle e) k n := fun k n => by
      simp only [State.produced, hk, reduceCtorEq, if_false]
      rfl
    rw [hall] at hdrawn ⊢
    exact run_currentCycles_producer (utxCycle_command e) hs he hport (run_segmentCycles_utx hk) hin hdrawn

/-- Settles O31: the cycles are commands for clients that touch BUF only; and for any clients the ring moves,
since neither the cycles nor the validation touch it. -/
theorem segmentAdvancesRing : Obligations.SegmentAdvancesRing := by
  refine ⟨?_, ?_⟩
  · intro s e hs he hport g c S N moved ended answered arrived hrun
    have harrived : ∀ {hdr k}, arrived hdr k → g.Arrived hdr k := fun h => ⟨h.1, h.2.1, h.2.2⟩
    refine ⟨fun hdr ts hk hts => ⟨?_, ?_⟩, ?_⟩
    · intro hall all hdrawn
      exact exec_evSegment_consumed hs he hport hrun hk hts rfl (fun j hj => harrived (hall j hj)) hdrawn
    · intro m hm hall some_ k hdrawn
      exact exec_evSegment_notArrived hs he hport hrun hk hts rfl hm (fun j hj => harrived (hall j hj)) hdrawn
    · intro hk all hdrawn
      obtain ⟨hcut, hok⟩ := run_currentCycles_produced hs he hport hk rfl rfl hdrawn
      have hrecv : (s.eng e).kind.isReceive = false := by rcases hk with hk | hk <;> exact hk ▸ rfl
      refine ⟨fun hhalt => exec_evSegment_cut hs.1 he hrun (hcut hhalt), fun hgo t => ?_⟩
      obtain ⟨hcycles, hsegs⟩ := hok hgo
      exact exec_evSegment_transmit hs.1 he hrun hrecv hcycles hsegs t
  · intro s t e hhalt he c S hrun hexec hgo hepoch
    rw [exec_evSegment_current hhalt he hrun] at hexec
    have hsame := sameEpoch_evSegment (e := e) (s.eng e).kind.isReceive (s.eng e) (s.eng e).curSeg.toNat s
    cases hr : (currentCycles e (s.eng e) >>=
        closeSegment e (s.eng e).curSeg.toNat (s.eng e).kind.isReceive) s with
    | ok a u =>
      obtain ⟨y, z, hy, hz, ht⟩ := eng_evSegment he hr
      obtain rfl : u = t := by
        rw [hr] at hexec
        cases hexec
        rfl
      obtain ⟨hjump, hseg, hrun', hsegs, hevents⟩ := hy.movedPast hz
      rw [ht]
      exact ⟨hjump, hseg, rfl, hrun'.trans hrun, hsegs, hevents⟩
    | error r u =>
      rw [hr] at hexec hsame
      cases r with
      | fault =>
        cases hexec
        have hfault := faultHalts_bind (faultHalts_segmentCycles e _ _ _ _)
          (fun any => faultHalts_closeSegment e _ _ any) s _ hr
        exact absurd (hgo.symm.trans hfault) (by decide)
      | reset =>
        cases hexec
        exact absurd (hepoch.symm.trans (congrArg (· + 1) hsame)) (by simp)

end Sys2Proof.Machine
end

section
/-! PROOF. URX_CYCLE (obligation O54; 42_buffer_engine.md R180, R181): the raw client, then the exits of its
pseudocode, then its source packets, each a TS_PACKET. -/

namespace Sys2Proof.Machine

variable {e : Nat} {s : State}

/-! ### Commands whose clients do nothing -/

section

variable {i : Instr} {m : Word → Word → Word → M Status}

/-- Such a command ends, where `s.par.bufBytes` bounds what it reads. -/
theorem ReceiverCommand.run_calm (h : ReceiverCommand e i m) (hs : s.idle) (he : e < s.inst.length)
    (hquiet : ∀ d ∈ s.tape, d.quiet) {a0 a1 a2 : Word} (hroom : Receiver e (some s.par.bufBytes) (m a0 a1 a2))
    (hreach : (s.within i a0 a1 a2).reach ≤ s.reach) :
    (∃ st, m a0 a1 a2 s = .ok st (s.within i a0 a1 a2)) ∧ (s.within i a0 a1 a2).idle ∧
      Intake e s (s.within i a0 a1 a2) := by
  have hport : ∀ d ∈ s.tape, d.portOnly := fun d hd => by
    obtain ⟨hacts, hreset⟩ := hquiet d hd
    exact ⟨by simp [hacts], hreset⟩
  have hfinal := (h.run_within hs he hport hreach).1
  obtain ⟨st', t, ht⟩ := hroom.tame.goesOn rfl hquiet (by rw [← hfinal]; exact hreach)
  rcases h.run_first hs he hport hreach with ⟨st, hrun, hidle⟩ | ⟨hrun, -⟩
  · exact ⟨⟨st, hrun⟩, hidle, h.within_intake hs he hport hreach⟩
  · exact absurd (ht.symm.trans hrun) (by simp)

/-- TS_FLUSH, where another command's pseudocode calls its. -/
theorem run_tsFlush_within (hs : s.idle) (he : e < s.inst.length) (hquiet : ∀ d ∈ s.tape, d.quiet)
    {a0 a1 a2 : Word} (hreach : (s.within (.tsFlush e) a0 a1 a2).reach ≤ s.reach) :
    tsFlush e s = .ok () (s.within (.tsFlush e) a0 a1 a2) ∧ (s.within (.tsFlush e) a0 a1 a2).idle ∧
      Intake e s (s.within (.tsFlush e) a0 a1 a2) := by
  obtain ⟨⟨st, hrun⟩, hidle, hintake⟩ := (tsFlush_command e).run_calm hs he hquiet
    (.bind .tsFlush fun _ => .pure _) hreach
  refine ⟨?_, hidle, hintake⟩
  rw [run_bind] at hrun
  cases hf : tsFlush e s with
  | ok a t =>
    rw [hf] at hrun
    cases hrun
    rfl
  | error c t => rw [hf] at hrun; cases hrun

end

/-! ### The source packets (42_buffer_engine.md R180) -/

/-- The 4-byte header of the source packet at `sp`. -/
def State.stampAt (t : State) (sp : Nat) : Word :=
  t.readByte sp ++ t.readByte (sp + 1) ++ t.readByte (sp + 2) ++ t.readByte (sp + 3)

/-- What TS_PACKET is given of source packet `i` of the cycle at `pa`. -/
def packetOperands (pa i : Nat) (t : State) : Word × Word × Word :=
  (BitVec.ofNat 32 (pa + 12 + 192 * i), t.stampAt (pa + 8 + 192 * i), t.arg2)

/-- One source packet. -/
theorem run_feedPackets_succ {pa : Nat} (n i : Nat) (hin : pa + 8 + 192 * i + 4 ≤ s.par.bufBytes) :
    feedPackets e pa (n + 1) i s = (tsPacket e (pa + 12 + 192 * i) (s.stampAt (pa + 8 + 192 * i)) >>= fun _ =>
      feedPackets e pa n (i + 1)) s := by
  have hstamp : be32 (s.readBytes (pa + 8 + 192 * i) 4) 0 = s.stampAt (pa + 8 + 192 * i) :=
    be32_readBytes s _ (Nat.le_refl 4)
  rw [feedPackets, run_bind, run_memRead_ok hin]
  dsimp only
  rw [hstamp, show pa + 8 + 192 * i + 4 = pa + 12 + 192 * i by omega]

theorem run_feedPackets {pa : Nat} (hword : s.par.bufBytes ≤ 2 ^ 32) (n i : Nat) (hs : s.idle)
    (he : e < s.inst.length) (hquiet : ∀ d ∈ s.tape, d.quiet) (hin : pa + 8 + 192 * (i + n) ≤ s.par.bufBytes)
    (hreach : (s.taken (.tsPacket e) (fun j => packetOperands pa (i + j)) n).reach ≤ s.reach) :
    feedPackets e pa n i s = .ok () (s.taken (.tsPacket e) (fun j => packetOperands pa (i + j)) n) := by
  induction n generalizing s i with
  | zero => rfl
  | succ n ih =>
    have hops : (fun j => packetOperands pa (i + (j + 1))) = fun j => packetOperands pa (i + 1 + j) := by
      funext j
      rw [Nat.add_right_comm, Nat.add_assoc]
    rw [State.taken_succ, hops] at hreach ⊢
    have haddr : (BitVec.ofNat 32 (pa + 12 + 192 * i)).toNat = pa + 12 + 192 * i := by
      rw [BitVec.toNat_ofNat, Nat.mod_eq_of_lt (by omega)]
    have hcmd := tsPacket_command e
    have hfirst : packetOperands pa (i + 0) s =
      (BitVec.ofNat 32 (pa + 12 + 192 * i), s.stampAt (pa + 8 + 192 * i), s.arg2) := rfl
    rw [hfirst] at hreach ⊢
    dsimp only at hreach ⊢
    obtain ⟨⟨st, hrun⟩, hidle, hintake⟩ := hcmd.run_calm hs he hquiet
      (.tsPacket (fun B hB => by cases hB; rw [haddr]; omega) _)
      ((hcmd.taken_tapeLaw n _).reach_le.trans hreach)
    rw [haddr] at hrun
    rw [run_feedPackets_succ n i (by omega), run_bind, hrun]
    refine ih (by rw [hintake.par]; exact hword) (i + 1) hidle (hintake.instances ▸ he)
      (fun d hd => hquiet d (hintake.suffix.subset hd)) ?_ (hreach.trans hintake.reach_le)
    rw [hintake.par]
    omega

/-! ### The exits of URX_CYCLE (42_buffer_engine.md R180, R181) -/

/-- The format of a cycle has been noted. -/
def Eng.noted (f : BitVec 6) (g : Eng) : Eng := { g with lastFmt := some f }

section

variable {hdr : Word} {pa : Nat}

theorem run_urxPacket_passedOver (h : passedOver hdr) : urxPacket e hdr pa s = .ok .success s := by
  rw [urxPacket, run_ite, if_pos h, run_pure]

theorem run_urxPacket_outside (h : ¬ passedOver hdr) (hin : ¬ pa + dataLength hdr ≤ s.par.bufBytes) :
    urxPacket e hdr pa s = .error .fault (s.takeFault (.badAddress pa (dataLength hdr))) := by
  rw [urxPacket, run_ite, if_neg h, run_bind, run_memRead_bad hin]

variable (h : ¬ passedOver hdr) (hin : pa + dataLength hdr ≤ s.par.bufBytes)

include h hin

theorem run_urxPacket_noSize
    (hsize : (cipHeader (s.readBytes pa (dataLength hdr))).sourcePacketSize = 0) :
    urxPacket e hdr pa s = .ok .success s := by
  rw [urxPacket, run_ite, if_neg h, run_bind, run_memRead_ok hin]
  dsimp only
  rw [run_bind, run_getPar]
  simp only [parseCip_noSize hsize]
  rfl

theorem run_urxPacket_record {r : CipRecord}
    (hr : parseCip s.par.maxSourcePackets (s.readBytes pa (dataLength hdr)) (dataLength hdr) = some r) :
    urxPacket e hdr pa s =
      if (s.eng e).lastFmt.isSome ∧ (s.eng e).lastFmt ≠ some r.header.fmt ∧ (s.eng e).demuxAttach then
        (tsFlush e >>= fun _ => feedRecord e pa r (s.eng e).demuxAttach) s
      else feedRecord e pa r (s.eng e).demuxAttach s := by
  rw [urxPacket, run_ite, if_neg h, run_bind, run_memRead_ok hin]
  dsimp only
  rw [run_bind, run_getPar]
  simp only [hr]
  rw [run_bind, run_getEng]
  dsimp only
  rw [run_ite]

end

theorem run_feedRecord (pa : Nat) (r : CipRecord) (attached : Bool) : feedRecord e pa r attached s =
    if r.header.fmt = fmtMpeg2Ts ∧ attached ∧ r.sourcePacketSize = 192 then
      (feedPackets e pa r.numSourcePackets 0 >>= fun _ => pure .success) (s.modEng e (Eng.noted r.header.fmt))
    else .ok .success (s.modEng e (Eng.noted r.header.fmt)) := by
  rw [feedRecord, run_bind, run_modEng]
  dsimp only
  rw [run_ite]
  rfl

/-! ### The command -/

theorem exec_urxCycle_run (hs : s.idle) (he : e < s.inst.length) : exec (.urxCycle e) s = .next (endCommand
    (operandsBody (fun a0 a1 a2 => urxCycle e a0 a1.toNat a2) s)) :=
  ((urxCycle_command e).exec_eq s).trans (asCommand_run_instance rfl hs.1 he (.inl hs.2))

/-- The raw client has been called, where there is one, and did nothing. -/
def State.rawCalled (s : State) (e : Nat) (told : State) : Prop :=
  (s.eng e).urxCallback = false ∧ told = s ∨
    (s.eng e).urxCallback = true ∧ ∃ ds rest, s.answers ds rest 1 ∧
      told = s.told [.urxPacket e s.arg0 s.arg1.toNat (dataLength s.arg0) s.arg2] rest

theorem run_urxCycle_called {told : State} (h : s.rawCalled e told) :
    urxCycle e s.arg0 s.arg1.toNat s.arg2 s = urxPacket e s.arg0 s.arg1.toNat told := by
  rw [urxCycle_eq, run_bind, run_getEng]
  dsimp only
  rcases h with ⟨hcall, rfl⟩ | ⟨hcall, ds, rest, hds, rfl⟩
  · rw [run_ite, if_neg (by simp [hcall])]
  · obtain ⟨d, es, rfl, hd, ht, hlen, -⟩ := State.answers_succ hds
    obtain rfl := List.length_eq_zero_iff.mp hlen
    rw [run_ite, if_pos hcall, run_bind, run_notify_told ht hd]
    rfl

section

variable {told t : State}

theorem exec_urxCycle_ok (hs : s.idle) (he : e < s.inst.length) (hcalled : s.rawCalled e told) {c : Status}
    (h : urxPacket e s.arg0 s.arg1.toNat told = .ok c t) : exec (.urxCycle e) s = .next (t.setStatus c) := by
  rw [exec_urxCycle_run hs he, ReceiverCommand.endCommand_operandsBody, run_urxCycle_called hcalled, h]

theorem exec_urxCycle_fault (hs : s.idle) (he : e < s.inst.length) (hcalled : s.rawCalled e told)
    (h : urxPacket e s.arg0 s.arg1.toNat told = .error .fault t) : exec (.urxCycle e) s = .next t := by
  rw [exec_urxCycle_run hs he, ReceiverCommand.endCommand_operandsBody, run_urxCycle_called hcalled, h]

theorem exec_urxCycle_reset (hs : s.idle) (he : e < s.inst.length) (hcalled : s.rawCalled e told)
    (h : urxPacket e s.arg0 s.arg1.toNat told = .error .reset t) :
    exec (.urxCycle e) s = .next t.resetBlock := by
  rw [exec_urxCycle_run hs he, ReceiverCommand.endCommand_operandsBody, run_urxCycle_called hcalled, h]

end

/-! ### The obligation -/

theorem passedOver_iff (hdr : Word) :
    passedOver hdr ↔ ¬ (hdr.extractLsb' 14 2 = 0b01#2 ∧ 8 < dataLength hdr) := by
  simp only [passedOver, isCipHeader, isoTag, beq_eq_false_iff_ne, not_and_or, not_lt, ne_eq]

/-- An attached demultiplexer sees another format than `f` replaced by `f`. -/
abbrev Eng.formatChange (g : Eng) (f : BitVec 6) : Prop :=
  g.demuxAttach = true ∧ g.lastFmt.isSome = true ∧ g.lastFmt ≠ some f

/-- The demultiplexer has been flushed where the format changes to `f`. -/
def State.flushedFor (u : State) (e : Nat) (f : BitVec 6) : State :=
  if (u.eng e).formatChange f then u.within (.tsFlush e) u.arg0 u.arg1 u.arg2 else u

/-- The format has been noted, after the flush where it changes. -/
def State.notedFor (u : State) (e : Nat) (f : BitVec 6) : State :=
  (u.flushedFor e f).modEng e (Eng.noted f)

theorem flushedFor_tapeLaw (u : State) (e : Nat) (f : BitVec 6) : TapeLaw u (u.flushedFor e f) := by
  unfold State.flushedFor
  split
  · exact (tsFlush_command e).within_tapeLaw _ _ _ _
  · exact TapeLaw.refl _

theorem notedFor_tapeLaw (u : State) (e : Nat) (f : BitVec 6) : TapeLaw u (u.notedFor e f) :=
  (flushedFor_tapeLaw u e f).trans (tapeLaw_of_same rfl rfl)

section

variable {u : State} {hdr : Word} {pa : Nat}

/-- The CIP header of the cycle at `pa`. -/
def State.cipAt (u : State) (hdr : Word) (pa : Nat) : CipHeader := cipHeader (u.readBytes pa (dataLength hdr))

/-- The record that is parsed of it. -/
def State.recordAt (u : State) (hdr : Word) (pa : Nat) : CipRecord where
  header := u.cipAt hdr pa
  sourcePacketSize := (u.cipAt hdr pa).sourcePacketSize
  numSourcePackets := min ((dataLength hdr - 8) / (u.cipAt hdr pa).sourcePacketSize) u.par.maxSourcePackets
  clamped := decide (u.par.maxSourcePackets < (dataLength hdr - 8) / (u.cipAt hdr pa).sourcePacketSize)

variable (hu : u.idle) (he : e < u.inst.length) (h : ¬ passedOver hdr)
  (hin : pa + dataLength hdr ≤ u.par.bufBytes) (hsize : (u.cipAt hdr pa).sourcePacketSize ≠ 0)

include hu he h hin hsize

/-- A parsed record, after the flush where there is one. -/
theorem run_urxPacket_flushed
    (hreach : (u.eng e).formatChange (u.cipAt hdr pa).fmt → (∀ d ∈ u.tape, d.quiet) ∧
      (u.flushedFor e (u.cipAt hdr pa).fmt).reach ≤ u.reach) :
    (urxPacket e hdr pa u = feedRecord e pa (u.recordAt hdr pa) (u.eng e).demuxAttach
        (u.flushedFor e (u.cipAt hdr pa).fmt)) ∧
      (u.flushedFor e (u.cipAt hdr pa).fmt).idle ∧ Intake e u (u.flushedFor e (u.cipAt hdr pa).fmt) := by
  rw [run_urxPacket_record (r := u.recordAt hdr pa) h hin (parseCip_record hsize)]
  by_cases hch : (u.eng e).formatChange (u.cipAt hdr pa).fmt
  · obtain ⟨hall, hle⟩ := hreach hch
    rw [State.flushedFor, if_pos hch] at hle ⊢
    obtain ⟨hrun, hidle, hintake⟩ := run_tsFlush_within hu he hall hle
    obtain ⟨hattach, hsome, hne⟩ := hch
    rw [if_pos ⟨hsome, hne, hattach⟩, run_bind, hrun]
    exact ⟨rfl, hidle, hintake⟩
  · rw [State.flushedFor, if_neg hch, if_neg fun ⟨hsome, hne, hattach⟩ => hch ⟨hattach, hsome, hne⟩]
    exact ⟨rfl, hu, intake_refl u⟩

/-- A cycle that has no source packets for the demultiplexer. -/
theorem run_urxPacket_noted
    (hother : (u.cipAt hdr pa).fmt ≠ fmtMpeg2Ts ∨ (u.eng e).demuxAttach = false ∨
      (u.cipAt hdr pa).sourcePacketSize ≠ 192)
    (hquiet : (u.eng e).formatChange (u.cipAt hdr pa).fmt → u.quietTo (u.notedFor e (u.cipAt hdr pa).fmt)) :
    urxPacket e hdr pa u = .ok .success (u.notedFor e (u.cipAt hdr pa).fmt) := by
  obtain ⟨hpacket, -, -⟩ := run_urxPacket_flushed hu he h hin hsize fun hch => by
    obtain ⟨hall, hdrawn⟩ := hquiet hch
    exact ⟨hall, (flushedFor_tapeLaw _ _ _).reach_le_of_drawn hdrawn⟩
  rw [hpacket, run_feedRecord, if_neg]
  · rfl
  rintro ⟨hfmt, hattach, hps⟩
  rcases hother with hne | hne | hne
  · exact hne hfmt
  · exact absurd (hne.symm.trans hattach) (by decide)
  · exact hne hps

variable (hfmt : (u.cipAt hdr pa).fmt = fmtMpeg2Ts) (hattach : (u.eng e).demuxAttach = true)
  (hps : (u.cipAt hdr pa).sourcePacketSize = 192)

include hfmt hattach hps

/-- The source packets of a cycle, one TS_PACKET each. -/
theorem run_urxPacket_packets (hword : u.par.bufBytes ≤ 2 ^ 32) {n : Nat}
    (hn : n = min ((dataLength hdr - 8) / 192) u.par.maxSourcePackets)
    (hquiet : u.quietTo ((u.notedFor e (u.cipAt hdr pa).fmt).taken (.tsPacket e) (packetOperands pa) n)) :
    urxPacket e hdr pa u =
      .ok .success ((u.notedFor e (u.cipAt hdr pa).fmt).taken (.tsPacket e) (packetOperands pa) n) := by
  have hops : packetOperands pa = fun j => packetOperands pa (0 + j) := by simp only [Nat.zero_add]
  rw [hops] at hquiet ⊢
  obtain ⟨hall, hdrawn⟩ := hquiet
  have hnoted := notedFor_tapeLaw u e (u.cipAt hdr pa).fmt
  have hlaw := (tsPacket_command e).taken_tapeLaw (ops := fun j => packetOperands pa (0 + j)) n
    (u.notedFor e (u.cipAt hdr pa).fmt)
  have hreach := (hnoted.trans hlaw).reach_le_of_drawn hdrawn
  obtain ⟨hpacket, hidle, hintake⟩ := run_urxPacket_flushed hu he h hin hsize fun _ =>
    ⟨hall, hlaw.reach_le.trans hreach⟩
  have hpar : (u.notedFor e (u.cipAt hdr pa).fmt).par = u.par := hintake.par
  have hnum : (u.recordAt hdr pa).numSourcePackets = n := by rw [hn, ← hps]; rfl
  have hlt : e < (u.notedFor e (u.cipAt hdr pa).fmt).inst.length := by
    simpa [State.notedFor, hintake.instances] using he
  have h8 : 8 < dataLength hdr := not_le.mp fun hle => h (.inr hle)
  have hspan : n ≤ (dataLength hdr - 8) / 192 := hn.trans_le (Nat.min_le_left _ _)
  have hrun := run_feedPackets (s := u.notedFor e (u.cipAt hdr pa).fmt) (by rw [hpar]; exact hword) n 0 hidle hlt
    (fun d hd => hall d (hnoted.suffix.subset hd)) (by rw [hpar]; omega) (hreach.trans hnoted.reach_le)
  rw [hpacket, run_feedRecord, if_pos ⟨hfmt, hattach, hps⟩, hnum, run_bind]
  rw [State.notedFor] at hrun ⊢
  rw [show (u.recordAt hdr pa).header.fmt = (u.cipAt hdr pa).fmt from rfl, hrun]
  rfl

/-- The one source packet of a cycle whose format does not change. -/
theorem run_urxPacket_onePacket (hch : ¬ (u.eng e).formatChange (u.cipAt hdr pa).fmt)
    (hone : (dataLength hdr - 8) / 192 = 1) (hmax : 1 ≤ u.par.maxSourcePackets) :
    urxPacket e hdr pa u = (tsPacket e (pa + 12) (u.stampAt (pa + 8)) >>= fun _ => pure .success)
      (u.modEng e (Eng.noted (u.cipAt hdr pa).fmt)) := by
  obtain ⟨hpacket, -, -⟩ := run_urxPacket_flushed hu he h hin hsize fun hc => absurd hc hch
  have hsame : u.flushedFor e (u.cipAt hdr pa).fmt = u := if_neg hch
  have hnum : (u.recordAt hdr pa).numSourcePackets = 0 + 1 := by
    show min _ _ = 1
    rw [hps, hone]
    exact Nat.min_eq_left hmax
  have hroom : pa + 8 + 192 * 0 + 4 ≤ u.par.bufBytes := by omega
  rw [hpacket, hsame, run_feedRecord, if_pos ⟨hfmt, hattach, hps⟩, hnum, run_bind,
    run_feedPackets_succ (s := u.modEng e (Eng.noted (u.recordAt hdr pa).header.fmt)) 0 0 hroom, run_bind,
    run_bind]
  have hstamp : (u.modEng e (Eng.noted (u.recordAt hdr pa).header.fmt)).stampAt (pa + 8 + 192 * 0) =
    u.stampAt (pa + 8) := rfl
  rw [hstamp, show (u.recordAt hdr pa).header.fmt = (u.cipAt hdr pa).fmt from rfl,
    show pa + 12 + 192 * 0 = pa + 12 from rfl]
  cases tsPacket e (pa + 12) (u.stampAt (pa + 8)) (u.modEng e (Eng.noted (u.cipAt hdr pa).fmt)) <;> rfl

end

/-- Settles O54: after the raw client's call each exit of URX_CYCLE, and its source packets one command each. -/
theorem urxResult : Obligations.UrxResult := by
  intro s told e hs he g len
  obtain hlen : len = dataLength s.arg0 := toNat_eq_dataLength s.arg0
  clear_value len
  subst hlen
  intro pa h sps cip changed note noted n stamp fed hcalled
  have hcalled : s.rawCalled e told := hcalled
  have hcip : cip → ¬ passedOver s.arg0 := fun hc hpass => (passedOver_iff _).mp hpass hc
  -- the call of the raw client changes nothing that the cycle is read from
  obtain ⟨hidle, hlt, hpar, hread, heng⟩ : told.idle ∧ e < told.inst.length ∧ told.par = s.par ∧
      (∀ a, told.readByte a = s.readByte a) ∧ told.eng e = g := by
    rcases hcalled with ⟨-, rfl⟩ | ⟨-, ds, rest, -, rfl⟩ <;> exact ⟨hs, he, rfl, fun _ => rfl, rfl⟩
  have hcipAt : told.cipAt s.arg0 pa = h := by
    simp only [State.cipAt, State.readBytes, hread]
    rfl
  have hsps : (told.cipAt s.arg0 pa).sourcePacketSize = sps := congrArg CipHeader.sourcePacketSize hcipAt
  have hnoted : told.notedFor e (told.cipAt s.arg0 pa).fmt = noted := by
    rw [hcipAt, State.notedFor, State.flushedFor, heng]
    rfl
  have hchange : (told.eng e).formatChange (told.cipAt s.arg0 pa).fmt ↔ changed := by rw [hcipAt, heng]
  refine ⟨fun hc => ?_, fun hc hout => ?_, fun hc hin hsize => ?_, fun hc hin hsize => ⟨?_, ?_, ?_⟩⟩
  · exact exec_urxCycle_ok hs he hcalled (run_urxPacket_passedOver ((passedOver_iff _).mpr hc))
  · exact exec_urxCycle_fault hs he hcalled
      (run_urxPacket_outside (hcip hc) (by rw [hpar]; exact Nat.not_le.mpr hout))
  · exact exec_urxCycle_ok hs he hcalled
      (run_urxPacket_noSize (hcip hc) (by rw [hpar]; exact hin) (hsps.trans hsize))
  · intro hother hquiet
    have hrun := run_urxPacket_noted hidle hlt (hcip hc) (by rw [hpar]; exact hin) (by rw [hsps]; exact hsize)
      (by rw [hsps, hcipAt, heng]; exact hother) (by rw [hnoted, hchange]; exact hquiet)
    rw [hnoted] at hrun
    exact exec_urxCycle_ok hs he hcalled hrun
  · intro hfmt hattach h192 hword hquiet
    have hrun := run_urxPacket_packets (n := n) hidle hlt (hcip hc) (by rw [hpar]; exact hin)
      (by rw [hsps]; exact hsize) (by rw [hcipAt]; exact hfmt) (by rw [heng]; exact hattach) (hsps.trans h192)
      (by rw [hpar]; exact hword) (by rw [hpar]) (by rw [hnoted]; exact hquiet)
    rw [hnoted] at hrun
    exact exec_urxCycle_ok hs he hcalled hrun
  · intro hfmt hattach h192 hch hone hmax
    have hrun := run_urxPacket_onePacket hidle hlt (hcip hc) (by rw [hpar]; exact hin)
      (by rw [hsps]; exact hsize) (by rw [hcipAt]; exact hfmt) (by rw [heng]; exact hattach) (hsps.trans h192)
      (fun hc => hch (hchange.mp hc)) hone (by rw [hpar]; exact hmax)
    have hstamp : told.stampAt (pa + 8) = stamp s (pa + 8) := by
      simp only [State.stampAt, hread]
      rfl
    have hnote : told.modEng e (Eng.noted (told.cipAt s.arg0 pa).fmt) = note told := by rw [hcipAt]; rfl
    rw [hstamp, hnote, run_bind] at hrun
    rcases hp : tsPacket e (pa + 12) (stamp s (pa + 8)) (note told) with ⟨st, t⟩ | ⟨_ | _, t⟩
    · rw [hp] at hrun
      exact exec_urxCycle_ok (c := .success) hs he hcalled hrun
    · rw [hp] at hrun
      exact exec_urxCycle_fault hs he hcalled hrun
    · rw [hp] at hrun
      exact exec_urxCycle_reset hs he hcalled hrun

end Sys2Proof.Machine
end

section
/-! PROOF. What the receive commands leave unchanged where the clients do nothing in their callbacks (obligation
O58; 42_buffer_engine.md R164, R180, 43_dv_receive.md R203, 45_ts_demux.md R271, R287). -/

namespace Sys2Proof.Machine

/-! ### Relations between the ends of a computation whose clients do nothing -/

/-- The tape answers every callback between the two states, and no client acts there. -/
structure Calm (s t : State) : Prop where
  quiet : ∀ d ∈ s.tape, d.quiet
  reach : t.reach ≤ s.reach

theorem TapeLaw.calm {s t : State} (h : TapeLaw s t) (hq : s.quietTo t) : Calm s t :=
  ⟨hq.1, h.reach_le_of_drawn hq.2⟩

theorem Calm.portOnly {s t : State} (h : Calm s t) : ∀ d ∈ s.tape, d.portOnly := fun d hd => by
  obtain ⟨hacts, hreset⟩ := h.quiet d hd
  exact ⟨by simp [hacts], hreset⟩

/-- Where no client acts, `F` holds between the two states. -/
structure Quietly (F : State → State → Prop) (s t : State) : Prop extends TapeLaw s t where
  frame : Calm s t → F s t

section

variable {F : State → State → Prop} {s t u : State}

theorem quietly_of (h : F s t) (htape : TapeLaw s t) : Quietly F s t := ⟨htape, fun _ => h⟩

/-- A move that takes nothing off the tape. -/
theorem quietly_of_same (h : F s t) (htape : t.tape = s.tape) (hdrawn : t.drawn = s.drawn) : Quietly F s t :=
  ⟨tapeLaw_of_same htape hdrawn, fun _ => h⟩

theorem Quietly.trans (hF : Travels F) (a : Quietly F s t) (b : Quietly F t u) : Quietly F s u where
  toTapeLaw := a.toTapeLaw.trans b.toTapeLaw
  frame h := hF.trans (a.frame ⟨h.quiet, b.reach_le.trans h.reach⟩)
    (b.frame ⟨fun d hd => h.quiet d (a.suffix.subset hd), h.reach.trans a.reach_le⟩)

theorem quietly_travels (hF : Travels F) : Travels (Quietly F) :=
  ⟨fun s => quietly_of (hF.refl s) (TapeLaw.refl s), Quietly.trans hF⟩

/-- What every unit does is quiet where a raise and a call are. -/
theorem quietly_shared (hF : Travels F) (hfault : ∀ s f, F s (State.takeFault s f))
    (hdraw : ∀ s ds, F s (State.takeDraw s ds)) (hemit : ∀ s o, F s (State.emit s o)) :
    Shared (Quietly F) where
  toTravels := quietly_travels hF
  takeFault s f := quietly_of_same (hfault s f) rfl rfl
  draw s := by
    rw [run_draw]
    exact quietly_of (hdraw s _) (tapeLaw_takeDraw rfl)
  request o s := by
    rw [run_request]
    exact quietly_of (hF.trans (hemit s o) (hdraw _ _)) (tapeLaw_asked s o)
  callback o s := by
    refine ⟨(leads_callback (course_calls (e := 0) (steals := false)) o s).toTapeLaw, fun h => ?_⟩
    cases ht : s.tape with
    | nil => exact absurd h.reach (Nat.not_le.mpr (reach_callback_free ht))
    | cons d ds =>
      rw [run_callback_quiet ht (h.quiet d (by simp [ht]))]
      exact hF.trans (hemit s o) (hdraw _ _)

/-- What a receiver command leaves where no client acts. -/
theorem ReceiverCommand.exec_quietly {e : Nat} {i : Instr} {m : Word → Word → Word → M Status}
    (h : ReceiverCommand e i m) (hF : Travels F) (hfault : ∀ s f, F s (State.takeFault s f))
    (hstatus : ∀ s c, F s (State.setStatus s c)) (hm : ∀ a0 a1 a2, Leads (Quietly F) (m a0 a1 a2))
    (ht : exec i s = .next t) (hq : s.quietTo t) : F s t := by
  have hcalm := (h.exec_tapeLaw ht).calm hq
  rw [h.exec_eq] at ht
  by_cases hhalt : s.halted = true
  · rw [asCommand_halted hhalt] at ht
    cases ht
    exact hF.refl s
  rw [Bool.not_eq_true] at hhalt
  by_cases hinst : s.hasInstance i = true
  · by_cases hnest : s.inCallback = 0 ∨ nestable i = true
    · rw [asCommand_run hhalt hinst hnest, endCommand_operandsBody] at ht
      have hrun := hm s.arg0 s.arg1 s.arg2 s
      cases hr : m s.arg0 s.arg1 s.arg2 s with
      | ok c u =>
        rw [hr] at ht hrun
        cases ht
        exact hF.trans (hrun.frame ⟨hcalm.quiet, hcalm.reach⟩) (hstatus u c)
      | error c u =>
        rw [hr] at ht hrun
        cases c with
        | fault =>
          cases ht
          exact hrun.frame hcalm
        | reset =>
          cases ht
          have hreach : (finalState (m s.arg0 s.arg1 s.arg2 s)).reach ≤ s.reach := by
            rw [hr]
            exact hcalm.reach
          exact absurd hr (((h.receiver _ _ _).tame.steady hcalm.portOnly hreach).noReset u)
    · obtain ⟨hcall, hnot⟩ := not_or.mp hnest
      rw [asCommand_reentrant hhalt hinst (Nat.pos_of_ne_zero hcall) (by simpa using hnot)] at ht
      cases ht
      exact hfault s _
  · rw [asCommand_noInstance hhalt (by simpa using hinst)] at ht
    cases ht
    exact hstatus s _

end

/-! ### What the receive commands leave -/

/-- The units at its index on which a receiver works. -/
structure Units where
  dvr : Bool
  ts : Bool
  fmt : Bool

/-- What a receiver at index `e` that works on the units `w` leaves. -/
structure ReceiveKept (e : Nat) (w : Units) (s t : State) : Prop where
  buf : t.buf = s.buf
  wire : t.wire = s.wire
  par : t.par = s.par
  cmd : t.cmd = s.cmd
  regions : t.regions = s.regions
  args : (t.arg0, t.arg1, t.arg2, t.arg3) = (s.arg0, s.arg1, s.arg2, s.arg3)
  results : (t.res0, t.res1, t.res2, t.res3) = (s.res0, s.res1, s.res2, s.res3)
  inCallback : t.inCallback = s.inCallback
  instances : t.inst.length = s.inst.length
  others : ∀ j, j ≠ e → t.instAt j = s.instAt j
  dvt : t.dvt e = s.dvt e
  eng : t.eng e = { s.eng e with lastFmt := (t.eng e).lastFmt }
  lastFmt : w.fmt = false → t.eng e = s.eng e
  ts : w.ts = false → t.ts e = s.ts e
  dvr : w.dvr = false → t.dvr e = s.dvr e

variable {e : Nat} {w : Units} {s : State}

theorem ReceiveKept.trans {s t u : State} (a : ReceiveKept e w s t) (b : ReceiveKept e w t u) :
    ReceiveKept e w s u where
  buf := b.buf.trans a.buf
  wire := b.wire.trans a.wire
  par := b.par.trans a.par
  cmd := b.cmd.trans a.cmd
  regions := b.regions.trans a.regions
  args := b.args.trans a.args
  results := b.results.trans a.results
  inCallback := b.inCallback.trans a.inCallback
  instances := b.instances.trans a.instances
  others j hj := (b.others j hj).trans (a.others j hj)
  dvt := b.dvt.trans a.dvt
  eng := by rw [b.eng, a.eng]
  lastFmt h := (b.lastFmt h).trans (a.lastFmt h)
  ts h := (b.ts h).trans (a.ts h)
  dvr h := (b.dvr h).trans (a.dvr h)

theorem receiveKept_refl (s : State) : ReceiveKept e w s s := by
  constructor <;> intros <;> rfl

theorem receiveKept_travels : Travels (ReceiveKept e w) := ⟨receiveKept_refl, ReceiveKept.trans⟩

theorem receiveKept_shared : Shared (Quietly (ReceiveKept e w)) :=
  quietly_shared receiveKept_travels (fun _ _ => by constructor <;> intros <;> rfl)
    (fun _ _ => by constructor <;> intros <;> rfl) fun _ _ => by constructor <;> intros <;> rfl

theorem quietly_modDvr (h : w.dvr = true) (g : Dvr → Dvr) : Quietly (ReceiveKept e w) s (s.modDvr e g) := by
  refine quietly_of_same ?_ rfl rfl
  refine ⟨rfl, rfl, rfl, rfl, rfl, rfl, rfl, rfl, by simp, fun j hj => ?_, by simp, by simp, fun _ => by simp,
    fun _ => by simp, fun hw => absurd (h.symm.trans hw) (by decide)⟩
  rw [modDvr_eq, instAt_setInst, if_neg fun hje => hj hje.1.symm]

theorem quietly_modTs (h : w.ts = true) (g : Ts → Ts) : Quietly (ReceiveKept e w) s (s.modTs e g) := by
  refine quietly_of_same ?_ rfl rfl
  refine ⟨rfl, rfl, rfl, rfl, rfl, rfl, rfl, rfl, by simp, fun j hj => ?_, by simp, by simp, fun _ => by simp,
    fun hw => absurd (h.symm.trans hw) (by decide), fun _ => by simp⟩
  rw [modTs_eq, instAt_setInst, if_neg fun hje => hj hje.1.symm]

theorem quietly_lastFmt (h : w.fmt = true) (f : Option (BitVec 6)) :
    Quietly (ReceiveKept e w) s (s.modEng e fun g => { g with lastFmt := f }) := by
  refine quietly_of_same ?_ rfl rfl
  refine ⟨rfl, rfl, rfl, rfl, rfl, rfl, rfl, rfl, by simp, fun j hj => ?_, by simp, ?_,
    fun hw => absurd (h.symm.trans hw) (by decide), fun _ => by simp, fun _ => by simp⟩
  · rw [modEng_eq, instAt_setInst, if_neg fun hje => hj hje.1.symm]
  · by_cases he : e < s.inst.length
    · rw [eng_modEng_same _ _ he]
    · rw [modEng_absent he]

theorem receiveKept_dvrMoves (h : w.dvr = true) : DvrMoves (Quietly (ReceiveKept e w)) e where
  toShared := receiveKept_shared
  abandonFrame _ _ _ := quietly_modDvr h _
  beginFrame _ _ _ _ _ _ _ _ := quietly_modDvr h _
  fillFrame _ _ _ _ := quietly_modDvr h _
  dispatchFrame _ _ _ := quietly_modDvr h _
  dropReference _ _ := quietly_modDvr h _
  endDispatch _ _ := quietly_modDvr h _

theorem receiveKept_tsMoves (h : w.ts = true) : TsMoves (Quietly (ReceiveKept e w)) e where
  toShared := receiveKept_shared
  lawful _ _ _ := quietly_modTs h _
  allocCurrent _ _ _ := quietly_modTs h _
  deliverBuf _ _ _ _ := quietly_modTs h _

theorem receiveKept_urxMoves (h : w.ts = true) (hf : w.fmt = true) :
    UrxMoves (Quietly (ReceiveKept e w)) e where
  toTsMoves := receiveKept_tsMoves h
  lastFmt _ _ := quietly_lastFmt hf _

/-- What a receive command on the units `w` leaves where no client acts. -/
theorem ReceiverCommand.receiveKept {i : Instr} {m : Word → Word → Word → M Status} {t : State}
    (h : ReceiverCommand e i m) (hm : ∀ a0 a1 a2, Leads (Quietly (ReceiveKept e w)) (m a0 a1 a2))
    (ht : exec i s = .next t) (hq : s.quietTo t) : ReceiveKept e w s t :=
  h.exec_quietly receiveKept_travels (fun _ _ => by constructor <;> intros <;> rfl)
    (fun _ _ => by constructor <;> intros <;> rfl) hm ht hq

/-- Settles O58: each of the four works on its own units. -/
theorem receiveFrame : Obligations.ReceiveFrame := by
  intro i s t e hi ht hq
  have hkept : ∃ w : Units, ReceiveKept e w s t ∧ (i ≠ .urxCycle e → w.fmt = false) ∧
      (i = .dvrCycle e → w.ts = false) ∧ (i ≠ .dvrCycle e → w.dvr = false) := by
    simp only [List.mem_cons, List.not_mem_nil, or_false] at hi
    rcases hi with rfl | rfl | rfl | rfl
    · exact ⟨⟨true, false, false⟩, (dvrCycle_command e).receiveKept
        (fun _ _ _ => leads_dvrCycle (receiveKept_dvrMoves rfl) _ _ _) ht hq, fun _ => rfl, fun _ => rfl,
        fun h => absurd rfl h⟩
    · exact ⟨⟨false, true, false⟩, (tsPacket_command e).receiveKept
        (fun _ _ _ => leads_tsPacket (receiveKept_tsMoves rfl) _ _) ht hq, fun _ => rfl, nofun, fun _ => rfl⟩
    · exact ⟨⟨false, true, false⟩, (tsFlush_command e).receiveKept
        (fun _ _ _ => leads_bind receiveKept_shared.toTravels (leads_tsFlush (receiveKept_tsMoves rfl))
          fun _ => leads_pure receiveKept_shared.toTravels _) ht hq, fun _ => rfl, nofun, fun _ => rfl⟩
    · exact ⟨⟨false, true, true⟩, (urxCycle_command e).receiveKept
        (fun _ _ _ => leads_urxCycle (receiveKept_urxMoves rfl rfl) _ _ _) ht hq, fun h => absurd rfl h, nofun,
        fun _ => rfl⟩
  obtain ⟨w, k, hfmt, hts, hdvr⟩ := hkept
  exact ⟨k.buf, k.wire, k.par, k.cmd, k.regions, k.args, k.results, k.inCallback, k.instances, k.others, k.dvt,
    fun h => k.lastFmt (hfmt h), fun _ => k.eng, fun h => k.ts (hts h), fun h => k.dvr (hdvr h)⟩

end Sys2Proof.Machine
end

section
/-! PROOF. What the engine's pseudocode leaves unchanged where the clients do nothing in their callbacks (obligation
O60): the parts it is put together from. Its setting, which nothing changes whatever the clients do, says where a
transmit engine may store (20_memory.md R68, 42_buffer_engine.md R154, R164). -/

namespace Sys2Proof.Machine

/-! ### The setting of an engine -/

/-- The configuration of an engine (10_state.md R26). -/
def Eng.config (g : Eng) : Kind × Half × Half × Half × BitVec 6 × Word × Word :=
  (g.kind, g.segments, g.cyclesPerSeg, g.minPayload, g.channel, g.cycleBufSize, g.bufBase)

/-- What no ENG_START, event or client changes: the configuration of an engine, and of its
transmitter the mode and the blocks of a cycle. -/
structure EngSetting where
  par : Params
  instances : Nat
  kind : Kind
  segments : Half
  cyclesPerSeg : Half
  minPayload : Half
  channel : BitVec 6
  cycleBufSize : Word
  bufBase : Word
  dvMode : Byte
  blocks : BitVec 3

def State.setting (s : State) (e : Nat) : EngSetting where
  par := s.par
  instances := s.inst.length
  kind := (s.eng e).kind
  segments := (s.eng e).segments
  cyclesPerSeg := (s.eng e).cyclesPerSeg
  minPayload := (s.eng e).minPayload
  channel := (s.eng e).channel
  cycleBufSize := (s.eng e).cycleBufSize
  bufBase := (s.eng e).bufBase
  dvMode := (s.dvt e).dvMode
  blocks := (s.dvt e).blocksPerCycle

/-- The engine has the setting's configuration. -/
structure EngSetting.HasEng (c : EngSetting) (g : Eng) : Prop where
  kind : g.kind = c.kind
  segments : g.segments = c.segments
  cyclesPerSeg : g.cyclesPerSeg = c.cyclesPerSeg
  minPayload : g.minPayload = c.minPayload
  channel : g.channel = c.channel
  cycleBufSize : g.cycleBufSize = c.cycleBufSize
  bufBase : g.bufBase = c.bufBase

/-- The transmitter has the setting's mode and number of blocks. -/
structure EngSetting.HasDvt (c : EngSetting) (d : Dvt) : Prop where
  dvMode : d.dvMode = c.dvMode
  blocks : d.blocksPerCycle = c.blocks

def EngSetting.slots (c : EngSetting) : Nat := c.segments.toNat * c.cyclesPerSeg.toNat

def EngSetting.slotAddr (c : EngSetting) (k : Nat) : Nat := c.bufBase.toNat + k * c.cycleBufSize.toNat

theorem EngSetting.HasEng.slots {c : EngSetting} {g : Eng} (h : c.HasEng g) : g.slots = c.slots := by
  rw [Eng.slots, h.segments, h.cyclesPerSeg, EngSetting.slots]

theorem EngSetting.HasEng.slotAddr {c : EngSetting} {g : Eng} (h : c.HasEng g) (k : Nat) :
    g.slotAddr k = c.slotAddr k := by
  rw [Eng.slotAddr, h.bufBase, h.cycleBufSize, EngSetting.slotAddr]

variable {e : Nat} {c : EngSetting} {s t : State}

theorem State.hasEng (h : s.setting e = c) : c.HasEng (s.eng e) := by subst h; constructor <;> rfl

theorem State.hasDvt (h : s.setting e = c) : c.HasDvt (s.dvt e) := by subst h; constructor <;> rfl

theorem setting_of_same (hpar : t.par = s.par) (hinst : t.inst = s.inst) : t.setting e = s.setting e := by
  simp only [State.setting, State.eng, State.dvt, State.instAt, hpar, hinst]

theorem setting_modDvr (s : State) (j : Nat) (g : Dvr → Dvr) : (s.modDvr j g).setting e = s.setting e := by
  simp [State.setting]

theorem setting_modTs (s : State) (j : Nat) (g : Ts → Ts) : (s.modTs j g).setting e = s.setting e := by
  simp [State.setting]

theorem setting_modEng (s : State) (j : Nat) {g : Eng → Eng} (hg : ∀ x, (g x).config = x.config) :
    (s.modEng j g).setting e = s.setting e := by
  by_cases hj : j < s.inst.length
  · by_cases hje : j = e
    · subst hje
      have hsame := hg (s.eng j)
      simp only [Eng.config, Prod.mk.injEq] at hsame
      obtain ⟨h1, h2, h3, h4, h5, h6, h7⟩ := hsame
      simp [State.setting, eng_modEng_same _ _ hj, h1, h2, h3, h4, h5, h6, h7]
    · simp [State.setting, eng_modEng_ne _ _ hje]
  · rw [modEng_absent hj]

theorem setting_modDvt (s : State) {g : Dvt → Dvt}
    (hg : ∀ x, (g x).dvMode = x.dvMode ∧ (g x).blocksPerCycle = x.blocksPerCycle) :
    (s.modDvt e g).setting e = s.setting e := by
  by_cases he : e < s.inst.length
  · obtain ⟨h1, h2⟩ := hg (s.dvt e)
    simp [State.setting, dvt_modDvt_same _ _ he, h1, h2]
  · rw [modDvt_eq, State.setInst, List.set_eq_of_length_le (Nat.not_lt.mp he)]

/-- The setting stays. -/
def SameSetting (e : Nat) (s t : State) : Prop := t.setting e = s.setting e

theorem Eng.config_setWatchdog (x : Eng) (b : Bool) : (x.setWatchdog b).config = x.config := by
  unfold Eng.setWatchdog
  split <;> rfl

/-- A client changes no setting. -/
theorem sameSetting_calls : CallStable (SameSetting e) where
  refl _ := rfl
  trans a b := Eq.trans b a
  setCmd _ _ := rfl
  setStatus _ _ := rfl
  setRes0 _ _ := rfl
  setRes1 _ _ := rfl
  setRes2 _ _ := rfl
  setRes3 _ _ := rfl
  hostWrite _ r _ := by cases r <;> rfl
  writeBytes _ _ _ _ := rfl
  takeFault _ _ := rfl
  release s j _ _ _ _ := setting_modDvr s j _
  releaseBuf s j _ _ _ := setting_modTs s j _
  setWatchdog s j b := setting_modEng s j fun x => x.config_setWatchdog b
  enterCallback _ _ := rfl
  leaveCallback _ := rfl
  emit _ _ := rfl
  takeDraw _ _ _ := rfl

/-! ### What stays -/

/-- What the engine `e` of setting `c` leaves of the state: all but a DVTX engine leave BUF, and a DVTX engine whose
packets fit into its cycle buffers stores there only. -/
structure EngKept (e : Nat) (c : EngSetting) (s t : State) : Prop where
  wire : t.wire = s.wire
  cmd : t.cmd = s.cmd
  regions : t.regions = s.regions
  args : (t.arg0, t.arg1, t.arg2, t.arg3) = (s.arg0, s.arg1, s.arg2, s.arg3)
  results : (t.res0, t.res1, t.res2, t.res3) = (s.res0, s.res1, s.res2, s.res3)
  inCallback : t.inCallback = s.inCallback
  others : ∀ j, j ≠ e → t.instAt j = s.instAt j
  buf : c.kind ≠ .dvtx → t.buf = s.buf
  bytes : ∀ row, c.par.dvRow c.dvMode = some row → 8 + c.blocks.toNat * row.blk ≤ c.cycleBufSize.toNat →
    ∀ a, a < c.slotAddr 0 ∨ c.slotAddr (c.slots + 1) ≤ a → t.readByte a = s.readByte a

theorem engKept_travels : Travels (EngKept e c) where
  refl s := by constructor <;> intros <;> rfl
  trans a b := {
    wire := b.wire.trans a.wire
    cmd := b.cmd.trans a.cmd
    regions := b.regions.trans a.regions
    args := b.args.trans a.args
    results := b.results.trans a.results
    inCallback := b.inCallback.trans a.inCallback
    others := fun j hj => (b.others j hj).trans (a.others j hj)
    buf := fun h => (b.buf h).trans (a.buf h)
    bytes := fun row hrow hfit x hx => (b.bytes row hrow hfit x hx).trans (a.bytes row hrow hfit x hx) }

/-- A change at one index. -/
theorem engKept_setInst (s : State) (x : Inst) : EngKept e c s (s.setInst e x) := by
  refine ⟨rfl, rfl, rfl, rfl, rfl, rfl, fun j hj => ?_, fun _ => rfl, fun _ _ _ _ _ => rfl⟩
  rw [instAt_setInst, if_neg fun hje => hj hje.1.symm]

/-- The bytes of a packet in a cycle buffer of a DVTX engine (44_dv_transmit.md R243, R245). -/
structure EngSetting.Writable (c : EngSetting) (a n : Nat) : Prop where
  kind : c.kind = .dvtx
  place : ∃ k off, a = c.slotAddr k + off ∧ k ≤ c.slots ∧
    ∀ row, c.par.dvRow c.dvMode = some row → off + n ≤ 8 + c.blocks.toNat * row.blk

theorem engKept_writeBytes (s : State) {a : Nat} {bytes : List Byte} (h : c.Writable a bytes.length) :
    EngKept e c s (s.writeBytes a bytes) := by
  refine ⟨rfl, rfl, rfl, rfl, rfl, rfl, fun _ _ => rfl, fun hk => absurd h.kind hk, ?_⟩
  obtain ⟨k, off, rfl, hk, hoff⟩ := h.place
  intro row hrow hfit x hx
  have hsize := hoff row hrow
  have hnext : c.slotAddr k + c.cycleBufSize.toNat ≤ c.slotAddr (c.slots + 1) := by
    have := Nat.mul_le_mul_right c.cycleBufSize.toNat (Nat.add_le_add_right hk 1)
    rw [Nat.add_mul k] at this
    simp only [EngSetting.slotAddr]
    omega
  have hfirst : c.slotAddr 0 ≤ c.slotAddr k := by simp [EngSetting.slotAddr]
  rw [readByte_writeBytes, if_neg (by omega)]

/-! ### Pseudocode of an engine -/

/-- How a computation of the engine `e` of setting `c` ends that started in `s`: the setting is the same, and where
no client acts, neither a reset cuts it short nor does it touch what `EngKept` names. -/
structure Ends (e : Nat) (c : EngSetting) (s : State) {α : Type} (r : EStateM.Result Cut State α) : Prop extends
    TapeLaw s (finalState r) where
  setting : (finalState r).setting e = c
  kept : Calm s (finalState r) → EngKept e c s (finalState r)
  noReset : Calm s (finalState r) → ∀ t, r ≠ .error .reset t

/-- The computation ends so wherever it starts in that setting. -/
def Works (e : Nat) (c : EngSetting) {α : Type} (m : M α) : Prop := ∀ s, s.setting e = c → Ends e c s (m s)

section

variable {α β : Type}

theorem works_bind {m : M α} {k : α → M β} (hm : Works e c m) (hk : ∀ a, Works e c (k a)) :
    Works e c (m >>= k) := by
  intro s hs
  obtain ⟨htape, hset, hkept, hreset⟩ := hm s hs
  rw [run_bind]
  cases hr : m s with
  | error r t =>
    rw [hr] at htape hset hkept hreset
    exact ⟨htape, hset, hkept, fun h u hu => by cases hu; exact hreset h t rfl⟩
  | ok a t =>
    rw [hr] at htape hset hkept hreset
    obtain ⟨htape', hset', hkept', hreset'⟩ := hk a t hset
    have hcalm : Calm s (finalState (k a t)) → Calm s t ∧ Calm t (finalState (k a t)) := fun h =>
      ⟨⟨h.quiet, htape'.reach_le.trans h.reach⟩,
        ⟨fun d hd => h.quiet d (htape.suffix.subset hd), h.reach.trans htape.reach_le⟩⟩
    exact ⟨htape.trans htape', hset', fun h => engKept_travels.trans (hkept (hcalm h).1) (hkept' (hcalm h).2),
      fun h => hreset' (hcalm h).2⟩

/-- A part that goes on and takes nothing off the tape. -/
theorem works_of_ok {m : M α} {a : State → α} {f : State → State} (h : ∀ s, m s = .ok (a s) (f s))
    (htape : ∀ s, (f s).tape = s.tape ∧ (f s).drawn = s.drawn) (hset : ∀ s, (f s).setting e = s.setting e)
    (hkept : ∀ s, EngKept e c s (f s)) : Works e c m := fun s hs => by
  rw [h]
  exact ⟨tapeLaw_of_same (htape s).1 (htape s).2, (hset s).trans hs, fun _ => hkept s, fun _ _ hu => by cases hu⟩

theorem works_pure (a : α) : Works e c (pure a : M α) :=
  works_of_ok (fun s => run_pure s a) (fun _ => ⟨rfl, rfl⟩) (fun _ => rfl) engKept_travels.refl

/-- What is read of the state has its setting. -/
theorem works_read {m : M β} {f : State → β} (hm : ∀ s, m s = .ok (f s) s) {k : β → M α}
    (hk : ∀ s, s.setting e = c → Works e c (k (f s))) : Works e c (m >>= k) := fun s hs => by
  rw [run_bind, hm]
  exact hk s hs s hs

theorem works_getEng {k : Eng → M α} (hk : ∀ g, c.HasEng g → Works e c (k g)) : Works e c (getEng e >>= k) :=
  works_read (fun s => run_getEng s e) fun _ hs => hk _ (State.hasEng hs)

theorem works_getDvt {k : Dvt → M α} (hk : ∀ d, c.HasDvt d → Works e c (k d)) : Works e c (getDvt e >>= k) :=
  works_read (fun s => run_getDvt s e) fun _ hs => hk _ (State.hasDvt hs)

theorem works_ite {p : Prop} [Decidable p] {m n : M α} (hm : p → Works e c m) (hn : ¬ p → Works e c n) :
    Works e c (if p then m else n) := by
  split
  · next h => exact hm h
  · next h => exact hn h

theorem works_raise (f : BlockFault) : Works e c (raise f : M α) := fun s hs =>
  ⟨tapeLaw_of_same rfl rfl, hs, fun _ => by constructor <;> intros <;> rfl, fun _ _ hu => by cases hu⟩

theorem works_chk (t : Word) : Works e c (chk t) := works_ite (fun _ => works_pure ()) fun _ => works_raise _

theorem works_memRead {a n : Nat} {k : List Byte → M α}
    (hk : ∀ b : List Byte, b.length = n → Works e c (k b)) : Works e c (memRead a n >>= k) := fun s hs => by
  rw [run_bind]
  by_cases h : a + n ≤ s.par.bufBytes
  · rw [run_memRead_ok h]
    exact hk _ (readBytes_length s a n) s hs
  · rw [run_memRead_bad h]
    exact works_raise (α := α) _ s hs

theorem works_memWrite {a : Nat} {bytes : List Byte} (h : c.Writable a bytes.length) :
    Works e c (memWrite a bytes) := fun s hs => by
  by_cases hin : a + bytes.length ≤ s.par.bufBytes
  · rw [run_memWrite_ok hin]
    exact ⟨tapeLaw_of_same rfl rfl, hs, fun _ => engKept_writeBytes s h, fun _ _ hu => by cases hu⟩
  · rw [run_memWrite_bad hin]
    exact works_raise (α := Unit) _ s hs

theorem works_draw : Works e c draw := fun s hs => by
  rw [run_draw]
  exact ⟨tapeLaw_takeDraw rfl, hs, fun _ => by constructor <;> intros <;> rfl, fun _ _ hu => by cases hu⟩

theorem works_request (o : Out) : Works e c (request o) := fun s hs => by
  rw [run_request]
  exact ⟨tapeLaw_asked s o, hs, fun _ => by constructor <;> intros <;> rfl, fun _ _ hu => by cases hu⟩

theorem works_callback (o : Out) : Works e c (callback o) := fun s hs => by
  have hrun : Calm s (finalState (callback o s)) → ∃ d ds, callback o s = .ok d ((s.emit o).takeDraw ds) := by
    intro h
    cases ht : s.tape with
    | nil => exact absurd h.reach (Nat.not_le.mpr (reach_callback_free ht))
    | cons d ds => exact ⟨d, ds, run_callback_quiet ht (h.quiet d (by simp [ht]))⟩
  refine ⟨(leads_callback (course_calls (e := 0) (steals := false)) o s).toTapeLaw,
    (leads_callback sameSetting_calls o s).trans hs, fun h => ?_, fun h => ?_⟩
  · obtain ⟨d, ds, hd⟩ := hrun h
    rw [hd]
    constructor <;> intros <;> rfl
  · obtain ⟨d, ds, hd⟩ := hrun h
    rw [hd]
    exact fun _ hu => by cases hu

theorem works_notify (o : Out) : Works e c (notify o) := works_bind (works_callback o) fun _ => works_pure ()

theorem works_modEng {g : Eng → Eng} (hg : ∀ x, (g x).config = x.config) : Works e c (modEng e g) :=
  works_of_ok (fun s => run_modEng s e g) (fun _ => ⟨rfl, rfl⟩) (fun s => setting_modEng s e hg)
    fun s => engKept_setInst s _

theorem works_modDvt {g : Dvt → Dvt}
    (hg : ∀ x, (g x).dvMode = x.dvMode ∧ (g x).blocksPerCycle = x.blocksPerCycle) : Works e c (modDvt e g) :=
  works_of_ok (fun s => run_modDvt s e g) (fun _ => ⟨rfl, rfl⟩) (fun s => setting_modDvt s hg)
    fun s => engKept_setInst s _

/-- A relation that the moves of both receivers keep. -/
theorem Receiver.leads {room : Option Nat} {m : M α} (h : Receiver e room m) {R : State → State → Prop}
    (hR : Shared R) (hdvr : ∀ s g, R s (State.modDvr s e g)) (hts : ∀ s g, R s (State.modTs s e g))
    (hfmt : ∀ s f, R s (State.modEng s e fun g => { g with lastFmt := f })) : Leads R m := by
  induction h with
  | pure a => exact hR.part (.pure a)
  | getEng => exact hR.part (.getEng e)
  | getDvr => exact hR.part (.getDvr e)
  | getTs => exact hR.part (.getTs e)
  | getPar => exact hR.part .getPar
  | getState _ _ ih => exact leads_bind hR.toTravels (hR.part .getState) ih
  | callback o => exact hR.callback o
  | memRead _ => exact hR.part (.memRead _ _)
  | frame g => exact fun s => hdvr s g
  | stream g => exact fun s => hts s g
  | lastFmt f => exact fun s => hfmt s f
  | bind _ _ ihm ihk => exact leads_bind hR.toTravels ihm ihk

theorem engKept_shared : Shared (Quietly (EngKept e c)) :=
  quietly_shared engKept_travels (fun _ _ => by constructor <;> intros <;> rfl)
    (fun _ _ => by constructor <;> intros <;> rfl) fun _ _ => by constructor <;> intros <;> rfl

/-- A receiver, whatever it does, moves the units at its own index only and stores nothing. -/
theorem Receiver.works {m : M α} (h : Receiver e none m) : Works e c m := by
  have hset : Leads (SameSetting e) m := h.leads sameSetting_calls.shared (fun s g => setting_modDvr s e g)
    (fun s g => setting_modTs s e g) fun s f => setting_modEng s e fun _ => rfl
  have hsame : ∀ s x, Quietly (EngKept e c) s (State.setInst s e x) := fun s x =>
    quietly_of_same (engKept_setInst s x) rfl rfl
  have hkept : Leads (Quietly (EngKept e c)) m :=
    h.leads engKept_shared (fun s _ => hsame s _) (fun s _ => hsame s _) fun s _ => hsame s _
  intro s hs
  exact ⟨(hkept s).toTapeLaw, (hset s).trans hs, (hkept s).frame, fun hcalm =>
    (h.tame.steady hcalm.portOnly hcalm.reach).noReset⟩

end

end Sys2Proof.Machine
end

section
/-! PROOF. What ENG_START and the engine's events leave unchanged where the clients do nothing in their callbacks
(obligation O60; 42_buffer_engine.md R155, R159, R161, R163, R164, R172): each of their parts in turn. -/

namespace Sys2Proof.Machine

variable {e : Nat} {c : EngSetting}

/-! ### The transmitters (44_dv_transmit.md R242 to R248; 42_buffer_engine.md R182) -/

theorem works_addCycles (t : Word) (k : Nat) : Works e c (addCycles t k) :=
  works_bind (works_chk t) fun _ => works_pure _

theorem works_releaseFrame (f : Nat) : Works e c (releaseFrame e f) :=
  works_bind (works_modDvt fun _ => ⟨rfl, rfl⟩) fun _ => works_notify _

theorem works_dropRefs : ∀ fs : List Nat, Works e c (dropRefs e fs)
  | [] => works_pure ()
  | f :: fs => works_bind (works_modDvt fun _ => ⟨rfl, rfl⟩) fun _ => works_getDvt fun _ _ =>
      works_ite (fun _ => works_bind (works_releaseFrame f) fun _ => works_dropRefs fs) fun _ => works_dropRefs fs

theorem works_releaseSlotRefs (k : Nat) : Works e c (releaseSlotRefs e k) :=
  works_getDvt fun _ _ => works_bind (works_dropRefs _) fun _ => works_modDvt fun _ => ⟨rfl, rfl⟩

theorem works_drainFrom : ∀ n k : Nat, Works e c (drainFrom e n k)
  | 0, _ => works_pure ()
  | n + 1, k => works_bind (works_releaseSlotRefs k) fun _ => works_drainFrom n (k + 1)

theorem works_drainSlots : Works e c (drainSlots e) := by
  refine works_getEng fun g _ => ?_
  cases g.kind with
  | dvtx => exact works_drainFrom _ _
  | utx => exact works_pure ()
  | dvrx => exact works_pure ()
  | urx => exact works_pure ()

theorem works_pullFrame (row : DvFormat) : Works e c (pullFrame e row) :=
  works_bind (works_callback _) fun _ => works_read (fun s => run_getPar s) fun _ _ => works_getDvt fun _ _ =>
    works_ite (fun _ => works_pure _) fun _ => works_bind (works_modDvt fun _ => ⟨rfl, rfl⟩) fun _ => works_pure _

theorem works_utxCycle (k : Nat) : Works e c (utxCycle e k) :=
  works_getEng fun _ _ => works_ite (fun _ => works_pure _) fun _ => works_bind (works_callback _) fun _ =>
    works_ite (fun _ => works_raise _) fun _ => works_bind (works_modEng fun _ => rfl) fun _ => works_pure _

/-- Cycle buffer `k` is one of a DVTX engine in a mode of format `row`. -/
structure EngSetting.Fills (c : EngSetting) (k : Nat) (row : DvFormat) : Prop where
  kind : c.kind = .dvtx
  slot : k ≤ c.slots
  row : c.par.dvRow c.dvMode = some row

section

variable {k : Nat} {row : DvFormat} (h : c.Fills k row)

include h

/-- What lies within a packet of such a buffer. -/
theorem EngSetting.Fills.writable {off n : Nat} (hin : off + n ≤ 8 + c.blocks.toNat * row.blk) :
    c.Writable (c.slotAddr k + off) n :=
  ⟨h.kind, k, off, rfl, h.slot, fun row' hrow => by cases h.row.symm.trans hrow; exact hin⟩

theorem works_copyOut {nb : Nat} (hnb : nb < c.blocks.toNat) (f : Nat) : Works e c (copyOut e k row nb f) := by
  refine works_getEng fun g hg => works_getDvt fun d _ => works_memRead fun bytes hlen =>
    works_bind (works_memWrite ?_) fun _ => works_modDvt fun d => ?_
  · rw [hg.slotAddr, Nat.add_assoc]
    refine h.writable ?_
    have := Nat.mul_le_mul_right row.blk (Nat.succ_le_of_lt hnb)
    rw [Nat.succ_mul] at this
    omega
  · unfold Dvt.blockCopied Dvt.addRef
    dsimp only
    split <;> split <;> exact ⟨rfl, rfl⟩

theorem works_fillSlot (n nb : Nat) (syt : Half) (hnb : nb + n ≤ c.blocks.toNat) :
    Works e c (fillSlot e k row n nb syt) := by
  induction n generalizing nb syt with
  | zero => exact works_pure _
  | succ n ih =>
    have hcopy : ∀ f syt, Works e c (copyOut e k row nb f >>= fun _ => fillSlot e k row n (nb + 1) syt) :=
      fun f syt => works_bind (works_copyOut h (by omega) f) fun _ => ih _ syt (by omega)
    refine works_getDvt fun d _ => ?_
    cases d.curFrame with
    | some f => exact hcopy f syt
    | none =>
      refine works_bind (works_pullFrame row) fun _ => works_ite (fun _ => works_getDvt fun d' _ => ?_)
        fun _ => works_pure _
      cases d'.curFrame with
      | some f => exact hcopy f _
      | none => exact works_pure _

theorem works_writeHeader (nb : Nat) (syt : Half) : Works e c (writeHeader e k row nb syt) := by
  refine works_getEng fun g hg => works_getDvt fun d _ => works_bind (works_memWrite ?_) fun _ =>
    works_modEng fun _ => rfl
  rw [hg.slotAddr]
  exact h.writable (off := 0) (n := 8) (by omega)

theorem works_sendPacket (n : Nat) (w : Half) : Works e c (sendPacket e k row n w) :=
  works_bind (works_writeHeader h n w) fun _ => works_bind (works_modDvt fun _ => ⟨rfl, rfl⟩) fun _ =>
    works_getDvt fun _ _ => works_bind (works_addCycles _ _) fun _ =>
      works_bind (works_modDvt fun _ => ⟨rfl, rfl⟩) fun _ => works_pure _

theorem works_finishPacket (steal : Bool) (a : Nat × Half) : Works e c (finishPacket e k row steal a) :=
  works_ite (fun _ => works_bind (works_modEng fun _ => rfl) fun _ => works_sendPacket h _ _)
    fun _ => works_sendPacket h _ _

theorem works_dvtPacket (data steal : Bool) {d : Dvt} (hd : c.HasDvt d) :
    Works e c (dvtPacket e k row data steal d) :=
  works_ite (fun _ => works_bind (works_fillSlot h _ 0 _ (by rw [hd.blocks, Nat.zero_add])) fun _ =>
    works_finishPacket h _ _) fun _ => works_finishPacket h _ _

end

/-- DVT_CYCLE (44_dv_transmit.md R243) accepts the buffers of its ring only. -/
theorem works_dvtCycle (k : Nat) : Works e c (dvtCycle e k) := by
  rw [dvtCycle_eq]
  refine works_read (fun s => run_getState s) fun s hs => works_ite (fun _ => works_pure _) fun haccept => ?_
  simp only [not_or, not_not, not_le] at haccept
  obtain ⟨-, hkind, hk⟩ := haccept
  cases hrow : s.par.dvRow (s.dvt e).dvMode with
  | none => exact works_pure _
  | some row =>
    have hfills : c.Fills k row := by
      subst hs
      exact ⟨hkind, hk.le, hrow⟩
    exact works_bind (works_releaseSlotRefs k) fun _ => works_getDvt fun d hd => works_getEng fun _ _ =>
      works_dvtPacket hfills _ _ hd

theorem works_produceFrom {produce : Nat → M (Status × Nat)} (h : ∀ k, Works e c (produce k)) :
    ∀ n k : Nat, Works e c (produceFrom produce n k)
  | 0, _ => works_pure ()
  | n + 1, k => works_bind (h k) fun _ => works_produceFrom h n (k + 1)

/-! ### The engine (42_buffer_engine.md R155 to R173) -/

/-- The overrun buffer is the last of the region. -/
theorem works_fillOverrun (hkind : c.kind = .dvtx) : Works e c (fillOverrun e c.slots) := by
  refine works_read (fun s => run_getState s) fun s hs => ?_
  cases hrow : s.par.dvRow (s.dvt e).dvMode with
  | none => exact works_pure _
  | some row =>
    have hfills : c.Fills c.slots row := by
      subst hs
      exact ⟨hkind, Nat.le_refl _, hrow⟩
    exact works_writeHeader hfills _ _

theorem works_prefill : Works e c (prefill e) := by
  refine works_getEng fun g hg => ?_
  cases hk : g.kind with
  | dvtx =>
    have hoverrun := works_fillOverrun (e := e) (hg.kind.symm.trans hk)
    rw [← hg.slots] at hoverrun
    exact works_bind (works_bind (works_request _) fun _ => works_pure _) fun _ =>
      works_bind (works_modDvt fun _ => ⟨rfl, rfl⟩) fun _ =>
        works_bind (works_produceFrom works_dvtCycle _ _) fun _ => hoverrun
  | utx =>
    exact works_bind (works_produceFrom works_utxCycle _ _) fun _ => works_modEng fun _ => rfl
  | dvrx => exact works_pure ()
  | urx => exact works_pure ()

theorem works_peStart : Works e c (peStart e) :=
  works_getEng fun _ _ => works_bind (works_request _) fun _ =>
    works_ite (fun _ => works_bind (works_modEng fun _ => rfl) fun _ => works_pure _) fun _ => works_pure _

theorem works_peStop : Works e c (peStop e) :=
  works_bind (works_of_ok (fun _ => run_update _ _) (fun _ => ⟨rfl, rfl⟩) (fun _ => rfl)
    fun _ => by constructor <;> intros <;> rfl) fun _ => works_modEng fun _ => rfl

theorem works_startClock (ct : Word) : Works e c (startClock e ct) :=
  works_bind (works_modEng fun _ => rfl) fun _ => works_getEng fun _ _ =>
    works_bind (works_addCycles _ _) fun _ => works_modEng fun _ => rfl

/-- ENG_START (R155). -/
theorem works_engStart : Works e c (engStartBody e) := by
  refine works_read (fun s => run_getState s) fun s _ => works_ite (fun _ => works_pure _) fun _ =>
    works_ite (fun _ => works_pure _) fun _ => works_ite (fun _ => works_pure _) fun _ => ?_
  refine works_bind (works_modEng fun _ => rfl) fun _ =>
    works_bind (works_bind (works_request _) fun _ => works_pure _) fun _ =>
      works_bind (works_modEng fun _ => rfl) fun _ => works_bind works_prefill fun _ =>
        works_bind works_peStart fun r => ?_
  cases r with
  | none => exact works_bind works_drainSlots fun _ => works_pure _
  | some ct =>
    exact works_bind (works_startClock ct) fun _ => works_bind (works_modEng fun _ => rfl) fun _ => works_pure _

theorem works_readTsSlot (k : Nat) : Works e c (readTsSlot e k) := by
  refine works_getEng fun g _ => ?_
  cases sparseGet g.tsSlot k with
  | some t => exact works_pure t
  | none => exact works_bind works_draw fun _ => works_pure _

theorem works_checkSlot (k : Nat) : Works e c (checkSlot e k) := by
  refine works_getEng fun g _ => ?_
  cases sparseGet g.slotHdr k with
  | some h => exact works_ite (fun _ => works_raise _) fun _ => works_pure _
  | none => exact works_raise _

theorem works_consumeCycle (seg k : Nat) (h : Word) : Works e c (consumeCycle e seg k h) := by
  refine works_getEng fun g _ => works_bind (works_readTsSlot seg) fun ts => ?_
  cases g.kind with
  | dvrx => exact works_bind (Receiver.dvrCycle _ _ _).works fun _ => works_pure _
  | urx => exact works_bind (Receiver.urxCycle _ _ _).works fun _ => works_pure _
  | dvtx => exact works_pure _
  | utx => exact works_pure _

theorem works_produceCycle (k : Nat) : Works e c (produceCycle e k) := by
  refine works_getEng fun g _ => ?_
  cases g.kind with
  | dvtx => exact works_bind (works_dvtCycle k) fun _ => works_pure _
  | utx => exact works_bind (works_utxCycle k) fun _ => works_pure _
  | dvrx => exact works_pure _
  | urx => exact works_pure _

theorem works_segmentCycles (seg : Nat) : ∀ n k any, Works e c (segmentCycles e seg n k any)
  | 0, _, any => works_pure any
  | n + 1, k, _ => works_getEng fun _ _ => works_ite
      (fun _ => works_bind (works_checkSlot k) fun h => works_bind (works_consumeCycle seg k h) fun _ =>
        works_segmentCycles seg n (k + 1) _)
      fun _ => works_bind (works_produceCycle k) fun _ => works_segmentCycles seg n (k + 1) _

theorem works_advanceTxClock (lost : Nat) : Works e c (advanceTxClock e lost) :=
  works_getDvt fun _ _ => works_bind (works_addCycles _ _) fun _ => works_modDvt fun _ => ⟨rfl, rfl⟩

theorem works_correctTimestamp (act exp : Word) : Works e c (correctTimestamp e act exp) := by
  have htold : ∀ lost, ∀ _ : Unit, Works e c (do
      engMsg e .timeStampAdjust (some lost)
      pure act) := fun lost _ => works_bind (works_notify _) fun _ => works_pure act
  refine works_getEng fun g _ => works_ite (fun _ => works_pure _) fun _ => works_bind (works_chk _) fun _ =>
    works_bind (works_chk _) fun _ => works_ite (fun _ => works_pure _) fun _ => works_ite (fun _ => ?_) fun _ =>
      works_ite (fun _ => works_bind (works_advanceTxClock _) (htold _)) fun _ => htold _ ()
  exact works_ite (fun _ => works_bind (works_modEng fun _ => rfl) fun _ =>
    works_bind (works_advanceTxClock _) fun _ => works_pure act) fun _ => works_pure act

theorem works_validateTimestamp (seg : Nat) : Works e c (validateTimestamp e seg) :=
  works_bind (works_readTsSlot seg) fun _ => works_bind (works_chk _) fun _ => works_getEng fun _ _ =>
    works_bind (works_correctTimestamp _ _) fun _ => works_bind (works_addCycles _ _) fun _ =>
      works_modEng fun _ => rfl

theorem works_endSegment (any : Bool) : Works e c (endSegment e any) :=
  works_bind (works_modEng fun _ => rfl) fun _ => works_getEng fun _ _ =>
    works_ite (fun _ => works_pure ()) fun _ => works_pure ()

/-- EV_SEGMENT (R163). -/
theorem works_evSegment (seg : Nat) : Works e c (evSegmentBody e seg) :=
  works_getEng fun _ _ => works_ite (fun _ => works_pure ()) fun _ => works_ite (fun _ => works_raise _) fun _ =>
    works_bind (works_segmentCycles _ _ _ _) fun any => works_bind (works_modEng fun _ => rfl) fun _ =>
      works_ite (fun _ => works_endSegment any) fun _ => works_bind (works_validateTimestamp _) fun _ =>
        works_endSegment any

theorem works_abandonCurrent : Works e c (abandonCurrent e) := Receiver.works .abandonCurrent

theorem works_rebuild : Works e c (rebuild e) := by
  refine works_getEng fun g _ => ?_
  cases g.kind with
  | dvrx => exact works_abandonCurrent
  | urx => exact works_pure ()
  | dvtx => exact works_bind works_drainSlots fun _ => works_prefill
  | utx => exact works_bind works_drainSlots fun _ => works_prefill

theorem works_restart : Works e c (restart e) := by
  refine works_bind (works_modEng fun _ => rfl) fun _ => works_bind works_rebuild fun _ =>
    works_bind works_peStart fun r => ?_
  cases r with
  | none => exact works_bind (works_modEng fun _ => rfl) fun _ => works_notify _
  | some ct => exact works_startClock ct

/-- EV_OVERRUN (R171). -/
theorem works_evOverrun : Works e c (evOverrunBody e) :=
  works_getEng fun _ _ => works_ite (fun _ => works_pure ()) fun _ => works_bind works_peStop fun _ =>
    works_bind (works_notify _) fun _ => works_restart

/-- EV_FORCE_STOP (R173). -/
theorem works_evForceStop : Works e c (evForceStopBody e) :=
  works_getEng fun _ _ => works_ite (fun _ => works_pure ()) fun _ => works_bind (works_notify _) fun _ =>
    works_restart

theorem works_teardown : Works e c (teardown e) := by
  refine works_getEng fun g _ => ?_
  cases g.kind with
  | dvtx =>
    refine works_bind works_drainSlots fun _ => works_getDvt fun d _ => ?_
    cases d.curFrame with
    | some f => exact works_bind (works_releaseFrame f) fun _ => works_modDvt fun _ => ⟨rfl, rfl⟩
    | none => exact works_pure ()
  | dvrx => exact works_abandonCurrent
  | utx => exact works_pure ()
  | urx => exact works_pure ()

/-- EV_FINALIZE (R159). -/
theorem works_evFinalize : Works e c (evFinalizeBody e) :=
  works_getEng fun _ _ => works_ite (fun _ => works_pure ()) fun _ => works_bind (works_modEng fun _ => rfl) fun _ =>
    works_ite (fun _ => works_bind works_teardown fun _ => works_bind (works_modEng fun _ => rfl) fun _ =>
      works_of_ok (fun _ => run_update _ _) (fun _ => ⟨rfl, rfl⟩) (fun _ => rfl)
        fun _ => by constructor <;> intros <;> rfl) fun _ => works_pure ()

/-! ### The obligation -/

section

variable {s t : State}

/-- What a whole step leaves. -/
structure StepKept (e : Nat) (s t : State) : Prop where
  kept : EngKept e (s.setting e) s t
  setting : t.setting e = s.setting e

theorem stepKept_refl (s : State) : StepKept e s s := ⟨engKept_travels.refl s, rfl⟩

theorem stepKept_setStatus (b : Status) (h : StepKept e s t) : StepKept e s (t.setStatus b) :=
  ⟨engKept_travels.trans h.kept (by constructor <;> intros <;> rfl), h.setting⟩

theorem Works.stepEnd {α : Type} {m : M α} (h : Works e (s.setting e) m) (hq : s.quietTo (stepEnd (m s))) :
    StepKept e s (stepEnd (m s)) := by
  obtain ⟨htape, hset, hkept, hreset⟩ := h s rfl
  cases hr : m s with
  | ok a t =>
    rw [hr] at htape hset hkept hq
    exact ⟨hkept (htape.calm hq), hset⟩
  | error r t =>
    rw [hr] at htape hset hkept hreset hq
    cases r with
    | fault => exact ⟨hkept (htape.calm hq), hset⟩
    | reset => exact absurd rfl (hreset (htape.calm ⟨hq.1, hq.2⟩) t)

theorem asEvent_kept {body : M Unit} (h : Works e (s.setting e) body) (ht : asEvent e body s = .next t)
    (hq : s.quietTo t) : StepKept e s t := by
  unfold asEvent at ht
  cases ht
  split at hq
  · next hhalt => rw [if_pos hhalt]; exact stepKept_refl s
  next hhalt =>
  rw [if_neg hhalt]
  split at hq
  · next he => rw [if_pos he]; exact h.stepEnd hq
  · next he => rw [if_neg he]; exact stepKept_refl s

theorem asCommand_kept {i : Instr} {body : M (Option Status)} (h : Works e (s.setting e) body)
    (ht : asCommand i body s = .next t) (hq : s.quietTo t) : StepKept e s t := by
  have hrun : Works e (s.setting e) (runCommand i body) := by
    intro u hu
    unfold runCommand
    split
    · exact works_of_ok (m := update (State.setStatus · .badArgument)) (fun _ => run_update _ _)
        (fun _ => ⟨rfl, rfl⟩) (fun _ => rfl) (fun _ => by constructor <;> intros <;> rfl) u hu
    split
    · exact works_raise (α := Unit) _ u hu
    obtain ⟨htape, hset, hkept, hreset⟩ := h u hu
    cases hr : body u with
    | error c v =>
      rw [hr] at htape hset hkept hreset
      exact ⟨htape, hset, hkept, fun hc w hw => hreset hc w (by cases hw; rfl)⟩
    | ok b v =>
      rw [hr] at htape hset hkept
      cases b with
      | none => exact ⟨htape, hset, hkept, fun _ w hw => by cases hw⟩
      | some st =>
        refine ⟨⟨htape.suffix, htape.reach_le, htape.reach_eq⟩, hset, fun hc => ?_, fun _ w hw => by cases hw⟩
        exact engKept_travels.trans (hkept ⟨hc.quiet, hc.reach⟩) (by constructor <;> intros <;> rfl)
  unfold asCommand at ht
  cases ht
  split at hq
  · next hhalt => rw [if_pos hhalt]; exact stepKept_refl s
  · next hhalt => rw [if_neg hhalt]; exact hrun.stepEnd hq

/-- The region of the cycle buffers (20_memory.md R68): where the start checks pass, the packets of a DVTX engine
fit into its buffers, and no other engine stores. -/
theorem StepKept.readByte (h : StepKept e s t) (hchecks : startChecks s.par (s.instAt e) = true) {a : Nat}
    (ha : a < (s.eng e).bufBase.toNat ∨
      (s.eng e).bufBase.toNat + (s.eng e).regionSize (s.eng e).cycleBufSize.toNat ≤ a) :
    t.readByte a = s.readByte a := by
  by_cases hk : (s.eng e).kind = .dvtx
  · have hkind : (s.instAt e).eng.kind = .dvtx := hk
    simp only [startChecks, hkind] at hchecks
    cases hrow : s.par.dvRow (s.instAt e).dvt.dvMode with
    | none => rw [hrow] at hchecks; cases hchecks
    | some row =>
      rw [hrow] at hchecks
      obtain ⟨-, -, -, hfit, -⟩ := of_decide_eq_true hchecks
      refine h.kept.bytes row hrow hfit a ?_
      rw [EngSetting.slotAddr, Nat.zero_mul]
      exact ha
  · have hbuf := h.kept.buf hk
    simp only [State.readByte, hbuf]

end

/-- Settles O60: every part of the five works in the engine's setting. -/
theorem engineFrame : Obligations.EngineFrame := by
  intro i s t e hi ht hq
  have hstep : StepKept e s t := by
    rcases hi with hi | ⟨seg, rfl⟩
    · simp only [List.mem_cons, List.not_mem_nil, or_false] at hi
      rcases hi with rfl | rfl | rfl | rfl
      · exact asCommand_kept works_engStart ht hq
      · exact asEvent_kept works_evOverrun ht hq
      · exact asEvent_kept works_evForceStop ht hq
      · exact asEvent_kept works_evFinalize ht hq
    · exact asEvent_kept (works_evSegment seg) ht hq
  obtain ⟨k, hset⟩ := hstep
  refine ⟨k.wire, congrArg EngSetting.par hset, k.cmd, k.regions, k.args, k.results, k.inCallback,
    congrArg EngSetting.instances hset, k.others, ?_, fun hr => k.buf fun hk => ?_, fun hchecks a ha => ?_⟩
  · exact congrArg (fun c => (c.kind, c.segments, c.cyclesPerSeg, c.minPayload, c.channel, c.cycleBufSize,
      c.bufBase)) hset
  · have hk' : (s.eng e).kind = .dvtx := hk
    rw [hk'] at hr
    cases hr
  · exact StepKept.readByte ⟨k, hset⟩ hchecks ha

end Sys2Proof.Machine
end

section
/-! PROOF. Every step keeps the free-queue law (obligation O44; 10_state.md R31, 43_dv_receive.md R212). Each
change of a frame record keeps it; `keepsEvery_moves` carries it over a step. -/

namespace Sys2Proof.Machine

theorem Dvr.frame_reset (p : Params) (f : Nat) : (Dvr.reset p).frame f = RxFrame.reset := by
  rw [Dvr.frame, Dvr.reset, List.getD_eq_getElem?_getD, List.getElem?_replicate]
  split <;> rfl

/-- After reset every frame is Free, and the queue holds each once (R30, R31). -/
theorem Dvr.law_reset (p : Params) : (Dvr.reset p).law := by
  have hlen : (Dvr.reset p).frames.length = p.fRx := List.length_replicate
  refine ⟨List.nodup_range, fun f => ?_, fun f h => (by cases h), fun f _ h => ?_, fun f _ _ => ?_⟩
  · rw [hlen, Dvr.frame_reset]
    simp [Dvr.reset, RxFrame.reset]
  · rw [Dvr.frame_reset] at h
    cases h
  · rw [Dvr.frame_reset]
    rfl

/-- No CSR_WRITE touches the frames, the queue or the frame in progress (10_state.md R29). -/
theorem Csr.frameLaw_store {x : Inst} (c : Csr) (w : Word) (hx : x.dvr.law) : (c.store x w).dvr.law := by
  cases c <;> exact hx

theorem frameLaw_moves : InstMoves (·.dvr.law) where
  reset := Dvr.law_reset
  dvt _ _ _ := id
  engSame _ _ _ := id
  engMove _ _ _ := id
  abandonFrame _ _ hc h := Dvr.law_abandonFrame h hc
  beginFrame _ _ _ len syt ts hq hc h := Dvr.law_beginFrame h hq hc len syt ts
  fillFrame _ f bytes _ h := Dvr.law_fillFrame h f bytes
  dispatchFrame _ _ hc h := Dvr.law_dispatchFrame h hc
  dropReference _ f h := Dvr.law_dropReference h f
  endDispatch _ f h := Dvr.law_endDispatch h f
  release _ _ hf hs h := Dvr.law_release h hf hs
  register _ _ := id
  lawful _ _ _ := id
  allocCurrent _ _ _ := id
  deliverBuf _ _ _ _ := id
  releaseBuf _ _ _ _ := id
  csrStore _ c w _ := Csr.frameLaw_store c w

/-- Settles O44: the free-queue law of one frame store is kept by every move, and so by every step. -/
theorem stepKeepsFrameLaw : Obligations.StepKeepsFrameLaw :=
  fun _ _ hlaw hstep => step_moves (keepsEvery_moves frameLaw_moves) hstep hlaw

end Sys2Proof.Machine
end

section
/-! PROOF. DVR_RELEASE and DVR_REGISTER (obligations O42 and O43; 43_dv_receive.md R211, R213). -/

namespace Sys2Proof.Machine

variable {e : Nat} {s : State}

/-- A change of a frame says only what becomes of the record that is there. -/
theorem Dvr.modFrame_congr {d : Dvr} {f : Nat} {g h : RxFrame → RxFrame} (heq : g (d.frame f) = h (d.frame f)) :
    d.modFrame f g = d.modFrame f h := by
  rw [Dvr.modFrame, Dvr.modFrame, heq]

theorem modDvr_congr {g h : Dvr → Dvr} (heq : g (s.dvr e) = h (s.dvr e)) : s.modDvr e g = s.modDvr e h := by
  rw [modDvr_eq, modDvr_eq, heq]

theorem Dvr.frame_dropReference {d : Dvr} {f : Nat} (hf : f < d.frames.length) :
    (d.dropReference f).frame f = { d.frame f with refCount := (d.frame f).refCount - 1 } :=
  Dvr.frame_modFrame_same _ hf

/-- The last reference given back outside a dispatch frees the frame (R211). -/
theorem Dvr.release_last {d : Dvr} {f : Nat} (hf : f < d.frames.length) (hrefs : (d.frame f).refCount = 1)
    (hdisp : (d.frame f).dispatching = false) : d.release f = d.freeFrame f := by
  have hframe := Dvr.frame_dropReference hf
  rw [Dvr.release, if_pos (by rw [hframe, hrefs]; exact ⟨rfl, hdisp⟩), Dvr.freeFrame, Dvr.dropReference,
    Dvr.modFrame_modFrame]
  rfl

/-- Any other reference given back only counts down (R211). -/
theorem Dvr.release_counted {d : Dvr} {f : Nat} (hf : f < d.frames.length) (hrefs : (d.frame f).refCount ≠ 0)
    (hlast : ¬ ((d.frame f).refCount = 1 ∧ (d.frame f).dispatching = false)) :
    d.release f = d.dropReference f := by
  have hframe := Dvr.frame_dropReference hf
  refine if_neg ?_
  rw [hframe]
  rintro ⟨hzero, hdisp⟩
  exact hlast ⟨by dsimp only at hzero; omega, hdisp⟩

theorem run_dvrRelease (s : State) (e : Nat) : dvrReleaseBody e s =
    if (s.dvr e).frames.length ≤ s.arg0.toNat ∨ ((s.dvr e).frame s.arg0.toNat).state ≠ .dispatched ∨
        ((s.dvr e).frame s.arg0.toNat).refCount = 0 then .ok (some .badArgument) s
    else .ok (some .success) (s.modDvr e (·.release s.arg0.toNat)) := by
  rw [dvrReleaseBody, run_bind, run_getState]
  dsimp only
  rw [run_ite, run_ite, run_answer, run_bind, run_modDvr]
  split
  · next hlen => rw [if_pos (.inl hlen)]
  · next hlen =>
    split
    · next hheld => rw [if_pos (.inr hheld)]
    · next hheld => rw [if_neg (fun h => h.elim hlen hheld)]; rfl

/-- Settles O42: the one refusal of DVR_RELEASE, and the record changes of an accepted one. -/
theorem dvrReleaseResult : Obligations.DvrReleaseResult := by
  intro s e hhalt he d f
  have hrun : exec (.dvrRelease e) s = .next (endCommand (dvrReleaseBody e s)) :=
    asCommand_run_instance rfl hhalt he (.inr rfl)
  rw [hrun, run_dvrRelease]
  refine congrArg Host.Outcome.next ?_
  by_cases hbad : d.frames.length ≤ f ∨ (d.frame f).state ≠ .dispatched ∨ (d.frame f).refCount = 0
  · rw [if_pos hbad, if_pos hbad]
    rfl
  rw [if_neg hbad, if_neg hbad]
  rw [not_or, not_or, not_le] at hbad
  obtain ⟨hf, -, hrefs⟩ := hbad
  by_cases hlast : (d.frame f).refCount = 1 ∧ (d.frame f).dispatching = false
  · rw [if_pos hlast, modDvr_congr (h := (·.freeFrame f)) (Dvr.release_last hf hlast.1 hlast.2)]
    rfl
  · rw [if_neg hlast, modDvr_congr (h := (·.dropReference f)) (Dvr.release_counted hf hrefs hlast)]
    rfl

theorem run_dvrRegister (s : State) (e : Nat) : dvrRegisterBody e s =
    if s.arg0 ∈ (s.dvr e).consumers then .ok (some .badArgument) s
    else if (s.dvr e).consumers.length = 255 then .ok (some .noSpace) s
    else .ok (some .success) ((s.modDvr e fun d => { d with consumers := d.consumers ++ [s.arg0] }).setRes0
      (BitVec.ofNat 32 ((s.dvr e).consumers.length + 1))) := by
  rw [dvrRegisterBody, run_bind, run_getState]
  dsimp only
  rw [run_ite, run_ite, run_bind, run_modDvr]
  rfl

/-- Settles O43: the two refusals of DVR_REGISTER, and the new consumer at the end of the list. -/
theorem dvrRegisterResult : Obligations.DvrRegisterResult := by
  intro s e hidle he d
  have hrun : exec (.dvrRegister e) s = .next (endCommand (dvrRegisterBody e s)) :=
    asCommand_run_instance rfl hidle.1 he (.inl hidle.2)
  rw [hrun, run_dvrRegister]
  refine congrArg Host.Outcome.next ?_
  by_cases hknown : s.arg0 ∈ d.consumers
  · rw [if_pos hknown, if_pos hknown]
    rfl
  rw [if_neg hknown, if_neg hknown]
  by_cases hfull : d.consumers.length = 255
  · rw [if_pos hfull, if_pos hfull]
    rfl
  · rw [if_neg hfull, if_neg hfull]
    rfl

end Sys2Proof.Machine
end

section
/-! PROOF. DVR_CYCLE up to its blocks: the cycles that change no record (obligation O38), and which frame takes
the blocks of any other, one in progress or one that the start marker begins (43_dv_receive.md R202 to R209). -/

namespace Sys2Proof.Machine

variable {e : Nat} {s : State}

/-! ### The cycle that the operands name (R201, R203) -/

/-- The payload of the cycle, its CIP header first. -/
def State.cyclePayload (s : State) : List Byte := s.readBytes s.arg1.toNat (dataLength s.arg0)

/-- The cycle carries the start marker (R204). -/
def State.startMarked (s : State) : Prop :=
  10 ≤ dataLength s.arg0 ∧
    (s.readByte (s.arg1.toNat + 8) ++ s.readByte (s.arg1.toNat + 9)) &&& 0xE0FC#16 = 0x0004#16

theorem startMarked_iff (s : State) :
    s.startMarked ↔ 10 ≤ dataLength s.arg0 ∧ isFrameStart s.cyclePayload = true := by
  refine and_congr_right fun h10 => ?_
  rw [isFrameStart, beq_iff_eq, be16, State.cyclePayload, byteAt_readBytes s _ _ 8 (by omega),
    byteAt_readBytes s _ _ 9 (by omega)]

/-- The operands name a CIP cycle with data, whose payload lies in BUF, and DVMODE has the format `row`. -/
structure State.HasCycle (s : State) (e : Nat) (row : DvFormat) : Prop where
  row : s.par.dvRow (s.dvr e).dvMode = some row
  cip : s.arg0.extractLsb' 14 2 = 0b01#2
  data : 8 < dataLength s.arg0
  inBuf : s.arg1.toNat + dataLength s.arg0 ≤ s.par.bufBytes

theorem State.HasCycle.run_memRead {row : DvFormat} (h : s.HasCycle e row) :
    memRead s.arg1.toNat (dataLength s.arg0) s = .ok s.cyclePayload s := run_memRead_ok h.inBuf

/-- The pseudocode of DVR_CYCLE on the operands. -/
abbrev cycleRun (e : Nat) (s : State) : EStateM.Result Cut State Status :=
  dvrCycle e s.arg0 s.arg1.toNat s.arg2 s

theorem exec_dvrCycle_run (hs : s.idle) (he : e < s.inst.length) :
    exec (.dvrCycle e) s =
      .next (endCommand (operandsBody (fun a0 a1 a2 => dvrCycle e a0 a1.toNat a2) s)) :=
  ((dvrCycle_command e).exec_eq s).trans (asCommand_run_instance rfl hs.1 he (.inl hs.2))

theorem exec_dvrCycle_ok (hs : s.idle) (he : e < s.inst.length) {c : Status} {t : State}
    (h : cycleRun e s = .ok c t) : exec (.dvrCycle e) s = .next (t.setStatus c) := by
  rw [exec_dvrCycle_run hs he, ReceiverCommand.endCommand_operandsBody, show dvrCycle e _ _ _ s = _ from h]

theorem exec_dvrCycle_fault (hs : s.idle) (he : e < s.inst.length) {t : State}
    (h : cycleRun e s = .error .fault t) : exec (.dvrCycle e) s = .next t := by
  rw [exec_dvrCycle_run hs he, ReceiverCommand.endCommand_operandsBody, show dvrCycle e _ _ _ s = _ from h]

/-! ### The checks (R202, R203) -/

/-- A start-marked cycle once no frame is in progress any more: the mode check, then a frame, then the data
(R203). -/
def beginCycle (e : Nat) (row : DvFormat) (p : List Byte) (len : Nat) (ts : Word) : M Status :=
  if (cipHeader p).fdf ≠ row.mode.setWidth 24 then do
    notifyAll e .wrongMode
    pure .success
  else do
    let ok ← startFrame e row (cipHeader p).syt ts
    if ok then do
      cycleData e row p len ts
      pure .success
    else pure .success

theorem run_dvrCycle_noRow (hrow : s.par.dvRow (s.dvr e).dvMode = none) :
    cycleRun e s = .ok .badArgument s := by
  rw [cycleRun, dvrCycle, run_bind, run_getState]
  simp only [hrow, run_pure]

section

variable {row : DvFormat} (hrow : s.par.dvRow (s.dvr e).dvMode = some row)

include hrow

theorem run_dvrCycle_ignored (h : isCipHeader s.arg0 = false ∨ dataLength s.arg0 ≤ 8) :
    cycleRun e s = .ok .success s := by
  rw [cycleRun, dvrCycle, run_bind, run_getState]
  simp only [hrow]
  rw [run_ite, if_pos h, run_pure]

theorem run_dvrCycle_read (h : ¬ (isCipHeader s.arg0 = false ∨ dataLength s.arg0 ≤ 8)) :
    cycleRun e s = (memRead s.arg1.toNat (dataLength s.arg0) >>= fun p =>
      if 10 ≤ dataLength s.arg0 ∧ isFrameStart p then do
        abandonCurrent e
        beginCycle e row p (dataLength s.arg0) s.arg2
      else do
        cycleData e row p (dataLength s.arg0) s.arg2
        pure .success) s := by
  rw [cycleRun, dvrCycle, run_bind, run_getState]
  simp only [hrow]
  rw [run_ite, if_neg h]
  rfl

end

theorem not_ignored (hcip : s.arg0.extractLsb' 14 2 = 0b01#2) (h8 : 8 < dataLength s.arg0) :
    ¬ (isCipHeader s.arg0 = false ∨ dataLength s.arg0 ≤ 8) := by
  rw [not_or, Bool.not_eq_false, isCipHeader_iff]
  exact ⟨hcip, Nat.not_le.mpr h8⟩

/-- A cycle without the start marker goes straight to its data. -/
theorem State.HasCycle.run_unmarked {row : DvFormat} (h : s.HasCycle e row) (hm : ¬ s.startMarked) :
    cycleRun e s = (cycleData e row s.cyclePayload (dataLength s.arg0) s.arg2 >>= fun _ =>
      pure .success) s := by
  rw [run_dvrCycle_read h.row (not_ignored h.cip h.data), run_bind, h.run_memRead]
  dsimp only
  rw [run_ite, if_neg (fun hp => hm ((startMarked_iff s).mpr hp))]

/-- Without a frame in progress the data is ignored (R203). -/
theorem run_cycleData_none {row : DvFormat} {p : List Byte} {len : Nat} {ts : Word}
    (hc : (s.dvr e).currentFrame = none) : cycleData e row p len ts s = .ok () s := by
  rw [cycleData, run_bind, run_getDvr]
  simp only [hc, run_pure]

/-- Settles O38: the checks of DVR_CYCLE in their order, and a cycle that finds no frame in progress. -/
theorem cycleIgnored : Obligations.CycleIgnored := by
  intro s e hs he d len
  obtain hlen : len = dataLength s.arg0 := toNat_eq_dataLength s.arg0
  clear_value len
  subst hlen
  intro pa isCip known
  refine ⟨fun hrow => ?noRow, fun ⟨row, hrow⟩ hskip => ?ignored, fun ⟨row, hrow⟩ hcip h8 hout => ?outside,
    fun ⟨row, hrow⟩ hcip h8 hin hc hm => ?noFrame⟩
  case noRow => exact exec_dvrCycle_ok hs he (run_dvrCycle_noRow hrow)
  case ignored =>
    refine exec_dvrCycle_ok hs he (run_dvrCycle_ignored hrow (hskip.imp_left fun hc => ?_))
    rw [← Bool.not_eq_true, isCipHeader_iff]
    exact hc
  case outside =>
    refine exec_dvrCycle_fault hs he ?_
    rw [run_dvrCycle_read hrow (not_ignored hcip h8), run_bind, run_memRead_bad (Nat.not_le.mpr hout)]
  case noFrame =>
    refine exec_dvrCycle_ok (c := .success) hs he ?_
    rw [State.HasCycle.run_unmarked ⟨hrow, hcip, h8, hin⟩ hm, run_bind, run_cycleData_none hc]
    rfl

/-! ### The start marker (R205, R206, R209) -/

theorem run_startFrame_free {row : DvFormat} {syt : Half} {ts : Word} {f : Nat} {q : List Nat}
    (hq : (s.dvr e).freeQueue = f :: q) : startFrame e row syt ts s =
      .ok true (s.modDvr e (·.started f q row.frameSize syt ts)) := by
  rw [startFrame, run_bind, run_getDvr]
  simp only [hq, run_bind, run_modDvr, run_pure]
  rfl

theorem run_startFrame_dropped {row : DvFormat} {syt : Half} {ts : Word} {ds rest : List Draw}
    (hq : (s.dvr e).freeQueue = []) (ha : s.answers ds rest (s.dvr e).consumers.length) :
    startFrame e row syt ts s = .ok false (s.told ((s.dvr e).notices e .frameDropped) rest) := by
  rw [startFrame, run_bind, run_getDvr]
  simp only [hq, run_bind, run_notifyAll ha, run_pure]

@[simp] theorem Dvr.cleared_consumers (d : Dvr) : d.cleared.consumers = d.consumers := by
  unfold Dvr.cleared
  split <;> rfl

@[simp] theorem Dvr.cleared_frames_length (d : Dvr) : d.cleared.frames.length = d.frames.length := by
  unfold Dvr.cleared
  split
  · next f _ => exact Dvr.abandonFrame_length d f
  · rfl

@[simp] theorem Dvr.cleared_notices (d : Dvr) (m : Msg) : d.cleared.notices e m = d.notices e m := by
  rw [Dvr.notices, Dvr.cleared_consumers, Dvr.notices]

/-- With no frame left in the queue none was in progress. -/
theorem Dvr.cleared_of_empty {d : Dvr} (hq : d.cleared.freeQueue = []) :
    d.currentFrame = none ∧ d.cleared = d := by
  cases hc : d.currentFrame with
  | none => exact ⟨rfl, by simp [Dvr.cleared, hc]⟩
  | some f => simp [Dvr.cleared, hc] at hq

section

variable {row : DvFormat} {ds rest : List Draw}

/-- A start-marked cycle, once the frame in progress has been abandoned (R203). -/
theorem State.HasCycle.run_marked (h : s.HasCycle e row) (he : e < s.inst.length) (hm : s.startMarked)
    (ha : s.answers ds rest ((s.dvr e).abandonNotices e).length) :
    cycleRun e s = beginCycle e row s.cyclePayload (dataLength s.arg0) s.arg2
      ((s.told ((s.dvr e).abandonNotices e) rest).modDvr e Dvr.cleared) := by
  rw [run_dvrCycle_read h.row (not_ignored h.cip h.data), run_bind, h.run_memRead]
  dsimp only
  rw [run_ite, if_pos ((startMarked_iff s).mp hm), run_bind, run_abandonCurrent he ha]

end

/-- The frame `f` takes the blocks of the cycle: it is in progress, or the start marker begins it; `before` has
been told by then, and `d` are the records (R203). -/
def State.FeedsFrame (s : State) (e : Nat) (row : DvFormat) (f : Nat) (before : List Out) (d : Dvr) : Prop :=
  ¬ s.startMarked ∧ (s.dvr e).currentFrame = some f ∧ before = [] ∧ d = s.dvr e ∨
    s.startMarked ∧ (cipHeader s.cyclePayload).fdf = row.mode.setWidth 24 ∧
      before = (s.dvr e).abandonNotices e ∧ ∃ q, (s.dvr e).cleared.freeQueue = f :: q ∧
        d = (s.dvr e).cleared.started f q row.frameSize (cipHeader s.cyclePayload).syt s.arg2

section

variable {row : DvFormat} {f : Nat} {before : List Out} {d : Dvr}

theorem State.FeedsFrame.records (h : s.FeedsFrame e row f before d) : d.currentFrame = some f ∧
    d.consumers = (s.dvr e).consumers ∧ d.frames.length = (s.dvr e).frames.length := by
  rcases h with ⟨-, hc, -, rfl⟩ | ⟨-, -, -, q, -, rfl⟩
  · exact ⟨hc, rfl, rfl⟩
  · refine ⟨rfl, Dvr.cleared_consumers _, ?_⟩
    exact (Dvr.beginFrame_length _ f q _ _ _).trans (Dvr.cleared_frames_length _)

/-- The cycle goes on to its data with `f` in progress. -/
theorem State.FeedsFrame.run_dvrCycle (h : s.FeedsFrame e row f before d) (hc : s.HasCycle e row)
    (he : e < s.inst.length) {ds rest : List Draw} (ha : s.answers ds rest before.length) :
    cycleRun e s = (cycleData e row s.cyclePayload (dataLength s.arg0) s.arg2 >>= fun _ => pure .success)
      ((s.told before rest).modDvr e fun _ => d) := by
  rcases h with ⟨hm, -, rfl, rfl⟩ | ⟨hm, hmode, rfl, q, hq, rfl⟩
  · obtain ⟨htape, hlen, -⟩ := ha
    obtain rfl := List.length_eq_zero_iff.mp hlen
    rw [hc.run_unmarked hm, State.told_nil (by simpa using htape), modDvr_self _ _ _ rfl]
  · have hd : (State.modDvr (s.told ((s.dvr e).abandonNotices e) rest) e Dvr.cleared).dvr e =
        (s.dvr e).cleared := dvr_modDvr_same _ _ he
    rw [hc.run_marked he hm ha, beginCycle, run_ite, if_neg (not_not.mpr hmode), run_bind,
      run_startFrame_free (by rw [hd]; exact hq)]
    dsimp only
    rw [run_ite, if_pos rfl, modDvr_modDvr]
    exact congrArg _ (modDvr_congr rfl)

end

end Sys2Proof.Machine
end

section
/-! PROOF. The blocks of a DVR_CYCLE: what of them goes into the frame that takes them (obligation O39), and what
the consumers are told where none is delivered (obligation O41; 43_dv_receive.md R205 to R209, R214). -/

namespace Sys2Proof.Machine

variable {e f : Nat} {s : State} {row : DvFormat}

/-! ### Bytes copied into a frame (R208) -/

@[simp] theorem Dvr.frame_fillFrame {d : Dvr} (hf : f < d.frames.length) (bs : List Byte) :
    (d.fillFrame f bs).frame f = { d.frame f with
      data := sparseSetRun (d.frame f).data (d.frame f).currentOffset bs
      currentOffset := (d.frame f).currentOffset + bs.length } := Dvr.frame_modFrame_same _ hf

theorem Dvr.frame_started {d : Dvr} (hf : f < d.frames.length) (q : List Nat) (len : Nat) (syt : Half)
    (ts : Word) : (d.started f q len syt ts).frame f = { d.frame f with
      state := .filling, currentOffset := 0, frameLen := len, refCount := 0, frameSYTTime := syt
      frameReceivedTimeStamp := ts } := by
  simp [Dvr.started, Dvr.frame, Dvr.modFrame, hf]

/-- Bytes copied behind one another are copied together. -/
theorem Dvr.fillFrame_fillFrame (d : Dvr) (f : Nat) (bs cs : List Byte) :
    (d.fillFrame f bs).fillFrame f cs = d.fillFrame f (bs ++ cs) := by
  rw [Dvr.fillFrame, Dvr.fillFrame, Dvr.modFrame_modFrame]
  refine Dvr.modFrame_congr ?_
  rw [sparseSetRun_next, List.length_append, Nat.add_assoc]

/-- The first bytes copied into a frame that has just been started. -/
theorem Dvr.started_fillFrame (d : Dvr) (f : Nat) (q : List Nat) (len : Nat) (syt : Half) (ts : Word)
    (bs : List Byte) : (d.started f q len syt ts).fillFrame f bs =
      { d.modFrame f (fun r => { r with
          state := .filling, currentOffset := bs.length, frameLen := len, refCount := 0
          frameSYTTime := syt, frameReceivedTimeStamp := ts, data := sparseSetRun r.data 0 bs }) with
        freeQueue := q, currentFrame := some f } := by
  have hframes := Dvr.modFrame_modFrame d f
    (fun r => { r with
      state := .filling, currentOffset := 0, frameLen := len, refCount := 0, frameSYTTime := syt
      frameReceivedTimeStamp := ts })
    (fun r => { r with
      data := sparseSetRun r.data r.currentOffset bs, currentOffset := r.currentOffset + bs.length })
  simp only [Nat.zero_add] at hframes
  exact congrArg (fun y : Dvr => { y with freeQueue := q, currentFrame := some f }) hframes

/-! ### The block loop (R203, R208) -/

/-- The end of a copied block: a frame that is complete is dispatched (R208). -/
def endBlock (e f : Nat) : M Unit := do
  let d ← getDvr e
  if (d.frame f).currentOffset = (d.frame f).frameLen then dispatch e f else pure ()

theorem run_copyBlock (p : List Byte) (o : Nat) : copyBlock e f row p o s =
    endBlock e f (s.modDvr e (·.fillFrame f ((p.drop o).take row.blk))) := by
  rw [copyBlock, run_bind, run_modDvr]
  rfl

theorem run_endBlock_open (h : ((s.dvr e).frame f).currentOffset ≠ ((s.dvr e).frame f).frameLen) :
    endBlock e f s = .ok () s := by
  rw [endBlock, run_bind, run_getDvr]
  dsimp only
  rw [run_ite, if_neg h, run_pure]

theorem run_endBlock_complete (h : ((s.dvr e).frame f).currentOffset = ((s.dvr e).frame f).frameLen) :
    endBlock e f s = dispatch e f s := by
  rw [endBlock, run_bind, run_getDvr]
  dsimp only
  rw [run_ite, if_pos h]

section

variable {p : List Byte} {syt : Half} {ts : Word}

theorem run_cycleBlocks_succ (hc : (s.dvr e).currentFrame = some f) (n b : Nat) :
    cycleBlocks e row p syt ts (n + 1) b s = (endBlock e f >>= fun _ => cycleBlocks e row p syt ts n (b + 1))
      (s.modDvr e (·.fillFrame f ((p.drop (8 + b * row.blk)).take row.blk))) := by
  rw [cycleBlocks, run_bind, run_getDvr]
  simp only [hc]
  rw [run_bind, run_copyBlock, run_bind]

/-- Blocks that the frame has room for go into it as one run of bytes; only the last can complete it. -/
theorem run_cycleBlocks_fill (n m b : Nat) (he : e < s.inst.length)
    (hf : f < (s.dvr e).frames.length) (hc : (s.dvr e).currentFrame = some f) (hblk : 0 < row.blk)
    (hp : 8 + (b + (n + 1)) * row.blk ≤ p.length)
    (hroom : ((s.dvr e).frame f).currentOffset + (n + 1) * row.blk ≤ ((s.dvr e).frame f).frameLen) :
    cycleBlocks e row p syt ts (n + 1 + m) b s =
      (endBlock e f >>= fun _ => cycleBlocks e row p syt ts m (b + (n + 1)))
        (s.modDvr e (·.fillFrame f ((p.drop (8 + b * row.blk)).take ((n + 1) * row.blk)))) := by
  induction n generalizing s b with
  | zero => rw [Nat.zero_add, Nat.one_mul, Nat.add_comm 1 m, run_cycleBlocks_succ hc]
  | succ n ih =>
    have hsum : (n + 1 + 1) * row.blk = row.blk + (n + 1) * row.blk := by rw [Nat.succ_mul, Nat.add_comm]
    have hpos : row.blk ≤ (n + 1) * row.blk := Nat.le_mul_of_pos_left _ n.succ_pos
    have hnext : b + (n + 1 + 1) = b + 1 + (n + 1) := by omega
    have hstart : 8 + (b + 1) * row.blk = 8 + b * row.blk + row.blk := by rw [Nat.succ_mul, Nat.add_assoc]
    rw [hnext] at hp ⊢
    rw [hsum] at hroom ⊢
    -- the first block leaves room for the others
    have hlen : ((p.drop (8 + b * row.blk)).take row.blk).length = row.blk := by
      rw [List.length_take, List.length_drop]
      rw [Nat.add_mul, Nat.succ_mul] at hp
      omega
    generalize hbs : (p.drop (8 + b * row.blk)).take row.blk = bs at hlen
    have hd : (s.modDvr e (·.fillFrame f bs)).dvr e = (s.dvr e).fillFrame f bs := dvr_modDvr_same _ _ he
    have hframe := Dvr.frame_fillFrame hf bs
    rw [show n + 1 + 1 + m = n + 1 + m + 1 by omega, run_cycleBlocks_succ hc, hbs, run_bind,
      run_endBlock_open (by rw [hd, hframe]; dsimp only; omega)]
    dsimp only
    rw [ih (s := s.modDvr e (·.fillFrame f bs)) (b + 1) (by simpa using he) (by rw [hd]; simpa using hf)
      (by rw [hd]; exact hc) hp (by rw [hd, hframe]; dsimp only; omega), modDvr_modDvr]
    simp only [Dvr.fillFrame_fillFrame, List.take_add, List.drop_drop, hstart, hbs]

/-- The same by the number of bytes; `k` is what is left of the cycle behind them. -/
theorem run_cycleBlocks_bytes {n k : Nat} (b : Nat) (he : e < s.inst.length)
    (hf : f < (s.dvr e).frames.length) (hc : (s.dvr e).currentFrame = some f) (hblk : 0 < row.blk)
    (hn : 0 < n) (hmod : n % row.blk = 0) (hp : 8 + b * row.blk + n ≤ p.length)
    (hroom : ((s.dvr e).frame f).currentOffset + n ≤ ((s.dvr e).frame f).frameLen) :
    cycleBlocks e row p syt ts ((n + k) / row.blk) b s =
      (endBlock e f >>= fun _ => cycleBlocks e row p syt ts (k / row.blk) (b + n / row.blk))
        (s.modDvr e (·.fillFrame f ((p.drop (8 + b * row.blk)).take n))) := by
  obtain ⟨q, rfl⟩ := Nat.dvd_of_mod_eq_zero hmod
  obtain ⟨q, rfl⟩ : ∃ r, q = r + 1 := Nat.exists_eq_succ_of_ne_zero (fun h => by simp [h] at hn)
  rw [Nat.mul_add_div hblk, Nat.mul_div_cancel_left _ hblk]
  rw [Nat.mul_comm row.blk (q + 1)] at hp hroom ⊢
  exact run_cycleBlocks_fill q _ b he hf hc hblk (by rw [Nat.add_mul]; omega) hroom

theorem run_cycleData_valid {len : Nat} (hc : (s.dvr e).currentFrame = some f)
    (hvalid : blocksValid row len (cipHeader p) = true) : cycleData e row p len ts s =
      cycleBlocks e row p (cipHeader p).syt ts ((len - 8) / row.blk) 0 s := by
  rw [cycleData, run_bind, run_getDvr]
  simp only [hc]
  rw [run_ite, if_pos hvalid]

/-- Invalid blocks abandon the frame in progress (R207). -/
theorem run_cycleData_invalid {len : Nat} (hc : (s.dvr e).currentFrame = some f)
    (hvalid : ¬ blocksValid row len (cipHeader p) = true) :
    cycleData e row p len ts s = abandonCurrent e s := by
  rw [cycleData, run_bind, run_getDvr, abandonCurrent, run_bind, run_getDvr]
  simp only [hc]
  rw [run_ite, if_neg hvalid]

end

/-! ### The cycle (R203, R207) -/

/-- The blocks of the cycle, behind its CIP header. -/
def State.cycleBytes (s : State) : List Byte := s.readBytes (s.arg1.toNat + 8) (dataLength s.arg0 - 8)

/-- The blocks of the cycle are valid for the format `row` (R207). -/
def State.BlocksFit (s : State) (row : DvFormat) : Prop :=
  (cipHeader s.cyclePayload).dbs = row.dbs ∧ 0 < row.dbs.toNat ∧
    (dataLength s.arg0 - 8) % (row.dbs.toNat * 4) = 0

theorem blocksFit_iff : s.BlocksFit row ↔ blocksValid row (dataLength s.arg0) (cipHeader s.cyclePayload) = true := by
  simp [State.BlocksFit, blocksValid, DvFormat.blk]

theorem State.BlocksFit.blk_pos (h : s.BlocksFit row) : 0 < row.blk :=
  Nat.mul_pos h.2.1 (by decide)

theorem State.HasCycle.drop_cyclePayload (h : s.HasCycle e row) (n : Nat) :
    s.cyclePayload.drop (8 + n) = s.cycleBytes.drop n := by
  have hpayload : s.cyclePayload = s.readBytes s.arg1.toNat 8 ++ s.cycleBytes := by
    rw [State.cycleBytes, ← readBytes_add, Nat.add_sub_cancel' h.data.le, State.cyclePayload]
  rw [← List.drop_drop, hpayload, List.drop_left' (readBytes_length _ _ _)]

section

variable {before : List Out} {d : Dvr} {ds rest : List Draw}

/-- A cycle with valid blocks: the first `n` bytes go into the frame that takes them, which has room for them,
and `k` bytes are left. -/
theorem State.FeedsFrame.run_valid (h : s.FeedsFrame e row f before d) (hc : s.HasCycle e row)
    (he : e < s.inst.length) (ha : s.answers ds rest before.length) (hf : f < (s.dvr e).frames.length)
    (hfit : s.BlocksFit row) {n k : Nat} (hlen : dataLength s.arg0 - 8 = n + k) (hn : 0 < n)
    (hmod : n % row.blk = 0) (hroom : (d.frame f).currentOffset + n ≤ (d.frame f).frameLen) :
    cycleRun e s = (endBlock e f >>= fun _ =>
        cycleBlocks e row s.cyclePayload (cipHeader s.cyclePayload).syt s.arg2 (k / row.blk) (n / row.blk) >>=
          fun _ => pure .success)
      ((s.told before rest).modDvr e fun _ => d.fillFrame f (s.cycleBytes.take n)) := by
  obtain ⟨hcur, -, hframes⟩ := h.records
  have hd : ((s.told before rest).modDvr e fun _ => d).dvr e = d := dvr_modDvr_same _ _ he
  have hp : 8 + 0 * row.blk + n ≤ s.cyclePayload.length := by
    have := hc.data
    rw [State.cyclePayload, readBytes_length]
    omega
  rw [h.run_dvrCycle hc he ha, run_bind,
    run_cycleData_valid (by rw [hd]; exact hcur) (blocksFit_iff.mp hfit), hlen,
    run_cycleBlocks_bytes 0 (by simpa using he) (by rw [hd, hframes]; exact hf) (by rw [hd]; exact hcur)
      hfit.blk_pos hn hmod hp (by rw [hd]; exact hroom), modDvr_modDvr, Nat.zero_mul, hc.drop_cyclePayload,
    List.drop_zero, Nat.zero_add, run_bind, run_bind]
  cases endBlock e f _ with
  | ok a t => exact (run_bind t _ _).symm
  | error c t => rfl

/-- A cycle whose blocks leave the frame that takes them incomplete (R208). -/
theorem State.FeedsFrame.run_filling (h : s.FeedsFrame e row f before d) (hc : s.HasCycle e row)
    (he : e < s.inst.length) (ha : s.answers ds rest before.length) (hf : f < (s.dvr e).frames.length)
    (hfit : s.BlocksFit row)
    (hroom : (d.frame f).currentOffset + (dataLength s.arg0 - 8) < (d.frame f).frameLen) :
    cycleRun e s = .ok .success ((s.told before rest).modDvr e fun _ => d.fillFrame f s.cycleBytes) := by
  obtain ⟨-, -, hframes⟩ := h.records
  have hpos : 0 < dataLength s.arg0 - 8 := by have := hc.data; omega
  have hlen : s.cycleBytes.length = dataLength s.arg0 - 8 := readBytes_length _ _ _
  have hd : ((s.told before rest).modDvr e fun _ => d.fillFrame f s.cycleBytes).dvr e =
      d.fillFrame f s.cycleBytes := dvr_modDvr_same _ _ he
  rw [h.run_valid hc he ha hf hfit (n := dataLength s.arg0 - 8) (k := 0) rfl hpos hfit.2.2 hroom.le, ← hlen,
    List.take_length, run_bind, run_endBlock_open]
  · rw [Nat.zero_div]
    rfl
  · rw [hd, Dvr.frame_fillFrame (by rw [hframes]; exact hf)]
    dsimp only
    omega

/-- A cycle with invalid blocks: the frame that would take them is abandoned (R207, R209). -/
theorem State.FeedsFrame.run_invalid (h : s.FeedsFrame e row f before d) (hc : s.HasCycle e row)
    (he : e < s.inst.length) (hfit : ¬ s.BlocksFit row)
    (ha : s.answers ds rest (before ++ (s.dvr e).notices e .frameCorrupted).length) :
    cycleRun e s = .ok .success
      ((s.told (before ++ (s.dvr e).notices e .frameCorrupted) rest).modDvr e fun _ => d.cleared) := by
  obtain ⟨hcur, hcons, -⟩ := h.records
  rw [List.length_append] at ha
  obtain ⟨ds1, ds2, ha1, hlen, hquiet⟩ := State.answers_add ha
  have hd : ((s.told before (ds2 ++ rest)).modDvr e fun _ => d).dvr e = d := dvr_modDvr_same _ _ he
  have hnotices : d.abandonNotices e = (s.dvr e).notices e .frameCorrupted := by
    rw [Dvr.abandonNotices, hcur, Option.isSome_some, if_pos rfl, Dvr.notices, hcons, Dvr.notices]
  rw [h.run_dvrCycle hc he ha1, run_bind,
    run_cycleData_invalid (by rw [hd]; exact hcur) (fun hv => hfit (blocksFit_iff.mpr hv)),
    run_abandonCurrent (ds := ds2) (rest := rest) (by simpa using he)
      ⟨rfl, by rw [hd, hnotices]; exact hlen, hquiet⟩, hd, hnotices]
  simp only [modDvr_told, modDvr_modDvr, State.told_told, run_pure]

end

/-- Settles O39: both kinds of cycle leave the frame that takes their blocks incomplete. -/
theorem cycleFillsFrame : Obligations.CycleFillsFrame := by
  intro s e f row hs he d len
  obtain hlen : len = dataLength s.arg0 := toNat_eq_dataLength s.arg0
  clear_value len
  subst hlen
  intro pa h blocks starts hrow hcip h8 hin hf hdbs hpos hmod
  have hc : s.HasCycle e row := ⟨hrow, hcip, h8, hin⟩
  have hfit : s.BlocksFit row := ⟨hdbs, hpos, hmod⟩
  have hbytes : blocks.length = dataLength s.arg0 - 8 := readBytes_length _ _ _
  refine ⟨fun hcur hm hroom => ?inProgress, fun q ds rest hm hq hmode hroom ha => ?started⟩
  case inProgress =>
    have hfeeds : s.FeedsFrame e row f [] d := .inl ⟨hm, hcur, rfl, rfl⟩
    have hrun := hfeeds.run_filling hc he (ds := []) ⟨rfl, rfl, by simp⟩ hf hfit hroom
    rw [exec_dvrCycle_ok hs he hrun, State.told_nil rfl, Dvr.fillFrame]
    rw [← hbytes]
    rfl
  case started =>
    have hfeeds : s.FeedsFrame e row f _ _ := .inr ⟨hm, hmode, rfl, q, hq, rfl⟩
    have hf' : f < d.cleared.frames.length := by simpa using hf
    have hframe := Dvr.frame_started hf' q row.frameSize h.syt s.arg2
    have hrun := hfeeds.run_filling hc he ha hf hfit (by
      rw [show (cipHeader s.cyclePayload).syt = h.syt from rfl, hframe]; simpa using hroom)
    rw [exec_dvrCycle_ok hs he hrun]
    refine congrArg Host.Outcome.next (congrArg (State.setStatus · .success) ?_)
    rw [Dvr.started_fillFrame, ← hbytes]
    exact modDvr_congr rfl

/-! ### Notices (R205 to R209) -/

section

variable {ds rest : List Draw}

/-- A start-marked cycle of another mode (R205). -/
theorem State.HasCycle.run_wrongMode (h : s.HasCycle e row) (he : e < s.inst.length) (hm : s.startMarked)
    (hmode : (cipHeader s.cyclePayload).fdf ≠ row.mode.setWidth 24)
    (ha : s.answers ds rest ((s.dvr e).abandonNotices e ++ (s.dvr e).notices e .wrongMode).length) :
    cycleRun e s = .ok .success ((s.told ((s.dvr e).abandonNotices e ++ (s.dvr e).notices e .wrongMode)
      rest).modDvr e Dvr.cleared) := by
  rw [List.length_append] at ha
  obtain ⟨ds1, ds2, ha1, hlen, hquiet⟩ := State.answers_add ha
  have hd : (State.modDvr (s.told ((s.dvr e).abandonNotices e) (ds2 ++ rest)) e Dvr.cleared).dvr e =
      (s.dvr e).cleared := dvr_modDvr_same _ _ he
  rw [h.run_marked he hm ha1, beginCycle, run_ite, if_pos hmode, run_bind,
    run_notifyAll (ds := ds2) (rest := rest) ⟨rfl, ?_, hquiet⟩, hd, Dvr.cleared_notices]
  · simp only [modDvr_told, State.told_told, run_pure]
  · rw [hd, Dvr.cleared_consumers, hlen, Dvr.notices, List.length_map]

/-- A start-marked cycle that finds no frame free (R206). -/
theorem State.HasCycle.run_noFrame (h : s.HasCycle e row) (he : e < s.inst.length) (hm : s.startMarked)
    (hmode : (cipHeader s.cyclePayload).fdf = row.mode.setWidth 24)
    (hq : (s.dvr e).cleared.freeQueue = [])
    (ha : s.answers ds rest ((s.dvr e).notices e .frameDropped).length) :
    cycleRun e s = .ok .success (s.told ((s.dvr e).notices e .frameDropped) rest) := by
  obtain ⟨hcur, hcleared⟩ := Dvr.cleared_of_empty hq
  have hnone : (s.dvr e).abandonNotices e = [] := by
    rw [Dvr.abandonNotices, hcur, Option.isSome_none, if_neg Bool.false_ne_true]
  have htape : s.answers [] s.tape ((s.dvr e).abandonNotices e).length := by
    rw [hnone]
    exact ⟨rfl, rfl, by simp⟩
  rw [h.run_marked he hm htape, hnone, State.told_nil rfl, modDvr_self _ _ _ hcleared, beginCycle, run_ite,
    if_neg (not_not.mpr hmode), run_bind, run_startFrame_dropped (by rw [← hcleared]; exact hq)
      (by rw [Dvr.notices, List.length_map] at ha; exact ha)]
  rfl

end

theorem Dvr.cleared_of_current {d : Dvr} (hc : d.currentFrame = some f) : d.cleared = d.abandonFrame f := by
  simp only [Dvr.cleared, hc]
  rfl

/-- A frame abandoned as soon as it has been started. -/
theorem Dvr.started_cleared (d : Dvr) (f : Nat) (q : List Nat) (len : Nat) (syt : Half) (ts : Word) :
    (d.started f q len syt ts).cleared =
      { d.modFrame f (fun r => { r with
          state := .free, currentOffset := 0, frameLen := len, refCount := 0, frameSYTTime := syt
          frameReceivedTimeStamp := ts }) with
        freeQueue := q ++ [f], currentFrame := none } := by
  have hframes := Dvr.modFrame_modFrame d f
    (fun r => { r with
      state := .filling, currentOffset := 0, frameLen := len, refCount := 0, frameSYTTime := syt
      frameReceivedTimeStamp := ts })
    (fun r => { r with state := .free, refCount := 0 })
  rw [Dvr.cleared_of_current rfl]
  exact congrArg (fun y : Dvr => { y with freeQueue := q ++ [f], currentFrame := none }) hframes

/-- Settles O41: each notice with the records it leaves. -/
theorem cycleNotices : Obligations.CycleNotices := by
  intro s e row ds rest hs he d len
  obtain hlen : len = dataLength s.arg0 := toNat_eq_dataLength s.arg0
  clear_value len
  subst hlen
  intro pa h starts valid ends hrow hcip h8 hin
  have hc : s.HasCycle e row := ⟨hrow, hcip, h8, hin⟩
  have hends : ∀ {outs : List Out} {y : Dvr} {g : Dvr → Dvr}, g d = y →
      (s.answers ds rest outs.length → cycleRun e s = .ok .success ((s.told outs rest).modDvr e g)) →
      ends outs y := fun {outs y g} hg hrun ha => by
    rw [exec_dvrCycle_ok hs he (hrun ha), modDvr_congr (s := s.told outs rest) (h := fun _ => y) hg]
    rfl
  refine ⟨fun f hcur hm hbad => ?corrupted, fun hm hmode => ?wrongMode,
    fun f q hm hmode hq hf hbad => ?started, fun hm hmode hq => ?dropped⟩
  case corrupted =>
    have hfeeds : s.FeedsFrame e row f [] d := .inl ⟨hm, hcur, rfl, rfl⟩
    exact hends (Dvr.cleared_of_current hcur) (hfeeds.run_invalid hc he hbad)
  case wrongMode => exact hends rfl (hc.run_wrongMode he hm hmode)
  case started =>
    have hfeeds : s.FeedsFrame e row f _ _ := .inr ⟨hm, hmode, rfl, q, hq, rfl⟩
    exact hends (Dvr.started_cleared _ f q _ _ _) (hfeeds.run_invalid hc he hbad)
  case dropped =>
    refine hends (g := id) rfl fun ha => ?_
    rw [modDvr_self _ _ _ rfl]
    exact hc.run_noFrame he hm hmode hq ha

end Sys2Proof.Machine
end

section
/-! PROOF. The dispatch of a completed frame and the blocks behind it (obligation O40; 43_dv_receive.md R208 to
R211). -/

namespace Sys2Proof.Machine

variable {e f : Nat} {s : State} {row : DvFormat}

/-! ### The dispatch (R210) -/

/-- The frame `f` has been dispatched and `kept` consumers hold it; without any it is Free. -/
def Dvr.delivered (d : Dvr) (f kept : Nat) : Dvr :=
  { d.modFrame f (fun r => { r with
      state := if kept = 0 then .free else .dispatched, refCount := kept, dispatching := false }) with
    currentFrame := none, freeQueue := if kept = 0 then d.freeQueue ++ [f] else d.freeQueue }

@[simp] theorem Dvr.delivered_length (d : Dvr) (f kept : Nat) :
    (d.delivered f kept).frames.length = d.frames.length := Dvr.modFrame_length d f (fun r => { r with
      state := if kept = 0 then .free else .dispatched, refCount := kept, dispatching := false })

/-- A dispatched frame whose count has come to `n`. -/
theorem Dvr.endDispatch_delivered {d : Dvr} (hf : f < d.frames.length) (n : Nat) :
    ((d.dispatchFrame f).modFrame f (fun r => { r with refCount := n })).endDispatch f = d.delivered f n := by
  by_cases hn : n = 0 <;>
    simp [Dvr.endDispatch, Dvr.dispatchFrame, Dvr.delivered, Dvr.freeFrame, Dvr.modFrame, Dvr.frame, hf, hn]

/-- The calls that offer the frame to every consumer. -/
def Dvr.offers (d : Dvr) (e f : Nat) : List Out := d.consumers.map (.consumer e · .frameReceived (some f))

/-- How many consumers have answered Success, and so hold the frame. -/
def keptBy (answers : List Draw) : Nat := (answers.filter fun a => a.status == 0).length

theorem length_sub_refusals (ds : List Draw) :
    ds.length - (ds.filter fun a => a.status != 0).length = keptBy ds := by
  have hsum := List.length_eq_length_filter_add (l := ds) (fun a => a.status == 0)
  have hneg : (ds.filter fun a => !(a.status == 0)) = ds.filter fun a => a.status != 0 := rfl
  rw [hneg] at hsum
  rw [keptBy]
  omega

/-- Every consumer is offered the frame, and those that answer Success hold it. -/
theorem run_dispatch {ds rest : List Draw} (he : e < s.inst.length) (hf : f < (s.dvr e).frames.length)
    (ha : s.answers ds rest (s.dvr e).consumers.length) : dispatch e f s =
      .ok () ((s.told ((s.dvr e).offers e f) rest).modDvr e (·.delivered f (keptBy ds))) := by
  have hd : (s.modDvr e (·.dispatchFrame f)).dvr e = (s.dvr e).dispatchFrame f := dvr_modDvr_same _ _ he
  have hoffer := run_offerFrame (e := e) (f := f) (s.dvr e).consumers (s := s.modDvr e (·.dispatchFrame f))
    (ds := ds) (rest := rest) (by simpa using he) ha
  have hcons : ((s.dvr e).dispatchFrame f).consumers = (s.dvr e).consumers := rfl
  have hrefs : (((s.dvr e).dispatchFrame f).frame f).refCount = (s.dvr e).consumers.length := by
    simp [Dvr.dispatchFrame, Dvr.modFrame, Dvr.frame, hf]
  rw [dispatch, run_bind, run_modDvr]
  dsimp only
  rw [run_bind, run_getDvr]
  dsimp only
  rw [hd, hcons, run_bind, hoffer]
  simp only [run_modDvr, modDvr_told, modDvr_modDvr]
  refine congrArg (fun t : State => EStateM.Result.ok () (t.told _ rest)) (modDvr_congr ?_)
  rw [← Dvr.endDispatch_delivered hf, Dvr.modFrame_congr]
  rw [hrefs, ← ha.2.1, length_sub_refusals]

/-! ### A consumer that gives the frame back inside its callback (R211; 60_exceptions.md R319) -/

/-- What a client does that releases the frame `f`. -/
def releaseActs (e f : Nat) : List HostAct :=
  [.write .arg0 (BitVec.ofNat 32 f), .write .cmd (encodeWord (.dvrRelease e))]

/-- The command port after that. -/
def State.releaseIssued (s : State) (e f : Nat) : State :=
  { s with arg0 := BitVec.ofNat 32 f, cmd := encodeWord (.dvrRelease e), status := 0x00 }

theorem modDvr_releaseIssued (s : State) (e f i : Nat) (g : Dvr → Dvr) :
    (s.releaseIssued e f).modDvr i g = (s.modDvr i g).releaseIssued e f := rfl

section

variable {o : Out} {c : Draw} {rest : List Draw} (hhalt : s.halted = false) (he : e < s.inst.length)
  (hfits : e ≤ 255) (hword : f < 2 ^ 32) (hf : f < (s.dvr e).frames.length) (hacts : c.acts = releaseActs e f)

include hhalt he hfits hword hf hacts

/-- The client of a frame that is being dispatched with one reference left. -/
theorem State.called_release (hstate : ((s.dvr e).frame f).state = .dispatched)
    (hrefs : ((s.dvr e).frame f).refCount = 1) (hdisp : ((s.dvr e).frame f).dispatching = true) :
    s.called o c rest =
      (((s.modDvr e (·.dropReference f)).enterCallback o).takeDraw rest).releaseIssued e f := by
  have hwf : (Instr.dvrRelease e).wellFormed = true := by
    simpa [Instr.wellFormed, instanceFits] using by omega
  have hdecode : decodeCommand (encodeWord (.dvrRelease e)) = .ok (.dvrRelease e) :=
    decodeCommand_of_decode (decode_of_encodeWord hwf rfl rfl) rfl
  let v : State := (s.enterCallback o).takeDraw rest
  let w : State := { v with arg0 := BitVec.ofNat 32 f, cmd := encodeWord (.dvrRelease e) }
  have harg : w.arg0.toNat = f := (BitVec.toNat_ofNat f 32).trans (Nat.mod_eq_of_lt hword)
  have hrelease := dvrReleaseResult w e hhalt he
  dsimp only at hrelease
  rw [harg, show w.dvr e = s.dvr e from rfl, if_neg (by simp [hf, hstate, hrefs]),
    if_neg (by simp [hdisp])] at hrelease
  have hdoes : State.clientDoes (v.clientDoes (.write .arg0 (BitVec.ofNat 32 f)))
      (.write .cmd (encodeWord (.dvrRelease e))) = _ := clientDoes_command hdecode hrelease
  rw [State.called, hacts]
  change v.clientRan (releaseActs e f) = _
  rw [releaseActs, State.clientRan_cons v _ _ hhalt,
    State.clientRan_cons (v.clientDoes (.write .arg0 (BitVec.ofNat 32 f))) _ _ hhalt, hdoes]
  rfl

variable (ht : s.tape = c :: rest) (hreset : c.reset = false)

include ht hreset

theorem run_callback_release (hstate : ((s.dvr e).frame f).state = .dispatched)
    (hrefs : ((s.dvr e).frame f).refCount = 1) (hdisp : ((s.dvr e).frame f).dispatching = true) :
    callback o s = .ok c (((s.told [o] rest).modDvr e (·.dropReference f)).releaseIssued e f) := by
  have hgoesOn : ((((s.modDvr e (·.dropReference f)).enterCallback o).takeDraw rest).releaseIssued e f).halted
      ≠ true := fun h => Bool.false_ne_true (hhalt.symm.trans h)
  rw [run_callback_called hhalt ht,
    State.called_release hhalt he hfits hword hf hacts hstate hrefs hdisp, if_neg hgoesOn,
    if_neg (by simp [hreset])]
  rfl

/-- A lone consumer gives the frame back inside its callback: the frame goes Free as the dispatch ends. -/
theorem run_dispatch_released {id : Word} (hcons : (s.dvr e).consumers = [id]) : dispatch e f s =
    .ok () (((s.told [.consumer e id .frameReceived (some f)] rest).modDvr e
      (·.delivered f 0)).releaseIssued e f) := by
  have hd : (s.modDvr e (·.dispatchFrame f)).dvr e = (s.dvr e).dispatchFrame f := dvr_modDvr_same _ _ he
  have hframe : ((s.dvr e).dispatchFrame f).frame f = { (s.dvr e).frame f with
      state := .dispatched, refCount := 1, dispatching := true } := by
    simp [Dvr.dispatchFrame, Dvr.modFrame, Dvr.frame, hf, hcons]
  have hcall := run_callback_release (s := s.modDvr e (·.dispatchFrame f))
    (o := .consumer e id .frameReceived (some f)) hhalt (by simpa using he) hfits hword
    (by rw [hd]; simpa using hf) hacts ht hreset (by rw [hd, hframe]) (by rw [hd, hframe]) (by rw [hd, hframe])
  -- the one reference is gone, so that a refusal gives none back
  have hgone : ((((s.dvr e).dispatchFrame f).dropReference f).frame f).refCount = 0 := by
    rw [Dvr.frame_dropReference (by simpa using hf), hframe]
    rfl
  have hd' : ((((s.modDvr e (·.dispatchFrame f)).told [.consumer e id .frameReceived (some f)] rest).modDvr e
      (·.dropReference f)).releaseIssued e f).dvr e = ((s.dvr e).dispatchFrame f).dropReference f :=
    (dvr_modDvr_same (s.modDvr e (·.dispatchFrame f)) (·.dropReference f) (by simpa using he)).trans
      (congrArg (Dvr.dropReference · f) hd)
  have hend : (((s.dvr e).dispatchFrame f).dropReference f).endDispatch f = (s.dvr e).delivered f 0 := by
    rw [← Dvr.endDispatch_delivered hf 0, Dvr.dropReference, Dvr.modFrame_congr]
    rw [hframe]
    rfl
  rw [dispatch, run_bind, run_modDvr]
  dsimp only
  rw [run_bind, run_getDvr]
  dsimp only
  rw [hd, show ((s.dvr e).dispatchFrame f).consumers = [id] from hcons, offerFrame, run_bind, run_bind, hcall]
  dsimp only
  rw [run_bind, run_getDvr, hd']
  dsimp only
  rw [hgone, run_ite, if_neg (by simp), offerFrame, run_pure]
  simp only [run_modDvr, modDvr_releaseIssued, modDvr_told, modDvr_modDvr]
  exact congrArg (fun t : State => EStateM.Result.ok () ((t.told _ rest).releaseIssued e f)) (modDvr_congr hend)

end

/-! ### The cycle that completes a frame (R208, R210) -/

/-- Bytes copied up to the end of the frame, which is then dispatched. -/
theorem Dvr.fillFrame_delivered {d : Dvr} {bs : List Byte} (kept : Nat)
    (hend : (d.frame f).currentOffset + bs.length = (d.frame f).frameLen) :
    (d.fillFrame f bs).delivered f kept =
      { d.modFrame f (fun r => { r with
          state := if kept = 0 then .free else .dispatched, refCount := kept, dispatching := false
          currentOffset := r.frameLen, data := sparseSetRun r.data r.currentOffset bs }) with
        currentFrame := none, freeQueue := if kept = 0 then d.freeQueue ++ [f] else d.freeQueue } := by
  have hframes : (d.fillFrame f bs).modFrame f (fun r => { r with
      state := if kept = 0 then .free else .dispatched, refCount := kept, dispatching := false }) =
        d.modFrame f (fun r => { r with
          state := if kept = 0 then .free else .dispatched, refCount := kept, dispatching := false
          currentOffset := r.frameLen, data := sparseSetRun r.data r.currentOffset bs }) := by
    rw [Dvr.fillFrame, Dvr.modFrame_modFrame]
    refine Dvr.modFrame_congr ?_
    rw [hend]
  rw [Dvr.delivered, hframes]
  rfl

section

variable {p : List Byte} {syt : Half} {ts : Word}

/-- Blocks behind a completed frame go into the next one (R203, R206). -/
theorem run_cycleBlocks_next {g : Nat} {q : List Nat} {k : Nat} (b : Nat) (he : e < s.inst.length)
    (hc : (s.dvr e).currentFrame = none) (hq : (s.dvr e).freeQueue = g :: q) (hk : 0 < k) :
    cycleBlocks e row p syt ts k b s =
      cycleBlocks e row p syt ts k b (s.modDvr e (·.started g q row.frameSize syt ts)) := by
  obtain ⟨n, rfl⟩ : ∃ n, k = n + 1 := Nat.exists_eq_succ_of_ne_zero hk.ne'
  have hd : (s.modDvr e (·.started g q row.frameSize syt ts)).dvr e =
      (s.dvr e).started g q row.frameSize syt ts := dvr_modDvr_same _ _ he
  have hg : ((s.dvr e).started g q row.frameSize syt ts).currentFrame = some g := rfl
  rw [cycleBlocks, run_bind, run_bind, run_getDvr, run_getDvr, hd]
  simp only [hc, hg, run_bind, run_startFrame_free hq, run_ite, if_true, run_getDvr, hd]

/-- They leave it incomplete where it is longer. -/
theorem run_cycleBlocks_fillNext {g : Nat} {q : List Nat} {k : Nat} (b : Nat) (he : e < s.inst.length)
    (hc : (s.dvr e).currentFrame = none) (hq : (s.dvr e).freeQueue = g :: q)
    (hg : g < (s.dvr e).frames.length) (hblk : 0 < row.blk) (hk : 0 < k) (hmod : k % row.blk = 0)
    (hp : 8 + b * row.blk + k ≤ p.length) (hroom : k < row.frameSize) :
    cycleBlocks e row p syt ts (k / row.blk) b s = .ok () (s.modDvr e fun d =>
      (d.started g q row.frameSize syt ts).fillFrame g ((p.drop (8 + b * row.blk)).take k)) := by
  have hblocks : 0 < k / row.blk := Nat.div_pos (Nat.le_of_dvd hk (Nat.dvd_of_mod_eq_zero hmod)) hblk
  have hlen : ((p.drop (8 + b * row.blk)).take k).length = k := by
    rw [List.length_take, List.length_drop]
    omega
  have hframe := Dvr.frame_started hg q row.frameSize syt ts
  have hframes : ((s.dvr e).started g q row.frameSize syt ts).frames.length = (s.dvr e).frames.length :=
    Dvr.beginFrame_length _ g q _ _ _
  have hd : (s.modDvr e (·.started g q row.frameSize syt ts)).dvr e =
      (s.dvr e).started g q row.frameSize syt ts := dvr_modDvr_same _ _ he
  have hfill := run_cycleBlocks_bytes (p := p) (syt := syt) (ts := ts) (f := g) (n := k) (k := 0) b
    (s := s.modDvr e (·.started g q row.frameSize syt ts)) (by simpa using he) (by rw [hd, hframes]; exact hg)
    (by rw [hd]; rfl) hblk hk hmod hp (by rw [hd, hframe]; simpa using hroom.le)
  rw [run_cycleBlocks_next b he hc hq hblocks, show k / row.blk = (k + 0) / row.blk from rfl, hfill, run_bind,
    modDvr_modDvr, run_endBlock_open, Nat.zero_div]
  · rfl
  · rw [dvr_modDvr_same _ _ he, Dvr.frame_fillFrame (by rw [hframes]; exact hg), hframe, hlen]
    dsimp only
    omega

/-- With no frame free the rest of the cycle is dropped (R206). -/
theorem run_cycleBlocks_dropped {ds rest : List Draw} {k : Nat} (b : Nat)
    (hc : (s.dvr e).currentFrame = none) (hq : (s.dvr e).freeQueue = []) (hk : 0 < k)
    (ha : s.answers ds rest (s.dvr e).consumers.length) :
    cycleBlocks e row p syt ts k b s = .ok () (s.told ((s.dvr e).notices e .frameDropped) rest) := by
  obtain ⟨n, rfl⟩ : ∃ n, k = n + 1 := Nat.exists_eq_succ_of_ne_zero hk.ne'
  rw [cycleBlocks, run_bind, run_getDvr]
  simp only [hc, run_bind, run_startFrame_dropped hq ha, run_ite, Bool.false_eq_true, if_false, run_pure]

end

/-- The frame `f`, which takes the blocks of the cycle, is complete after `n` bytes of them, and `k` bytes are
left behind it. -/
structure State.Completes (s : State) (e : Nat) (row : DvFormat) (f : Nat) (before : List Out) (d : Dvr)
    (n k : Nat) : Prop where
  idle : s.idle
  known : e < s.inst.length
  cycle : s.HasCycle e row
  fit : s.BlocksFit row
  feeds : s.FeedsFrame e row f before d
  frame : f < (s.dvr e).frames.length
  bytes : dataLength s.arg0 - 8 = n + k
  pos : 0 < n
  blocks : n % row.blk = 0
  full : (d.frame f).currentOffset + n = (d.frame f).frameLen

/-- The records when the dispatch of a frame that took `n` bytes of the cycle has ended and `kept` consumers hold
it. -/
def State.afterDispatch (s : State) (d : Dvr) (f n kept : Nat) : Dvr :=
  (d.fillFrame f (s.cycleBytes.take n)).delivered f kept

namespace State.Completes

variable {before : List Out} {d : Dvr} {n k : Nat}

section

variable (h : s.Completes e row f before d n k)

include h

theorem length_take : (s.cycleBytes.take n).length = n := by
  have hlen : s.cycleBytes.length = dataLength s.arg0 - 8 := readBytes_length _ _ _
  rw [List.length_take, hlen, h.bytes]
  exact Nat.min_eq_left (Nat.le_add_right n k)

theorem frame_lt : f < d.frames.length := by
  obtain ⟨-, -, hframes⟩ := h.feeds.records
  exact hframes ▸ h.frame

/-- What is left are whole blocks. -/
theorem left_mod : k % row.blk = 0 := by
  have hall : (n + k) % row.blk = 0 := h.bytes ▸ h.fit.2.2
  exact Nat.mod_eq_zero_of_dvd
    ((Nat.dvd_add_right (Nat.dvd_of_mod_eq_zero h.blocks)).mp (Nat.dvd_of_mod_eq_zero hall))

theorem left_blocks (hk : 0 < k) : 0 < k / row.blk :=
  Nat.div_pos (Nat.le_of_dvd hk (Nat.dvd_of_mod_eq_zero h.left_mod)) h.fit.blk_pos

/-- The cycle up to the dispatch of the frame. -/
theorem run_dispatch {ds rest : List Draw} (ha : s.answers ds rest before.length) :
    cycleRun e s = (dispatch e f >>= fun _ =>
        cycleBlocks e row s.cyclePayload (cipHeader s.cyclePayload).syt s.arg2 (k / row.blk) (n / row.blk) >>=
          fun _ => pure .success)
      ((s.told before rest).modDvr e fun _ => d.fillFrame f (s.cycleBytes.take n)) := by
  have hd : ((s.told before rest).modDvr e fun _ => d.fillFrame f (s.cycleBytes.take n)).dvr e =
      d.fillFrame f (s.cycleBytes.take n) := dvr_modDvr_same _ _ h.known
  rw [h.feeds.run_valid h.cycle h.known ha h.frame h.fit h.bytes h.pos h.blocks h.full.le, run_bind,
    run_endBlock_complete, run_bind]
  rw [hd, Dvr.frame_fillFrame h.frame_lt, h.length_take]
  exact h.full

variable {ds answers rest : List Draw}
  (ha : s.answers (ds ++ answers) rest (before ++ (s.dvr e).offers e f).length)
  (hds : ds.length = before.length)

include ha hds

/-- The cycle behind the dispatch, whose consumers do nothing in their callbacks. -/
theorem run_dispatched : cycleRun e s =
    (cycleBlocks e row s.cyclePayload (cipHeader s.cyclePayload).syt s.arg2 (k / row.blk) (n / row.blk) >>=
        fun _ => pure .success)
      ((s.told (before ++ (s.dvr e).offers e f) rest).modDvr e fun _ =>
        s.afterDispatch d f n (keptBy answers)) := by
  obtain ⟨htape, hlen, hquiet⟩ := ha
  obtain ⟨-, hcons, -⟩ := h.feeds.records
  have hanswers : answers.length = (s.dvr e).consumers.length := by
    simp only [Dvr.offers, List.length_append, List.length_map, hds] at hlen
    omega
  have hd : ((s.told before (answers ++ rest)).modDvr e fun _ => d.fillFrame f (s.cycleBytes.take n)).dvr e =
      d.fillFrame f (s.cycleBytes.take n) := dvr_modDvr_same _ _ h.known
  have hcons' : (d.fillFrame f (s.cycleBytes.take n)).consumers = (s.dvr e).consumers := hcons
  have hoffers : (d.fillFrame f (s.cycleBytes.take n)).offers e f = (s.dvr e).offers e f := by
    rw [Dvr.offers, hcons', Dvr.offers]
  rw [h.run_dispatch (ds := ds) (rest := answers ++ rest) ⟨by rw [htape, List.append_assoc], hds,
      fun x hx => hquiet x (List.mem_append_left _ hx)⟩, run_bind,
    Machine.run_dispatch (ds := answers) (rest := rest) (by simpa using h.known)
      (by rw [hd]; simpa using h.frame_lt)
      ⟨rfl, by rw [hd, hcons', hanswers], fun x hx => hquiet x (List.mem_append_right _ hx)⟩, hd, hoffers]
  simp only [modDvr_told, modDvr_modDvr, State.told_told]
  rfl

/-- No block is left. -/
theorem run_whole (hk : k = 0) : cycleRun e s = .ok .success
    ((s.told (before ++ (s.dvr e).offers e f) rest).modDvr e fun _ =>
      s.afterDispatch d f n (keptBy answers)) := by
  subst hk
  rw [h.run_dispatched ha hds, Nat.zero_div]
  rfl

/-- The blocks left begin the next frame, which they leave incomplete. -/
theorem run_next {g : Nat} {q : List Nat} (hk : 0 < k)
    (hq : (s.afterDispatch d f n (keptBy answers)).freeQueue = g :: q)
    (hg : g < (s.dvr e).frames.length) (hroom : k < row.frameSize) : cycleRun e s = .ok .success
      ((s.told (before ++ (s.dvr e).offers e f) rest).modDvr e fun _ =>
        ((s.afterDispatch d f n (keptBy answers)).started g q row.frameSize (cipHeader s.cyclePayload).syt
          s.arg2).fillFrame g (s.cycleBytes.drop n)) := by
  have hlen : (s.afterDispatch d f n (keptBy answers)).frames.length = (s.dvr e).frames.length := by
    obtain ⟨-, -, hframes⟩ := h.feeds.records
    rw [State.afterDispatch, Dvr.delivered_length, Dvr.fillFrame_length, hframes]
  have hstart : 8 + n / row.blk * row.blk = 8 + n := by
    rw [Nat.div_mul_cancel (Nat.dvd_of_mod_eq_zero h.blocks)]
  have hp : 8 + n + k ≤ s.cyclePayload.length := by
    have hbytes := h.bytes
    have h8 := h.cycle.data
    rw [State.cyclePayload, readBytes_length]
    omega
  have htake : (s.cyclePayload.drop (8 + n)).take k = s.cycleBytes.drop n := by
    rw [h.cycle.drop_cyclePayload]
    refine List.take_of_length_le ?_
    rw [List.length_drop, State.cycleBytes, readBytes_length, h.bytes]
    omega
  have hnone : (s.afterDispatch d f n (keptBy answers)).currentFrame = none := rfl
  rw [h.run_dispatched ha hds]
  generalize s.afterDispatch d f n (keptBy answers) = y at *
  generalize before ++ (s.dvr e).offers e f = outs at *
  have hd : ((s.told outs rest).modDvr e fun _ => y).dvr e = y := dvr_modDvr_same _ _ h.known
  rw [run_bind, run_cycleBlocks_fillNext _ (by simpa using h.known) (by rw [hd]; exact hnone)
    (by rw [hd]; exact hq) (by rw [hd, hlen]; exact hg) h.fit.blk_pos hk h.left_mod (by rw [hstart]; exact hp)
    hroom, hstart, htake, modDvr_modDvr]
  rfl

/-- The blocks left find no frame free. -/
theorem run_dropped {es rest2 : List Draw} (hk : 0 < k)
    (hq : (s.afterDispatch d f n (keptBy answers)).freeQueue = [])
    (hes : (s.told (before ++ (s.dvr e).offers e f) rest).answers es rest2 (s.dvr e).consumers.length) :
    cycleRun e s = .ok .success
    (((s.told (before ++ (s.dvr e).offers e f) rest).told ((s.dvr e).notices e .frameDropped) rest2).modDvr e
      fun _ => s.afterDispatch d f n (keptBy answers)) := by
  have hcons : (s.afterDispatch d f n (keptBy answers)).consumers = (s.dvr e).consumers := by
    obtain ⟨-, hcons, -⟩ := h.feeds.records
    exact hcons
  have hnone : (s.afterDispatch d f n (keptBy answers)).currentFrame = none := rfl
  rw [h.run_dispatched ha hds]
  generalize s.afterDispatch d f n (keptBy answers) = y at *
  generalize before ++ (s.dvr e).offers e f = outs at *
  have hd : ((s.told outs rest).modDvr e fun _ => y).dvr e = y := dvr_modDvr_same _ _ h.known
  have hnotices : y.notices e .frameDropped = (s.dvr e).notices e .frameDropped := by
    rw [Dvr.notices, hcons, Dvr.notices]
  rw [run_bind, run_cycleBlocks_dropped (ds := es) (rest := rest2) _ (by rw [hd]; exact hnone)
    (by rw [hd]; exact hq) (h.left_blocks hk) (by rw [hd, hcons]; exact hes), hd, hnotices]
  rfl

end

/-- A lone consumer gives the frame back inside its callback; no block is left. -/
theorem run_released (h : s.Completes e row f before d n 0) {c : Draw} {id : Word} {rest : List Draw}
    (hcons : (s.dvr e).consumers = [id]) (hbefore : before = []) (hfits : e ≤ 255) (hword : f < 2 ^ 32)
    (ht : s.tape = c :: rest) (hacts : c.acts = releaseActs e f) (hreset : c.reset = false) :
    cycleRun e s = .ok .success (((s.told [.consumer e id .frameReceived (some f)] rest).modDvr e
      fun _ => s.afterDispatch d f n 0).releaseIssued e f) := by
  subst hbefore
  have hd : (s.modDvr e fun _ => d.fillFrame f (s.cycleBytes.take n)).dvr e =
      d.fillFrame f (s.cycleBytes.take n) := dvr_modDvr_same _ _ h.known
  obtain ⟨-, hsame, -⟩ := h.feeds.records
  rw [h.run_dispatch (ds := []) (rest := s.tape) ⟨rfl, rfl, by simp⟩, State.told_nil rfl, run_bind,
    run_dispatch_released (s := s.modDvr e fun _ => d.fillFrame f (s.cycleBytes.take n)) h.idle.1
      (by simpa using h.known) hfits hword (by rw [hd]; simpa using h.frame_lt) hacts ht hreset
      (by rw [hd]; exact hsame.trans hcons), modDvr_told, modDvr_modDvr, Nat.zero_div]
  rfl

end State.Completes

/-- Settles O40: the frame is complete after the bytes that it still takes, and each way the cycle goes on. -/
theorem cycleDispatchesFrame : Obligations.CycleDispatchesFrame := by
  intro s e f row before d1 ds answers rest hs he d len
  obtain hlen : len = dataLength s.arg0 := toNat_eq_dataLength s.arg0
  clear_value len
  subst hlen
  intro pa h blocks starts left kept outs d2 hrow hcip h8 hin hf hdbs hpos hmod hfeeds hleft hle hblocks
  have hfull : (d1.frame f).currentOffset + left = (d1.frame f).frameLen := by omega
  have hends : ∀ k, dataLength s.arg0 - 8 = left + k → s.Completes e row f before d1 left k := fun k hk =>
    ⟨hs, he, ⟨hrow, hcip, h8, hin⟩, ⟨hdbs, hpos, hmod⟩, hfeeds, hf, hk, hleft, hblocks, hfull⟩
  have hafter : ∀ n, s.afterDispatch d1 f left n = _ := fun n => Dvr.fillFrame_delivered n
    (by rw [(hends _ (Nat.add_sub_of_le hle).symm).length_take]; exact hfull)
  have hd2 : s.afterDispatch d1 f left (keptBy answers) = d2 := hafter kept
  refine ⟨fun hds hanswers ha => ⟨fun hall => ?whole, fun g q hlt hq hg hroom => ?next,
    fun es rest2 hlt hq hes => ?dropped⟩, fun c id hall hcons hbefore hfits hword ht hreset => ?released⟩
  case whole =>
    rw [exec_dvrCycle_ok hs he ((hends 0 hall.symm).run_whole ha hds rfl), hd2]
    rfl
  case next =>
    have hk : dataLength s.arg0 - 8 = left + (dataLength s.arg0 - 8 - left) := by omega
    have hbytes : (s.cycleBytes.drop left).length = dataLength s.arg0 - 8 - left := by
      rw [List.length_drop, State.cycleBytes, readBytes_length]
    have hrun := (hends _ hk).run_next ha hds (Nat.sub_pos_of_lt hlt) (by rw [hd2]; exact hq) hg hroom
    rw [exec_dvrCycle_ok hs he hrun, hd2, Dvr.started_fillFrame, hbytes]
    rfl
  case dropped =>
    have hk : dataLength s.arg0 - 8 = left + (dataLength s.arg0 - 8 - left) := by omega
    have hrun := (hends _ hk).run_dropped ha hds (Nat.sub_pos_of_lt hlt) (by rw [hd2]; exact hq) hes
    rw [exec_dvrCycle_ok hs he hrun, hd2]
    rfl
  case released =>
    have hrun := (hends 0 hall.symm).run_released hcons hbefore hfits hword ht rfl hreset
    have houts : outs = [.consumer e id .frameReceived (some f)] := by
      show before ++ d.consumers.map _ = _
      rw [hbefore, hcons]
      rfl
    rw [exec_dvrCycle_ok hs he hrun, hafter 0, houts]
    rfl

end Sys2Proof.Machine
end

section
/-! PROOF. What DVT_CYCLE and UTX_CYCLE leave unchanged where the clients do nothing in their callbacks (obligation
O59; 44_dv_transmit.md R243, R245, 42_buffer_engine.md R164, R182). `EngKept` already holds of both; what is left to
say is the one cycle buffer that they work on. -/

-- one declaration after another: elaborated side by side, the last declarations of the text add the threads that take
-- the compiler over its memory limit
set_option Elab.async false

namespace Sys2Proof.Machine

variable {e k : Nat} {c : EngSetting} {p : Option DvFormat} {s t : State}

/-! ### What the producer of one cycle buffer leaves -/

/-- What the producer of the cycle buffer `k` of an engine in the setting `c` leaves of the engine's index and of
BUF, where `p` is the format of its blocks: one that has none builds no packet. -/
structure PacketKept (e k : Nat) (c : EngSetting) (p : Option DvFormat) (s t : State) : Prop where
  eng : t.eng e = { s.eng e with slotHdr := (t.eng e).slotHdr, stealCount := (t.eng e).stealCount }
  headers : ∀ j, j ≠ k → sparseGet (t.eng e).slotHdr j = sparseGet (s.eng e).slotHdr j
  stealCount : p = none → (t.eng e).stealCount = (s.eng e).stealCount
  dvt : p = none → t.dvt e = s.dvt e
  dvr : t.dvr e = s.dvr e
  ts : t.ts e = s.ts e
  buf : p = none → t.buf = s.buf
  bytes : ∀ row, p = some row → ∀ a,
    a < c.slotAddr k ∨ c.slotAddr k + (8 + c.blocks.toNat * row.blk) ≤ a → t.readByte a = s.readByte a

theorem packetKept_travels : Travels (PacketKept e k c p) where
  refl s := by constructor <;> intros <;> rfl
  trans a b := {
    eng := by rw [b.eng, a.eng]
    headers := fun j hj => (b.headers j hj).trans (a.headers j hj)
    stealCount := fun h => (b.stealCount h).trans (a.stealCount h)
    dvt := fun h => (b.dvt h).trans (a.dvt h)
    dvr := b.dvr.trans a.dvr
    ts := b.ts.trans a.ts
    buf := fun h => (b.buf h).trans (a.buf h)
    bytes := fun row hrow x hx => (b.bytes row hrow x hx).trans (a.bytes row hrow x hx) }

theorem packetKept_shared : Shared (Quietly (PacketKept e k c p)) :=
  quietly_shared packetKept_travels (fun _ _ => by constructor <;> intros <;> rfl)
    (fun _ _ => by constructor <;> intros <;> rfl) fun _ _ => by constructor <;> intros <;> rfl

theorem packetKept_modDvt (row : DvFormat) (s : State) (g : Dvt → Dvt) :
    PacketKept e k c (some row) s (s.modDvt e g) where
  eng := by simp
  headers _ _ := by simp
  stealCount := nofun
  dvt := nofun
  dvr := by simp
  ts := by simp
  buf := nofun
  bytes _ _ _ _ := rfl

/-- A change of the engine's record in the header of the buffer and STEAL_COUNT. -/
theorem packetKept_modEng (s : State) {g : Eng → Eng}
    (heng : ∀ x, g x = { x with slotHdr := (g x).slotHdr, stealCount := (g x).stealCount })
    (hheaders : ∀ x j, j ≠ k → sparseGet (g x).slotHdr j = sparseGet x.slotHdr j)
    (hsteal : p = none → ∀ x, (g x).stealCount = x.stealCount) : PacketKept e k c p s (s.modEng e g) := by
  by_cases he : e < s.inst.length
  · have hrecord : (s.modEng e g).eng e = g (s.eng e) := eng_modEng_same s g he
    refine ⟨?_, fun j hj => ?_, fun hp => ?_, fun _ => by simp, by simp, by simp, fun _ => rfl,
      fun _ _ _ _ => rfl⟩
    · rw [hrecord]
      exact heng _
    · rw [hrecord]
      exact hheaders _ j hj
    · rw [hrecord]
      exact hsteal hp _
  · rw [modEng_absent he]
    exact packetKept_travels.refl s

/-- Bytes stored within the packet. -/
theorem packetKept_writeBytes {row : DvFormat} (s : State) {off : Nat} {bytes : List Byte}
    (hin : off + bytes.length ≤ 8 + c.blocks.toNat * row.blk) :
    PacketKept e k c (some row) s (s.writeBytes (c.slotAddr k + off) bytes) := by
  refine ⟨rfl, fun _ _ => rfl, nofun, nofun, rfl, rfl, nofun, fun row' hrow a ha => ?_⟩
  cases hrow
  rw [readByte_writeBytes, if_neg (by omega)]

/-! ### Pseudocode that keeps the setting -/

/-- From the setting `c` on the setting stays, whatever the clients do, and where none acts so does what `PacketKept`
names. -/
def Transmits (e k : Nat) (c : EngSetting) (p : Option DvFormat) (s t : State) : Prop :=
  s.setting e = c → SameSetting e s t ∧ Quietly (PacketKept e k c p) s t

theorem transmits_travels : Travels (Transmits e k c p) where
  refl s _ := ⟨rfl, packetKept_shared.refl s⟩
  trans a b hs := by
    obtain ⟨hset, hkept⟩ := a hs
    obtain ⟨hset', hkept'⟩ := b (hset.trans hs)
    exact ⟨hset'.trans hset, packetKept_shared.trans hkept hkept'⟩

theorem transmits_shared : Shared (Transmits e k c p) where
  toTravels := transmits_travels
  takeFault s f _ := ⟨sameSetting_calls.takeFault s f, packetKept_shared.takeFault s f⟩
  draw s _ := ⟨sameSetting_calls.shared.draw s, packetKept_shared.draw s⟩
  request o s _ := ⟨sameSetting_calls.shared.request o s, packetKept_shared.request o s⟩
  callback o s _ := ⟨sameSetting_calls.shared.callback o s, packetKept_shared.callback o s⟩

section

variable {α β : Type}

theorem transmits_bind {m : M α} {n : α → M β} (hm : Leads (Transmits e k c p) m)
    (hn : ∀ a, Leads (Transmits e k c p) (n a)) : Leads (Transmits e k c p) (m >>= n) :=
  leads_bind transmits_travels hm hn

theorem transmits_pure (a : α) : Leads (Transmits e k c p) (pure a : M α) := leads_pure transmits_travels a

/-- What is read of the engine and of its transmitter has the setting. -/
theorem transmits_getEng {n : Eng → M α} (hn : ∀ g, c.HasEng g → Leads (Transmits e k c p) (n g)) :
    Leads (Transmits e k c p) (getEng e >>= n) := fun s hs => by
  rw [run_bind, run_getEng]
  exact hn _ (State.hasEng hs) s hs

theorem transmits_getDvt {n : Dvt → M α} (hn : ∀ d, c.HasDvt d → Leads (Transmits e k c p) (n d)) :
    Leads (Transmits e k c p) (getDvt e >>= n) := fun s hs => by
  rw [run_bind, run_getDvt]
  exact hn _ (State.hasDvt hs) s hs

theorem transmits_memRead {a n : Nat} {m : List Byte → M α}
    (hm : ∀ b : List Byte, b.length = n → Leads (Transmits e k c p) (m b)) :
    Leads (Transmits e k c p) (memRead a n >>= m) := fun s => by
  rw [run_bind]
  by_cases h : a + n ≤ s.par.bufBytes
  · rw [run_memRead_ok h]
    exact hm _ (readBytes_length s a n) s
  · rw [run_memRead_bad h]
    exact transmits_shared.takeFault s _

end

theorem transmits_setSlotHdr (w : Word) : Leads (Transmits e k c p) (modEng e (·.setSlotHdr k w)) := by
  refine fun s _ => ⟨setting_modEng (g := (·.setSlotHdr k w)) s e fun _ => rfl, quietly_of_same ?_ rfl rfl⟩
  refine packetKept_modEng (g := (·.setSlotHdr k w)) s (fun _ => rfl) (fun x j hj => ?_) fun _ _ => rfl
  exact (sparseGet_set x.slotHdr k w j).trans (if_neg hj)

/-- UTX_CYCLE (42_buffer_engine.md R182): its client fills the buffer. -/
theorem transmits_utxCycle (k : Nat) : Leads (Transmits e k c none) (utxCycle e k) :=
  transmits_getEng fun _ _ => leads_ite (transmits_pure _) <|
    transmits_bind (transmits_shared.callback _) fun _ => leads_ite (transmits_shared.part (.raise _)) <|
      transmits_bind (transmits_setSlotHdr _) fun _ => transmits_pure _

/-! ### DVT_CYCLE (44_dv_transmit.md R242 to R249) -/

section

variable {row : DvFormat}

theorem transmits_modDvt {g : Dvt → Dvt}
    (hg : ∀ x, (g x).dvMode = x.dvMode ∧ (g x).blocksPerCycle = x.blocksPerCycle) :
    Leads (Transmits e k c (some row)) (modDvt e g) :=
  fun s _ => ⟨setting_modDvt s hg, quietly_of_same (packetKept_modDvt row s g) rfl rfl⟩

theorem transmits_stolen : Leads (Transmits e k c (some row)) (modEng e Eng.stolen) :=
  fun s _ => ⟨setting_modEng s e fun _ => rfl,
    quietly_of_same (packetKept_modEng s (fun _ => rfl) (fun _ _ _ => rfl) nofun) rfl rfl⟩

theorem transmits_memWrite {off : Nat} {bytes : List Byte}
    (hin : off + bytes.length ≤ 8 + c.blocks.toNat * row.blk) :
    Leads (Transmits e k c (some row)) (memWrite (c.slotAddr k + off) bytes) := fun s => by
  by_cases h : c.slotAddr k + off + bytes.length ≤ s.par.bufBytes
  · rw [run_memWrite_ok h]
    exact fun _ => ⟨rfl, quietly_of_same (packetKept_writeBytes s hin) rfl rfl⟩
  · rw [run_memWrite_bad h]
    exact transmits_shared.takeFault s _

theorem transmits_dropRefs : ∀ fs : List Nat, Leads (Transmits e k c (some row)) (dropRefs e fs)
  | [] => transmits_pure ()
  | f :: fs => by
    have hrelease : Leads (Transmits e k c (some row)) (releaseFrame e f) :=
      transmits_bind (transmits_modDvt fun _ => ⟨rfl, rfl⟩) fun _ => transmits_shared.part (.notify _)
    exact transmits_bind (transmits_modDvt fun _ => ⟨rfl, rfl⟩) fun _ => transmits_getDvt fun _ _ =>
      leads_ite (transmits_bind hrelease fun _ => transmits_dropRefs fs) (transmits_dropRefs fs)

theorem transmits_releaseSlotRefs : Leads (Transmits e k c (some row)) (releaseSlotRefs e k) :=
  transmits_getDvt fun _ _ => transmits_bind (transmits_dropRefs _) fun _ => transmits_modDvt fun _ => ⟨rfl, rfl⟩

theorem transmits_pullFrame : Leads (Transmits e k c (some row)) (pullFrame e row) :=
  transmits_bind (transmits_shared.callback _) fun _ => transmits_bind (transmits_shared.part .getPar) fun _ =>
    transmits_getDvt fun _ _ => leads_ite (transmits_pure _) <|
      transmits_bind (transmits_modDvt fun _ => ⟨rfl, rfl⟩) fun _ => transmits_pure _

theorem Dvt.blockCopied_config (d : Dvt) (k f blk len : Nat) :
    (d.blockCopied k f blk len).dvMode = d.dvMode ∧
      (d.blockCopied k f blk len).blocksPerCycle = d.blocksPerCycle := by
  unfold Dvt.blockCopied Dvt.addRef
  dsimp only
  split <;> split <;> exact ⟨rfl, rfl⟩

/-- Block `nb` of the `BLOCKS_PER_CYCLE` of a packet lies within it. -/
theorem transmits_copyOut {nb : Nat} (hnb : nb < c.blocks.toNat) (f : Nat) :
    Leads (Transmits e k c (some row)) (copyOut e k row nb f) := by
  have hin : 8 + nb * row.blk + row.blk ≤ 8 + c.blocks.toNat * row.blk := by
    have := Nat.mul_le_mul_right row.blk (Nat.succ_le_of_lt hnb)
    rw [Nat.succ_mul] at this
    omega
  refine transmits_getEng fun g hg => transmits_getDvt fun _ _ => transmits_memRead fun bytes hlen =>
    transmits_bind ?_ fun _ => transmits_modDvt fun d => d.blockCopied_config k f _ _
  rw [hg.slotAddr, Nat.add_assoc]
  exact transmits_memWrite (hlen ▸ hin)

theorem transmits_fillSlot (n nb : Nat) (syt : Half) (hnb : nb + n ≤ c.blocks.toNat) :
    Leads (Transmits e k c (some row)) (fillSlot e k row n nb syt) := by
  induction n generalizing nb syt with
  | zero => exact transmits_pure _
  | succ n ih =>
    have hblock : ∀ f syt, Leads (Transmits e k c (some row))
        (copyOut e k row nb f >>= fun _ => fillSlot e k row n (nb + 1) syt) := fun f syt =>
      transmits_bind (transmits_copyOut (by omega) f) fun _ => ih _ syt (by omega)
    refine transmits_getDvt fun d _ => ?_
    cases d.curFrame with
    | some f => exact hblock f syt
    | none =>
      refine transmits_bind transmits_pullFrame fun _ =>
        leads_ite (transmits_getDvt fun d' _ => ?_) (transmits_pure _)
      cases d'.curFrame with
      | some f => exact hblock f _
      | none => exact transmits_pure _

theorem transmits_writeHeader (nb : Nat) (syt : Half) :
    Leads (Transmits e k c (some row)) (writeHeader e k row nb syt) := by
  refine transmits_getEng fun g hg => transmits_getDvt fun d _ =>
    transmits_bind ?_ fun _ => transmits_setSlotHdr _
  rw [hg.slotAddr]
  exact transmits_memWrite (off := 0) (by simp [be32Bytes])

theorem transmits_finishPacket (steal : Bool) (a : Nat × Half) :
    Leads (Transmits e k c (some row)) (finishPacket e k row steal a) := by
  have hsend : Leads (Transmits e k c (some row)) (sendPacket e k row a.1 a.2) :=
    transmits_bind (transmits_writeHeader _ _) fun _ =>
      transmits_bind (transmits_modDvt fun _ => ⟨rfl, rfl⟩) fun _ => transmits_getDvt fun _ _ =>
        transmits_bind (leads_addCycles transmits_shared _ _) fun _ =>
          transmits_bind (transmits_modDvt fun _ => ⟨rfl, rfl⟩) fun _ => transmits_pure _
  exact leads_ite (transmits_bind transmits_stolen fun _ => hsend) hsend

theorem transmits_dvtPacket (data steal : Bool) {d : Dvt} (hd : c.HasDvt d) :
    Leads (Transmits e k c (some row)) (dvtPacket e k row data steal d) :=
  leads_ite (transmits_bind (transmits_fillSlot _ 0 _ (by rw [hd.blocks, Nat.zero_add])) fun _ =>
    transmits_finishPacket _ _) (transmits_finishPacket _ _)

end

/-- The blocks of a DVT_CYCLE have the format of the setting's mode. -/
theorem transmits_dvtCycle (k : Nat) :
    Leads (Transmits e k c (c.par.dvRow c.dvMode)) (dvtCycle e k) := fun s hs => by
  have hrow : c.par.dvRow c.dvMode = s.par.dvRow (s.dvt e).dvMode := by rw [← hs]; rfl
  rw [dvtCycle_eq, run_bind, run_getState, hrow]
  dsimp only
  refine leads_ite (transmits_pure _) ?_ s hs
  cases s.par.dvRow (s.dvt e).dvMode with
  | none => exact transmits_pure _
  | some row =>
    exact transmits_bind transmits_releaseSlotRefs fun _ => transmits_getDvt fun d hd =>
      transmits_getEng fun _ _ => transmits_dvtPacket _ _ hd

/-! ### The commands -/

/-- The two states agree but for RES0, STATUS and the registers of a fault. -/
def State.EndsAs (u t : State) : Prop := ∃ r b f h i,
  t = { u with res0 := r, status := b, faults := f, halted := h, faultInfo := i }

section

variable {i : Instr} {produce : Nat → M (Status × Nat)}

/-- A command that no reset cuts short changes only its registers behind its pseudocode. -/
theorem endsAs_endCommand_producerBody (h : ∀ t, produce s.arg0.toNat s ≠ .error .reset t) :
    (finalState (produce s.arg0.toNat s)).EndsAs (endCommand (producerBody produce s)) := by
  rw [producerBody, run_bind, run_getState]
  dsimp only
  rw [run_bind]
  cases hr : produce s.arg0.toNat s with
  | ok a t =>
    dsimp only
    rw [run_ite]
    split <;> exact ⟨_, _, _, _, _, rfl⟩
  | error r t =>
    cases r with
    | fault => exact ⟨_, _, _, _, _, rfl⟩
    | reset => exact absurd hr (h t)

/-- A producer command whose clients do nothing either refuses or runs its pseudocode to the end; beyond that it
changes its registers only. -/
theorem ProducerCommand.endsAs (h : ProducerCommand e i produce) (ht : exec i s = .next t) (hq : s.quietTo t) :
    s.EndsAs t ∨
      (finalState (produce s.arg0.toNat s)).EndsAs t ∧ Calm s (finalState (produce s.arg0.toNat s)) := by
  have hcalm := (h.exec_tapeLaw ht).calm hq
  rw [h.exec_eq] at ht
  by_cases hhalt : s.halted = true
  · rw [asCommand_halted hhalt] at ht
    cases ht
    exact .inl ⟨_, _, _, _, _, rfl⟩
  rw [Bool.not_eq_true] at hhalt
  by_cases hinst : s.hasInstance i = true
  · by_cases hnest : s.inCallback = 0 ∨ nestable i = true
    · rw [asCommand_run hhalt hinst hnest] at ht
      cases ht
      have hreach : (finalState (produce s.arg0.toNat s)).reach ≤ s.reach :=
        (reach_endCommand_producerBody s).ge.trans hcalm.reach
      exact .inr ⟨endsAs_endCommand_producerBody ((h.producer _).steady hcalm.portOnly hreach).noReset,
        hcalm.quiet, hreach⟩
    · obtain ⟨hcall, hnot⟩ := not_or.mp hnest
      rw [asCommand_reentrant hhalt hinst (Nat.pos_of_ne_zero hcall) (by simpa using hnot)] at ht
      cases ht
      exact .inl ⟨_, _, _, _, _, rfl⟩
  · rw [asCommand_noInstance hhalt (by simpa using hinst)] at ht
    cases ht
    exact .inl ⟨_, _, _, _, _, rfl⟩

/-- What a producer command leaves, up to its registers. -/
theorem ProducerCommand.packetKept (h : ProducerCommand e i produce)
    (hworks : ∀ k, Works e (s.setting e) (produce k))
    (hsends : ∀ k, Leads (Transmits e k (s.setting e) p) (produce k))
    (ht : exec i s = .next t) (hq : s.quietTo t) : ∃ u : State, u.EndsAs t ∧ StepKept e s u ∧
      PacketKept e s.arg0.toNat (s.setting e) p s u := by
  rcases h.endsAs ht hq with hend | ⟨hend, hcalm⟩
  · exact ⟨s, hend, stepKept_refl s, packetKept_travels.refl s⟩
  · have hends := hworks s.arg0.toNat s rfl
    obtain ⟨-, hquiet⟩ := hsends s.arg0.toNat s rfl
    exact ⟨_, hend, ⟨hends.kept hcalm, hends.setting⟩, hquiet.frame hcalm⟩

end

/-- Settles O59: each of the two works on the cycle buffer ARG0 alone, and builds a packet in it only as a
DVT_CYCLE in a mode that has a format. -/
theorem transmitFrame : Obligations.TransmitFrame := by
  intro i s t e hi ht hq k
  have hkept : ∃ (p : Option DvFormat) (u : State),
      (u.EndsAs t ∧ StepKept e s u ∧ PacketKept e k (s.setting e) p s u) ∧
        (i = .utxCycle e → p = none) ∧ (i ≠ .utxCycle e → p = s.par.dvRow (s.dvt e).dvMode) := by
    simp only [List.mem_cons, List.not_mem_nil, or_false] at hi
    rcases hi with rfl | rfl
    · obtain ⟨u, hu⟩ := (dvtCycle_command e).packetKept works_dvtCycle transmits_dvtCycle ht hq
      exact ⟨_, u, hu, nofun, fun _ => rfl⟩
    · obtain ⟨u, hu⟩ := (utxCycle_command e).packetKept works_utxCycle transmits_utxCycle ht hq
      exact ⟨_, u, hu, fun _ => rfl, fun hne => absurd rfl hne⟩
  obtain ⟨p, u, ⟨⟨_, _, _, _, _, rfl⟩, ⟨hstep, hset⟩, hpacket⟩, hutx, hdvt⟩ := hkept
  have hnone : i = .utxCycle e ∨ s.par.dvRow (s.dvt e).dvMode = none → p = none := by
    rintro (hi | hrow)
    · exact hutx hi
    · by_cases hi : i = .utxCycle e
      · exact hutx hi
      · rw [hdvt hi, hrow]
  have hres : (u.res1, u.res2, u.res3) = (s.res1, s.res2, s.res3) := congrArg Prod.snd hstep.results
  refine ⟨fun hi => hpacket.buf (hnone hi), fun row a hrow ha => ?bytes, hstep.wire,
    congrArg EngSetting.par hset, hstep.cmd, hstep.regions, hstep.args, hres, hstep.inCallback,
    congrArg EngSetting.instances hset, hstep.others, hpacket.dvr, hpacket.ts, hpacket.eng, hpacket.headers,
    fun hi => ⟨hpacket.dvt (hutx hi), hpacket.stealCount (hutx hi)⟩⟩
  by_cases hi : i = .utxCycle e
  · exact congrArg (fun m => (State.readByte { s with buf := m } a)) (hpacket.buf (hutx hi))
  · exact hpacket.bytes row ((hdvt hi).trans hrow) a ha

end Sys2Proof.Machine
end

section
/-! PROOF. Every step keeps the buffer-conservation law (obligation O53; 45_ts_demux.md R293). Each change of a
stream, a buffer or a free queue keeps it; `keepsEvery_moves` carries it over a step. -/

namespace Sys2Proof.Machine

/-! ### Reset (10_state.md R36) -/

/-- The video buffers come first, then as many of audio; an id beyond the store reads as the reset record. -/
theorem Ts.buf_reset (p : Params) (b : Nat) : (Ts.reset p).buf b =
    PesBuf.reset (if p.pesPoolInit ≤ b ∧ b < 2 * p.pesPoolInit then .audio else .video) := by
  have hbufs : (Ts.reset p).bufs = List.replicate p.pesPoolInit (PesBuf.reset .video) ++
      List.replicate p.pesPoolInit (PesBuf.reset .audio) := rfl
  rw [Ts.buf, hbufs, List.getD_eq_getElem?_getD, List.getElem?_append, List.length_replicate,
    List.getElem?_replicate, List.getElem?_replicate]
  by_cases hvideo : b < p.pesPoolInit
  · rw [if_pos hvideo, if_pos hvideo, if_neg (by omega)]
    rfl
  · by_cases haudio : b < 2 * p.pesPoolInit
    · rw [if_neg hvideo, if_pos (by omega), if_pos (by omega)]
      rfl
    · rw [if_neg hvideo, if_neg (by omega), if_neg (by omega)]
      rfl

/-- After reset every buffer is Free, the queue of its type holds it once, and no stream has one. -/
theorem Ts.law_reset (p : Params) : (Ts.reset p).law := by
  have hlen : (Ts.reset p).nextPesId = 2 * p.pesPoolInit := by
    simp [Ts.nextPesId, Ts.reset, Nat.two_mul]
  have hfree : ∀ b, ((Ts.reset p).buf b).state = .free := fun b => by rw [Ts.buf_reset]; rfl
  intro y
  refine ⟨?nodup, fun b => ?queue, fun b => ?current⟩
  case nodup =>
    cases y with
    | video => exact List.nodup_range
    | audio => exact List.nodup_range.map fun _ _ h => Nat.add_right_cancel h
  case queue =>
    rw [hlen, hfree, Ts.buf_reset]
    cases y with
    | video =>
      have hmem : b ∈ (Ts.reset p).pesFree .video ↔ b < p.pesPoolInit := List.mem_range
      rw [hmem, PesBuf.reset]
      split <;> simp <;> omega
    | audio =>
      have hmem : b ∈ (Ts.reset p).pesFree .audio ↔ p.pesPoolInit ≤ b ∧ b < 2 * p.pesPoolInit := by
        simp only [Ts.reset, Ts.pesFree, List.mem_map, List.mem_range]
        exact ⟨fun ⟨a, ha, hab⟩ => by omega, fun ⟨hlow, hhigh⟩ => ⟨b - p.pesPoolInit, by omega, by omega⟩⟩
      rw [hmem, PesBuf.reset]
      split <;> simp <;> omega
  case current =>
    have hcur : ((Ts.reset p).stream y).curBuf = none := by cases y <;> rfl
    rw [hcur, hfree]
    simp

/-! ### Writes to the registers of the unit (47_control.md R303) -/

/-- A CSR_WRITE changes registers of the unit, which the law does not read, and resets streams (R290). -/
theorem Csr.pesLaw_store {x : Inst} (c : Csr) (w : Word) (hx : x.ts.law) : (c.store x w).ts.law := by
  have hregisters : ∀ {u : Ts}, u.video = x.ts.video → u.audio = x.ts.audio → u.bufs = x.ts.bufs →
      u.pesFreeV = x.ts.pesFreeV → u.pesFreeA = x.ts.pesFreeA → u.law :=
    fun hv ha hb hfv hfa => Ts.law_registers hx hv ha hb hfv hfa
  cases c with
  | tsMode =>
    have hmode : ({ x.ts with mode := w.setWidth 4 } : Ts).law := hregisters rfl rfl rfl rfl rfl
    simp only [Csr.store]
    split
    · exact hmode
    · exact Ts.law_resetStream (Ts.law_resetStream hmode _) _
  | tsVideoPid =>
    have hpid : ({ x.ts with videoPid := PidReg.ofWord w } : Ts).law := hregisters rfl rfl rfl rfl rfl
    simp only [Csr.store]
    split
    · exact hpid
    · exact Ts.law_resetStream hpid _
  | tsAudioPid =>
    have hpid : ({ x.ts with audioPid := PidReg.ofWord w } : Ts).law := hregisters rfl rfl rfl rfl rfl
    simp only [Csr.store]
    split
    · exact hpid
    · exact Ts.law_resetStream hpid _
  | tsPmtPid | tsPsiTimeout => exact hregisters rfl rfl rfl rfl rfl
  | _ => exact hx

/-! ### Every move of a step -/

theorem pesLaw_moves : InstMoves (·.ts.law) where
  reset := Ts.law_reset
  dvt _ _ _ := id
  engSame _ _ _ := id
  engMove _ _ _ := id
  abandonFrame _ _ _ := id
  beginFrame _ _ _ _ _ _ _ _ := id
  fillFrame _ _ _ _ := id
  dispatchFrame _ _ _ := id
  dropReference _ _ := id
  endDispatch _ _ := id
  release _ _ _ _ := id
  register _ _ := id
  lawful x _ hg := hg x.ts
  allocCurrent _ _ hc h := Ts.law_allocCurrent h hc
  deliverBuf _ _ _ hc h := Ts.law_deliverBuf h hc
  releaseBuf _ _ hi hs h := Ts.law_releaseBuf h hi hs
  csrStore _ c w _ := Csr.pesLaw_store c w

/-- Settles O53: the buffer-conservation law of one TS instance is kept by every move, and so by every step. -/
theorem stepKeepsPesLaw : Obligations.StepKeepsPesLaw :=
  fun _ _ hlaw hstep => step_moves (keepsEvery_moves pesLaw_moves) hstep hlaw

end Sys2Proof.Machine
end

section
/-! PROOF. CSR_WRITE of VIDEO_PID, AUDIO_PID and MODE (obligation O20; 45_ts_demux.md R290), and TS_RELEASE_PES
with what a client observes of what it holds (obligation O52; 45_ts_demux.md R289, 20_memory.md R63). -/

namespace Sys2Proof.Machine

/-! ### A stream's reset (R290) -/

/-- A stream that starts afresh; its current buffer stays. -/
def Stream.wiped (x : Stream) : Stream :=
  { x with foundFirst := false, streamCont := none, truncated := false, pesPacketPos := 0 }

/-- A store of buffers in which the current buffer of the stream is empty. -/
def Stream.emptied (x : Stream) (bufs : List PesBuf) : List PesBuf :=
  match x.curBuf with
  | some b => bufs.set b { bufs.getD b (PesBuf.reset .video) with pesBufLen := 0 }
  | none => bufs

theorem Stream.emptied_length (x : Stream) (bufs : List PesBuf) : (x.emptied bufs).length = bufs.length := by
  unfold Stream.emptied
  split
  · exact List.length_set
  · rfl

/-- No other buffer is touched. -/
theorem Stream.emptied_getD (x : Stream) (bufs : List PesBuf) (b : Nat) :
    (x.emptied bufs).getD b (PesBuf.reset .video) =
      if x.curBuf = some b ∧ b < bufs.length then { bufs.getD b (PesBuf.reset .video) with pesBufLen := 0 }
      else bufs.getD b (PesBuf.reset .video) := by
  unfold Stream.emptied
  cases hc : x.curBuf with
  | none => simp
  | some c =>
    simp only [List.getD_eq_getElem?_getD, List.getElem?_set, Option.some.injEq]
    by_cases hcb : c = b
    · subst hcb
      by_cases hlt : c < bufs.length <;> simp [hlt]
    · simp [hcb]

theorem Ts.emptyCurrent_eq (t : Ts) (y : StreamType) :
    t.emptyCurrent y = { t with bufs := (t.stream y).emptied t.bufs } := by
  unfold Ts.emptyCurrent Stream.emptied
  cases (t.stream y).curBuf <;> rfl

theorem Ts.resetStream_video (t : Ts) :
    t.resetStream .video = { t with video := t.video.wiped, bufs := t.video.emptied t.bufs } := by
  rw [Ts.resetStream, Ts.emptyCurrent_eq]
  rfl

theorem Ts.resetStream_audio (t : Ts) :
    t.resetStream .audio = { t with audio := t.audio.wiped, bufs := t.audio.emptied t.bufs } := by
  rw [Ts.resetStream, Ts.emptyCurrent_eq]
  rfl

/-! ### The writes (47_control.md R302, R303) -/

section

variable {s : State} {i n : Nat} {c : Csr}

/-- A write to a register of the unit that takes every value at any time. -/
theorem exec_csrWrite_ts (hs : s.idle) (hi : i < s.inst.length) (hc : csrAt 6 n = some c) (hrw : c.access = .rw)
    (hl : c.legal s.par (s.instAt i) (s.arg0 &&& c.mask) = true) {g : Ts → Ts}
    (hg : c.store (s.instAt i) s.arg0 = { s.instAt i with ts := g (s.ts i) }) :
    exec (.csrWrite 6 i n) s = .next { s.modTs i g with status := 0x00 } := by
  rw [exec_csrWrite_allowed hs hi hc (Csr.writable_rw hrw) hl, hg]
  rfl

/-- A write of what the register holds (R303). -/
theorem exec_csrWrite_unchanged (hs : s.idle) (hi : i < s.inst.length) (hc : csrAt 6 n = some c)
    (hrw : c.access = .rw) (hl : c.legal s.par (s.instAt i) (s.arg0 &&& c.mask) = true)
    (hg : c.store (s.instAt i) s.arg0 = s.instAt i) :
    exec (.csrWrite 6 i n) s = .next { s with status := 0x00 } := by
  rw [exec_csrWrite_ts hs hi hc hrw hl (g := id) hg, modTs_self s i id rfl]

end

section

variable {x : Inst} {w : Word}

theorem Csr.store_videoPid_same (h : x.ts.videoPid = PidReg.ofWord w) : Csr.store x w .tsVideoPid = x := by
  simp only [Csr.store]
  rw [if_pos h, ← h]

theorem Csr.store_audioPid_same (h : x.ts.audioPid = PidReg.ofWord w) : Csr.store x w .tsAudioPid = x := by
  simp only [Csr.store]
  rw [if_pos h, ← h]

theorem Csr.store_videoPid_new (h : x.ts.videoPid ≠ PidReg.ofWord w) :
    Csr.store x w .tsVideoPid = { x with ts := { x.ts with
      videoPid := PidReg.ofWord w, video := x.ts.video.wiped, bufs := x.ts.video.emptied x.ts.bufs } } := by
  simp only [Csr.store]
  rw [if_neg h, Ts.resetStream_video]

theorem Csr.store_audioPid_new (h : x.ts.audioPid ≠ PidReg.ofWord w) :
    Csr.store x w .tsAudioPid = { x with ts := { x.ts with
      audioPid := PidReg.ofWord w, audio := x.ts.audio.wiped, bufs := x.ts.audio.emptied x.ts.bufs } } := by
  simp only [Csr.store]
  rw [if_neg h, Ts.resetStream_audio]

/-- Bit 1 of MODE is `partialDemux` (10_state.md R34). -/
theorem Ts.partialDemux_setMode (t : Ts) (w : Word) :
    ({ t with mode := w.setWidth 4 } : Ts).partialDemux = w.getLsbD 1 := by
  simp [Ts.partialDemux]

theorem Csr.store_mode_same (h : w.getLsbD 1 = x.ts.partialDemux) :
    Csr.store x w .tsMode = { x with ts := { x.ts with mode := w.setWidth 4 } } := by
  simp only [Csr.store]
  rw [if_pos (by rw [Ts.partialDemux_setMode, h])]

theorem Csr.store_mode_new (h : w.getLsbD 1 ≠ x.ts.partialDemux) :
    Csr.store x w .tsMode = { x with ts := { x.ts with
      mode := w.setWidth 4, video := x.ts.video.wiped, audio := x.ts.audio.wiped
      bufs := x.ts.audio.emptied (x.ts.video.emptied x.ts.bufs) } } := by
  simp only [Csr.store]
  rw [if_neg (by rw [Ts.partialDemux_setMode]; exact h.symm), Ts.resetStream_audio, Ts.resetStream_video]

end

/-- Settles O20: the store of each of the three registers, with the streams that it resets written out. -/
theorem pidWriteResetsStream : Obligations.PidWriteResetsStream := by
  intro s i hs hi d new wiped emptied
  have hemptied : ∀ (x : Stream) (bufs : List PesBuf), emptied x bufs (x.emptied bufs) := fun x bufs =>
    ⟨x.emptied_length bufs, x.emptied_getD bufs⟩
  refine ⟨fun hsame => ?videoSame, fun hsame => ?audioSame, fun hnew => ⟨_, hemptied d.video d.bufs, ?video⟩,
    fun hnew => ⟨_, hemptied d.audio d.bufs, ?audio⟩, fun hsame => ?modeSame,
    fun hnew => ⟨_, _, hemptied d.video d.bufs, hemptied d.audio _, ?mode⟩⟩
  case videoSame =>
    exact exec_csrWrite_unchanged (c := .tsVideoPid) hs hi rfl rfl rfl (Csr.store_videoPid_same hsame)
  case audioSame =>
    exact exec_csrWrite_unchanged (c := .tsAudioPid) hs hi rfl rfl rfl (Csr.store_audioPid_same hsame)
  case video =>
    exact exec_csrWrite_ts (c := .tsVideoPid) hs hi rfl rfl rfl (Csr.store_videoPid_new hnew)
  case audio =>
    exact exec_csrWrite_ts (c := .tsAudioPid) hs hi rfl rfl rfl (Csr.store_audioPid_new hnew)
  case modeSame =>
    exact exec_csrWrite_ts (c := .tsMode) hs hi rfl rfl rfl (Csr.store_mode_same hsame)
  case mode =>
    exact exec_csrWrite_ts (c := .tsMode) hs hi rfl rfl rfl (Csr.store_mode_new hnew)

/-! ### TS_RELEASE_PES (R289) -/

/-- The bytes that are listed are read back, whatever an unlisted one reads as. -/
theorem getElem?_map_range_sparse {m : Mem} {n : Nat} {open_ : Nat → Byte} {j : Nat} {v : Byte} (hj : j < n)
    (hv : sparseGet m j = some v) :
    ((List.range n).map fun k => (sparseGet m k).getD (open_ k))[j]? = some v := by
  simp [hj, hv]

/-- What a client observes of a PES buffer that is Delivered (20_memory.md R63). -/
theorem State.pesData_delivered {s : State} {e id : Nat} (hid : id < (s.ts e).bufs.length)
    (hstate : ((s.ts e).buf id).state = .delivered) :
    s.pesData e id = (List.range ((s.ts e).buf id).pesBufLen).map fun j =>
      (sparseGet ((s.ts e).buf id).data j).getD (Config.pesByte s.epoch e id j) := by
  have hget : (s.ts e).bufs[id]? = some ((s.ts e).buf id) := by
    simp [Ts.buf, hid]
  simp only [State.pesData, hget, hstate, if_true]

/-- What a client observes of a Dispatched frame to which it holds a reference (R63). -/
theorem State.frameData_dispatched {s : State} {e f : Nat} (hf : f < (s.dvr e).frames.length)
    (hstate : ((s.dvr e).frame f).state = .dispatched) :
    s.frameData e f true = (List.range ((s.dvr e).frame f).frameLen).map fun j =>
      (sparseGet ((s.dvr e).frame f).data j).getD (Config.frameByte s.epoch e f j) := by
  have hget : (s.dvr e).frames[f]? = some ((s.dvr e).frame f) := by
    simp [Dvr.frame, hf]
  simp only [State.frameData, hget, hstate, and_self, if_true]

theorem run_tsReleasePes (s : State) (e : Nat) : tsReleasePesBody e s =
    if (s.ts e).nextPesId ≤ s.arg0.toNat ∨ ((s.ts e).buf s.arg0.toNat).state ≠ .delivered then
      .ok (some .badArgument) s
    else .ok (some .success) (s.modTs e (·.releaseBuf s.arg0.toNat)) := by
  rw [tsReleasePesBody, run_bind, run_getState]
  dsimp only
  rw [run_ite, run_ite, run_answer, run_bind, run_modTs]
  by_cases hid : (s.ts e).nextPesId ≤ s.arg0.toNat
  · rw [if_pos hid, if_pos (.inl hid)]
  · by_cases hheld : ((s.ts e).buf s.arg0.toNat).state ≠ .delivered
    · rw [if_neg hid, if_pos hheld, if_pos (.inr hheld)]
    · rw [if_neg hid, if_neg hheld, if_neg (not_or.mpr ⟨hid, hheld⟩)]
      rfl

/-- TS_RELEASE_PES may run inside a callback (60_exceptions.md R319). -/
theorem exec_tsReleasePes {s : State} {e : Nat} (hhalt : s.halted = false) (he : e < s.inst.length) :
    exec (.tsReleasePes e) s = .next (endCommand (tsReleasePesBody e s)) :=
  asCommand_run_instance rfl hhalt he (.inr rfl)

/-- Settles O52: the two observations, and TS_RELEASE_PES with its one refusal. -/
theorem releasePesResult : Obligations.ReleasePesResult := by
  refine ⟨?pes, ?frame, ?release⟩
  case pes =>
    intro s e id hid r hstate
    rw [State.pesData_delivered hid hstate]
    exact ⟨by simp [r], fun j v hj hv => getElem?_map_range_sparse hj hv⟩
  case frame =>
    intro s e f hf r hstate
    rw [State.frameData_dispatched hf hstate]
    exact ⟨by simp [r], fun j v hj hv => getElem?_map_range_sparse hj hv⟩
  case release =>
    intro s e hhalt he d id
    rw [exec_tsReleasePes hhalt he, run_tsReleasePes]
    refine congrArg Host.Outcome.next ?_
    by_cases hbad : d.bufs.length ≤ id ∨ (d.buf id).state ≠ .delivered
    · rw [if_pos hbad]
      exact congrArg endCommand (if_pos hbad)
    · rw [if_neg hbad]
      exact congrArg endCommand (if_neg hbad)

end Sys2Proof.Machine
end

section
/-! PROOF. What the demultiplexer's pseudocode does where the clients do nothing in their callbacks
(45_ts_demux.md R271 to R288). The changes of a TS record have a normal form, its buffers changed before its
streams; each piece of the pseudocode has one equation for each of its cases, and TS_PACKET is the piece of the
packet's class between the count of the packet and the PSI watchdog. -/

namespace Sys2Proof.Machine

/-! ### Changes of the record, one after another -/

/-- The count of packets since the last callback starts again at `n`. -/
def Ts.recount (t : Ts) (n : Word) : Ts := { t with pktSinceCb := n }

section

variable (t : Ts) (y z : StreamType) (b : Nat) (q : List Nat) (n m : Word) (g h : Stream → Stream)
  (f k : PesBuf → PesBuf)

@[simp] theorem Ts.modStream_modStream :
    (t.modStream y g).modStream y h = t.modStream y (fun x => h (g x)) := by cases y <;> rfl

@[simp] theorem Ts.modBuf_modStream :
    (t.modStream y g).modBuf b f = (t.modBuf b f).modStream y g := by cases y <;> rfl

@[simp] theorem Ts.setPesFree_modStream :
    (t.modStream y g).setPesFree z q = (t.setPesFree z q).modStream y g := by cases y <;> cases z <;> rfl

@[simp] theorem Ts.setPesFree_modBuf :
    (t.modBuf b f).setPesFree z q = (t.setPesFree z q).modBuf b f := by cases z <;> rfl

@[simp] theorem Ts.recount_modStream :
    (t.modStream y g).recount n = (t.recount n).modStream y g := by cases y <;> rfl

@[simp] theorem Ts.recount_modBuf : (t.modBuf b f).recount n = (t.recount n).modBuf b f := rfl

@[simp] theorem Ts.recount_recount : (t.recount m).recount n = t.recount n := rfl

@[simp] theorem Ts.modBuf_modBuf :
    (t.modBuf b f).modBuf b k = t.modBuf b (fun r => k (f r)) := by
  by_cases hb : b < t.nextPesId
  · rw [Ts.modBuf, Ts.buf_modBuf_same f hb]
    simp [Ts.modBuf]
  · simp [Ts.modBuf, List.set_eq_of_length_le (Nat.not_lt.mp hb)]

/-! What each change leaves, beside what Laws/Streams.lean says. -/

@[simp] theorem Ts.stream_recount : (t.recount n).stream y = t.stream y := by cases y <;> rfl
@[simp] theorem Ts.pesFree_recount : (t.recount n).pesFree y = t.pesFree y := by cases y <;> rfl
@[simp] theorem Ts.buf_recount : (t.recount n).buf b = t.buf b := rfl
@[simp] theorem Ts.nextPesId_recount : (t.recount n).nextPesId = t.nextPesId := rfl
@[simp] theorem Ts.mode_recount : (t.recount n).mode = t.mode := rfl
@[simp] theorem Ts.mode_modStream : (t.modStream y g).mode = t.mode := by cases y <;> rfl
@[simp] theorem Ts.mode_modBuf : (t.modBuf b f).mode = t.mode := rfl
@[simp] theorem Ts.mode_setPesFree : (t.setPesFree y q).mode = t.mode := by cases y <;> rfl
@[simp] theorem Ts.pktSinceCb_recount : (t.recount n).pktSinceCb = n := rfl
@[simp] theorem Ts.pktSinceCb_modStream : (t.modStream y g).pktSinceCb = t.pktSinceCb := by cases y <;> rfl
@[simp] theorem Ts.pktSinceCb_modBuf : (t.modBuf b f).pktSinceCb = t.pktSinceCb := rfl
@[simp] theorem Ts.pktSinceCb_setPesFree : (t.setPesFree y q).pktSinceCb = t.pktSinceCb := by cases y <;> rfl
@[simp] theorem Ts.psiTimeout_recount : (t.recount n).psiTimeout = t.psiTimeout := rfl
@[simp] theorem Ts.psiTimeout_modStream : (t.modStream y g).psiTimeout = t.psiTimeout := by cases y <;> rfl
@[simp] theorem Ts.psiTimeout_modBuf : (t.modBuf b f).psiTimeout = t.psiTimeout := rfl
@[simp] theorem Ts.psiTimeout_setPesFree : (t.setPesFree y q).psiTimeout = t.psiTimeout := by cases y <;> rfl

end

/-- A change of a stream says only what becomes of the one that is there. -/
theorem Ts.modStream_congr {t : Ts} {y : StreamType} {g h : Stream → Stream}
    (heq : g (t.stream y) = h (t.stream y)) : t.modStream y g = t.modStream y h := by
  rw [Ts.modStream, Ts.modStream, heq]

theorem Ts.modBuf_congr {t : Ts} {b : Nat} {f k : PesBuf → PesBuf} (heq : f (t.buf b) = k (t.buf b)) :
    t.modBuf b f = t.modBuf b k := by
  rw [Ts.modBuf, Ts.modBuf, heq]

theorem modTs_congr {s : State} {e : Nat} {g h : Ts → Ts} (heq : g (s.ts e) = h (s.ts e)) :
    s.modTs e g = s.modTs e h := by
  rw [modTs_eq, modTs_eq, heq]

variable {e b : Nat} {s : State} {y : StreamType} {c : Draw} {rest : List Draw}

/-! ### Callbacks (R283) -/

/-- The stream has accumulated nothing. -/
theorem Ts.hasPartial_of_empty {t : Ts} (h : ∀ b, (t.stream y).curBuf = some b → (t.buf b).pesBufLen = 0) :
    t.hasPartial y = false := by
  unfold Ts.hasPartial
  split
  · next b hb => simp [h b hb]
  · rfl

theorem Ts.hasPartial_of_filled {t : Ts} (hb : (t.stream y).curBuf = some b) (hlen : 0 < (t.buf b).pesBufLen) :
    t.hasPartial y = true := by
  simp [Ts.hasPartial, hb, hlen]

/-- The current buffer `b` has been handed to the client, which restarts the count (R283). -/
def Ts.handed (t : Ts) (y : StreamType) (b : Nat) : Ts := (t.deliverBuf y b).recount 0

theorem Ts.handed_eq (t : Ts) (y : StreamType) (b : Nat) : t.handed y b =
    ((t.recount 0).modBuf b (fun r =>
      { r with state := .delivered, pesTruncated := (t.stream y).truncated })).modStream y (fun x =>
        { x with curBuf := none, pesPacketPos := 0 }) := by
  rw [Ts.handed, Ts.deliverBuf, Ts.recount_modStream, Ts.recount_modBuf]

section

variable {m : Msg} (ht : s.tape = c :: rest) (hc : c.quiet)

include ht hc

theorem run_notifyPes (b : Option Nat) :
    notifyPes e m b s = .ok () ((s.told [.pes e m b] rest).modTs e (·.recount 0)) := by
  rw [notifyPes, run_bind, run_modTs]
  exact run_notify_told ht hc

theorem run_deliver (hb : ((s.ts e).stream y).curBuf = some b) :
    deliver e y m s = .ok () ((s.told [.pes e m (some b)] rest).modTs e (·.handed y b)) := by
  rw [deliver, run_bind, run_getTs]
  simp only [hb]
  rw [run_bind, run_modTs]
  dsimp only
  rw [run_notifyPes (by exact ht) hc, modTs_told, modTs_told, modTs_modTs]
  rfl

/-! ### Errors and gaps (R277, R279) -/

/-- An error is reported with the PES in progress (R277). -/
theorem run_packetError_filled (hb : ((s.ts e).stream y).curBuf = some b)
    (hlen : 0 < ((s.ts e).buf b).pesBufLen) :
    packetError e y s = .ok () ((s.told [.pes e .packetError (some b)] rest).modTs e (fun t =>
      (t.handed y b).modStream y (fun x =>
        { x with foundFirst := false, streamCont := none, truncated := false }))) := by
  rw [packetError, run_bind, run_getTs]
  simp only [Ts.hasPartial_of_filled hb hlen, if_true]
  rw [run_bind, run_deliver ht hc hb]
  dsimp only
  rw [run_modTs, modTs_modTs]

/-- An error is reported with no PES in progress (R277). -/
theorem run_packetError_empty
    (hempty : ∀ b, ((s.ts e).stream y).curBuf = some b → ((s.ts e).buf b).pesBufLen = 0) :
    packetError e y s = .ok () ((s.told [.pes e .packetError none] rest).modTs e (fun t =>
      (t.recount 0).modStream y (fun x =>
        { x with foundFirst := false, streamCont := none, truncated := false }))) := by
  rw [packetError, run_bind, run_getTs]
  simp only [Ts.hasPartial_of_empty hempty, Bool.false_eq_true, if_false]
  rw [run_bind, run_notifyPes ht hc]
  dsimp only
  rw [run_modTs, modTs_modTs]

theorem run_discontinuity :
    discontinuity e y s = .ok () ((s.told [.pes e .discontinuity none] rest).modTs e (fun t =>
      (t.dropPartial y).recount 0)) := by
  rw [discontinuity, run_bind, run_modTs]
  dsimp only
  rw [run_notifyPes (by exact ht) hc, modTs_told, modTs_told, modTs_modTs]

end

/-! ### Accumulating (R281) -/

/-- The bytes join the current buffer `b` (R281). -/
def Ts.filled (t : Ts) (y : StreamType) (b : Nat) (bytes : List Byte) : Ts :=
  (t.modBuf b (fun r => { r with
    data := sparseSetRun r.data r.pesBufLen bytes, pesBufLen := r.pesBufLen + bytes.length })).modStream y
      (fun x => { x with pesPacketPos := (t.buf b).pesBufLen + bytes.length })

theorem Ts.notePosition_some {t : Ts} (hb : (t.stream y).curBuf = some b) :
    t.notePosition y = t.modStream y (fun x => { x with pesPacketPos := (t.buf b).pesBufLen }) :=
  Ts.modStream_congr (by simp only [hb])

theorem Ts.notePosition_none {t : Ts} (hb : (t.stream y).curBuf = none) :
    t.notePosition y = t.modStream y (fun x => { x with pesPacketPos := 0 }) :=
  Ts.modStream_congr (by simp only [hb])

section

variable {t : Ts} {bytes : List Byte} (hb : (t.stream y).curBuf = some b) (hid : b < t.nextPesId)

include hb hid

theorem Ts.notePosition_appendBuf : (t.appendBuf b bytes).notePosition y = t.filled y b bytes := by
  have hcur : ((t.appendBuf b bytes).stream y).curBuf = some b := by simpa [Ts.appendBuf] using hb
  rw [Ts.notePosition_some hcur, Ts.appendBuf, Ts.buf_modBuf_same _ hid]
  rfl

end

section

variable {bytes : List Byte} (hb : ((s.ts e).stream y).curBuf = some b)

include hb

/-- What a stream whose current buffer is `b` does with `bytes` (R281). -/
theorem run_accumulate : accumulate e y bytes s =
    (if ((s.ts e).buf b).pesBufLen + bytes.length ≤ (s.ts e).cap s.par y then
      modTs e (fun t => (t.appendBuf b bytes).notePosition y)
    else if (s.ts e).partialDemux then
      modTs e (fun u =>
        (((u.appendBuf b (bytes.take ((s.ts e).cap s.par y - ((s.ts e).buf b).pesBufLen))).modStream y
          (fun x => { x with truncated := true })).notePosition y))
    else do
      deliver e y .pesLargerThanAllocatedBuffer
      modTs e (fun u => (u.modStream y (fun x => { x with foundFirst := false })).notePosition y)) s := by
  rw [accumulate, run_bind, run_getPar]
  dsimp only
  rw [run_bind, run_getTs]
  simp only [hb]

variable (hid : b < (s.ts e).nextPesId)

include hid

theorem run_accumulate_fits (hfits : ((s.ts e).buf b).pesBufLen + bytes.length ≤ (s.ts e).cap s.par y) :
    accumulate e y bytes s = .ok () (s.modTs e (·.filled y b bytes)) := by
  rw [run_accumulate hb, if_pos hfits, run_modTs]
  exact congrArg _ (modTs_congr (Ts.notePosition_appendBuf hb hid))

/-- Partial demux cuts the PES to the cap (R288). -/
theorem run_accumulate_cut (hcap : (s.ts e).cap s.par y < ((s.ts e).buf b).pesBufLen + bytes.length)
    (hpartial : (s.ts e).partialDemux = true) :
    accumulate e y bytes s = .ok () (s.modTs e (fun t =>
      (t.filled y b (bytes.take ((s.ts e).cap s.par y - ((s.ts e).buf b).pesBufLen))).modStream y
        (fun x => { x with truncated := true }))) := by
  rw [run_accumulate hb, if_neg (Nat.not_le.mpr hcap), if_pos hpartial, run_modTs]
  refine congrArg _ (modTs_congr ?_)
  have hcur : (((s.ts e).modStream y (fun x => { x with truncated := true })).stream y).curBuf = some b := by
    simpa using hb
  have hnote := Ts.notePosition_appendBuf (bytes := bytes.take ((s.ts e).cap s.par y -
    ((s.ts e).buf b).pesBufLen)) hcur (by simpa using hid)
  rw [Ts.appendBuf, Ts.modBuf_modStream] at hnote
  rw [Ts.appendBuf, hnote, Ts.filled, Ts.filled]
  simp

omit hid in
/-- A PES that would exceed the buffer is delivered without the bytes (R281). -/
theorem run_accumulate_exceeds
    (hcap : (s.ts e).cap s.par y < ((s.ts e).buf b).pesBufLen + bytes.length)
    (hwhole : (s.ts e).partialDemux = false) (ht : s.tape = c :: rest) (hc : c.quiet) :
    accumulate e y bytes s =
      .ok () ((s.told [.pes e .pesLargerThanAllocatedBuffer (some b)] rest).modTs e (fun t =>
        (t.handed y b).modStream y (fun x => { x with foundFirst := false }))) := by
  rw [run_accumulate hb, if_neg (Nat.not_le.mpr hcap), if_neg (by simp [hwhole]), run_bind, run_deliver ht hc hb]
  dsimp only
  rw [run_modTs, modTs_modTs]
  refine congrArg _ (modTs_congr ?_)
  rw [Ts.notePosition_none (by simp [Ts.handed_eq]), Ts.handed_eq]
  simp

end

/-! ### Starting a PES (R280, R282) -/

/-- The bytes of a packet, once a start has been found (R274). -/
def fillPes (e : Nat) (y : StreamType) (bytes : List Byte) : M Unit := do
  let u ← getTs e
  if (u.stream y).foundFirst then
    if 0 < bytes.length then accumulate e y bytes else pure ()
  else pure ()

/-- `startPES` once nothing is in progress (R280). -/
def takePes (e : Nat) (y : StreamType) (ts : Word) : M Unit := do
  let t ← getTs e
  if (t.stream y).curBuf.isNone then modTs e (·.allocCurrent y) else pure ()
  modTs e (·.beginPes y ts)

/-- The stream has a current buffer: the one it had, the head of its free queue or a fresh one (R280). -/
def Ts.readied (t : Ts) (y : StreamType) : Ts :=
  if (t.stream y).curBuf.isNone then t.allocCurrent y else t

/-- A PES with the time stamp `ts` has started in the current buffer `b` and holds `bytes` (R280, R281). -/
def Ts.opened (t : Ts) (y : StreamType) (b : Nat) (ts : Word) (bytes : List Byte) : Ts :=
  (t.modBuf b (fun r => { r with
    startTSPacketTimeStamp := ts, data := sparseSetRun r.data 0 bytes
    pesBufLen := bytes.length })).modStream y (fun x => { x with
      foundFirst := true, truncated := false, pesPacketPos := bytes.length })

theorem Ts.readied_some {t : Ts} (hb : (t.stream y).curBuf = some b) : t.readied y = t := by
  simp [Ts.readied, hb]

theorem Ts.readied_none {t : Ts} (hb : (t.stream y).curBuf = none) : t.readied y = t.allocCurrent y := by
  simp [Ts.readied, hb]

theorem Ts.beginPes_some {t : Ts} {ts : Word} (hb : (t.stream y).curBuf = some b) : t.beginPes y ts =
    (t.modBuf b (fun r => { r with pesBufLen := 0, startTSPacketTimeStamp := ts })).modStream y
      (fun x => { x with foundFirst := true, truncated := false, pesPacketPos := 0 }) := by
  simp only [Ts.beginPes, hb]

/-- A run of no bytes at the start of a buffer changes none. -/
theorem sparseSetRun_zero_nil {α : Type} (m : Sparse α) : sparseSetRun m 0 [] = m := by
  simp [sparseSetRun, runFrom]

theorem Ts.opened_nil {t : Ts} {ts : Word} (hb : (t.stream y).curBuf = some b) :
    t.opened y b ts [] = t.beginPes y ts := by
  simp [Ts.beginPes_some hb, Ts.opened, sparseSetRun_zero_nil]

theorem Ts.filled_beginPes {t : Ts} {ts : Word} {bytes : List Byte} (hb : (t.stream y).curBuf = some b)
    (hid : b < t.nextPesId) : (t.beginPes y ts).filled y b bytes = t.opened y b ts bytes := by
  rw [Ts.beginPes_some hb, Ts.filled, Ts.buf_modStream, Ts.buf_modBuf_same _ hid, Ts.opened]
  simp

section

variable {ts : Word} {bytes : List Byte} (he : e < s.inst.length)

include he

theorem run_begin_fill (hb : ((s.ts e).stream y).curBuf = some b) (hid : b < (s.ts e).nextPesId)
    (hfits : bytes.length ≤ (s.ts e).cap s.par y) :
    fillPes e y bytes (s.modTs e (·.beginPes y ts)) = .ok () (s.modTs e (·.opened y b ts bytes)) := by
  have hts : (s.modTs e (·.beginPes y ts)).ts e = (s.ts e).beginPes y ts := ts_modTs_same s _ he
  have hbegun := Ts.beginPes_some (ts := ts) hb
  have hfound : (((s.ts e).beginPes y ts).stream y).foundFirst = true := by simp [hbegun]
  rw [fillPes, run_bind, run_getTs, hts]
  simp only [hfound, if_true]
  rw [run_ite]
  by_cases hlen : 0 < bytes.length
  · have hzero : (((s.ts e).beginPes y ts).buf b).pesBufLen = 0 := by simp [hbegun, hid]
    have hcap : ((s.ts e).beginPes y ts).cap s.par y = (s.ts e).cap s.par y := by
      simp [hbegun, Ts.cap, Ts.partialDemux]
    rw [if_pos hlen, run_accumulate_fits (b := b) (by rw [hts]; simpa [hbegun] using hb)
      (by rw [hts]; simpa [hbegun] using hid)
      (by rw [hts, hzero, State.modTs_par, hcap, Nat.zero_add]; exact hfits), modTs_modTs]
    exact congrArg _ (modTs_congr (Ts.filled_beginPes hb hid))
  · obtain rfl : bytes = [] := List.eq_nil_of_length_eq_zero (Nat.eq_zero_of_not_pos hlen)
    rw [if_neg hlen]
    exact congrArg _ (modTs_congr (Ts.opened_nil hb).symm)

/-- A PES starts where none is in progress. -/
theorem run_take_fill (hb : (((s.ts e).readied y).stream y).curBuf = some b)
    (hid : b < ((s.ts e).readied y).nextPesId) (hfits : bytes.length ≤ ((s.ts e).readied y).cap s.par y) :
    (takePes e y ts >>= fun _ => fillPes e y bytes) s =
      .ok () (s.modTs e (fun t => (t.readied y).opened y b ts bytes)) := by
  have htake : takePes e y ts s = .ok () ((s.modTs e (·.readied y)).modTs e (·.beginPes y ts)) := by
    rw [takePes, run_bind, run_getTs]
    dsimp only
    cases hcur : ((s.ts e).stream y).curBuf with
    | none =>
      simp only [Option.isNone_none, if_true]
      rw [run_bind, run_modTs]
      dsimp only
      rw [run_modTs, modTs_congr (s := s) (h := (·.readied y)) (Ts.readied_none hcur).symm]
    | some b' =>
      simp only [Option.isNone_some, Bool.false_eq_true, if_false]
      rw [run_modTs, modTs_self s e (·.readied y) (Ts.readied_some hcur)]
  have hts : (s.modTs e (·.readied y)).ts e = (s.ts e).readied y := ts_modTs_same s _ he
  rw [run_bind, htake]
  dsimp only
  rw [run_begin_fill (by simpa using he) (by rw [hts]; exact hb) (by rw [hts]; exact hid)
    (by rw [hts]; exact hfits), modTs_modTs]

omit he in
/-- Nothing has been accumulated (R280). -/
theorem run_startPes_empty
    (hempty : ∀ b, ((s.ts e).stream y).curBuf = some b → ((s.ts e).buf b).pesBufLen = 0) :
    startPes e y ts s = takePes e y ts s := by
  rw [startPes, run_bind, run_getTs]
  simp only [Ts.hasPartial_of_empty hempty, Bool.false_eq_true, if_false]
  rfl

omit he in
/-- The PES in progress is delivered first (R280). -/
theorem run_startPes_filled (hb : ((s.ts e).stream y).curBuf = some b)
    (hlen : 0 < ((s.ts e).buf b).pesBufLen) (ht : s.tape = c :: rest) (hc : c.quiet) :
    startPes e y ts s = takePes e y ts ((s.told [.pes e .pesReceived (some b)] rest).modTs e (·.handed y b)) := by
  rw [startPes, run_bind, run_getTs]
  simp only [Ts.hasPartial_of_filled hb hlen, if_true]
  rw [run_bind, run_deliver ht hc hb]
  rfl

end

/-! ### The packet of a stream (R274) -/

/-- The continuity check (R278). -/
def continuity (e : Nat) (y : StreamType) (h : TsHeader) : M Unit := do
  let u ← getTs e
  match (u.stream y).streamCont with
  | some last => if h.cc ≠ expectedCc h last then discontinuity e y else pure ()
  | none => pure ()

/-- What follows the continuity check (R274). -/
def acceptPacket (e : Nat) (y : StreamType) (h : TsHeader) (ts : Word) (bytes : List Byte) : M Unit := do
  modTs e (·.modStream y (fun x => { x with streamCont := some h.cc }))
  if h.pusi then startPes e y ts else pure ()
  fillPes e y bytes

section

variable {h : TsHeader}

/-- The packet carries the counter that is due, or the stream has none yet (R278). -/
def TsHeader.inOrder (h : TsHeader) (x : Stream) : Prop :=
  ∀ last, x.streamCont = some last → h.cc = expectedCc h last

theorem run_continuity_inOrder (hord : h.inOrder ((s.ts e).stream y)) : continuity e y h s = .ok () s := by
  rw [continuity, run_bind, run_getTs]
  dsimp only
  cases hlast : ((s.ts e).stream y).streamCont with
  | none => rfl
  | some last =>
    dsimp only
    rw [run_ite, if_neg (not_not.mpr (hord last hlast))]
    rfl

theorem run_continuity_gap (hord : ¬ h.inOrder ((s.ts e).stream y)) (ht : s.tape = c :: rest) (hc : c.quiet) :
    continuity e y h s = .ok () ((s.told [.pes e .discontinuity none] rest).modTs e (fun t =>
      (t.dropPartial y).recount 0)) := by
  rw [TsHeader.inOrder, not_forall] at hord
  obtain ⟨last, hgap⟩ := hord
  rw [Classical.not_imp] at hgap
  obtain ⟨hlast, hcc⟩ := hgap
  rw [continuity, run_bind, run_getTs]
  simp only [hlast]
  rw [run_ite, if_pos hcc, run_discontinuity ht hc]

variable {t : List Byte} {ts : Word}

/-- A packet with neither error nor misfit (R274 to R276). -/
theorem run_streamPacket_accepted (htei : (tsHeader t).tei = false) (hafc : (tsHeader t).afc ≠ 0#2)
    (hafl : (tsHeader t).afl ≤ 184) :
    streamPacket e y t ts s = (continuity e y (tsHeader t) >>= fun _ =>
      acceptPacket e y (tsHeader t) ts (tsPayload (tsHeader t) t)) s := by
  have hlong : ¬ ((tsHeader t).hasAdaptation = true ∧ 184 < (tsHeader t).afl) := fun h => by omega
  rw [streamPacket, continuity, run_ite, htei, if_neg (by simp), run_ite, if_neg hafc, run_ite, if_neg hlong]
  dsimp only
  rw [run_bind, run_bind, run_bind, run_getTs]
  dsimp only
  rcases ((s.ts e).stream y).streamCont with _ | last
  · rfl
  · dsimp only
    rw [run_ite, run_ite]
    split
    · rw [run_bind]
      rfl
    · rfl

theorem run_streamPacket_discarded (htei : (tsHeader t).tei = false) (hafc : (tsHeader t).afc = 0#2) :
    streamPacket e y t ts s = .ok () s := by
  rw [streamPacket, run_ite, htei, if_neg (by simp), run_ite, if_pos hafc]
  rfl

/-- The adaptation field is as long as the packet says, where it has one (R272). -/
theorem tsHeader_afl (t : List Byte) : (tsHeader t).afl =
    if (tsHeader t).hasAdaptation then 1 + (byteAt t 4).toNat else 0 := by
  simp [tsHeader, TsHeader.hasAdaptation]

theorem run_streamPacket_error
    (herr : (tsHeader t).tei = true ∨ (tsHeader t).afc ≠ 0#2 ∧ 184 < (tsHeader t).afl) :
    streamPacket e y t ts s = packetError e y s := by
  rw [streamPacket, run_ite]
  by_cases htei : (tsHeader t).tei = true
  · rw [if_pos htei]
  · obtain ⟨hafc, hafl⟩ := herr.resolve_left htei
    have hfield : (tsHeader t).hasAdaptation = true := by
      by_contra hnone
      rw [tsHeader_afl, if_neg hnone] at hafl
      omega
    rw [if_neg htei, run_ite, if_neg hafc, run_ite, if_pos ⟨hfield, hafl⟩]

end

end Sys2Proof.Machine
end

section
/-! PROOF. TS_PACKET around the packet of its class: the checks, the count, the class and the PSI watchdog
(45_ts_demux.md R271 to R273, R284). -/

namespace Sys2Proof.Machine

variable {e : Nat} {s : State} {c : Draw} {rest : List Draw}

/-! ### The PSI watchdog (R284) -/

theorem Ts.restarted_eq (t : Ts) (y : StreamType) : t.restarted y = t.resetStream y := by
  unfold Ts.restarted Ts.resetStream Ts.emptyCurrent
  cases (t.stream y).curBuf <;> rfl

@[simp] theorem Ts.recount_resetStream (t : Ts) (y : StreamType) (n : Word) :
    (t.resetStream y).recount n = (t.recount n).resetStream y := by
  rw [Ts.resetStream, Ts.resetStream, Ts.emptyCurrent_eq, Ts.emptyCurrent_eq, Ts.recount_modStream,
    Ts.stream_recount]
  rfl

theorem Ts.forgetPids_recount (t : Ts) : t.forgetPids.recount 0 = t.rescanned := by
  rw [Ts.forgetPids, Ts.rescanned, Ts.restarted_eq, Ts.restarted_eq, Ts.recount_resetStream,
    Ts.recount_resetStream]
  rfl

/-- The watchdog does not go off: no decoder is asked, or the count has not passed PSI_TIMEOUT. -/
theorem run_psiWatchdog_idle
    (h : (s.ts e).autoPsi = true → (s.ts e).pktSinceCb.toNat ≤ (s.ts e).psiTimeout.toNat) :
    psiWatchdog e s = .ok () s := by
  rw [psiWatchdog, run_bind, run_getTs]
  dsimp only
  rw [run_ite, if_neg (fun ⟨hauto, hlt⟩ => Nat.not_lt.mpr (h hauto) hlt)]
  rfl

/-- A callback has restarted the count. -/
theorem run_psiWatchdog_restarted (h : (s.ts e).pktSinceCb = 0) : psiWatchdog e s = .ok () s :=
  run_psiWatchdog_idle fun _ => by simp [h]

theorem run_psiWatchdog_rescan (hauto : (s.ts e).autoPsi = true)
    (hlt : (s.ts e).psiTimeout.toNat < (s.ts e).pktSinceCb.toNat) (ht : s.tape = c :: rest) (hc : c.quiet) :
    psiWatchdog e s =
      .ok () ((s.told [.pes e .rescanningForPsi none] rest).modTs e Ts.rescanned) := by
  rw [psiWatchdog, run_bind, run_getTs]
  dsimp only
  rw [run_ite, if_pos ⟨hauto, hlt⟩, run_bind, run_modTs]
  dsimp only
  rw [run_notifyPes (by exact ht) hc, modTs_told, modTs_told, modTs_modTs]
  exact congrArg (fun t : State => EStateM.Result.ok () (t.told _ rest)) (modTs_congr (Ts.forgetPids_recount _))

/-! ### The count (R271) -/

/-- PKT_SINCE_CB after the packet, which saturates. -/
def State.packetCount (s : State) (e : Nat) : Nat := min ((s.ts e).pktSinceCb.toNat + 1) (2 ^ 32 - 1)

/-- A record in which the packet has been counted. -/
abbrev State.addCount (s : State) (e : Nat) (d : Ts) : Ts := d.recount (BitVec.ofNat 32 (s.packetCount e))

/-- The packet has been counted. -/
def State.counted (s : State) (e : Nat) : State := s.modTs e (s.addCount e)

theorem ts_counted {s : State} {e : Nat} (he : e < s.inst.length) :
    (s.counted e).ts e = s.addCount e (s.ts e) := ts_modTs_same s _ he

theorem toNat_packetCount (s : State) (e : Nat) :
    (BitVec.ofNat 32 (s.packetCount e)).toNat = s.packetCount e := by
  rw [BitVec.toNat_ofNat, State.packetCount]
  omega

theorem countPacket_eq (n : Word) : countPacket n = BitVec.ofNat 32 (min (n.toNat + 1) (2 ^ 32 - 1)) := by
  apply BitVec.eq_of_toNat_eq
  unfold countPacket
  split
  · next h => subst h; rfl
  · next h =>
    have hne : n.toNat ≠ 2 ^ 32 - 1 := fun hn => h (BitVec.eq_of_toNat_eq hn)
    have hlt := n.isLt
    rw [BitVec.toNat_add, BitVec.toNat_ofNat, show (1 : Word).toNat = 1 from rfl]
    omega

theorem counted_eq (s : State) (e : Nat) :
    s.modTs e (fun u => { u with pktSinceCb := countPacket u.pktSinceCb }) = s.counted e :=
  modTs_congr (by rw [countPacket_eq]; rfl)

/-! ### The command (R271, R273) -/

/-- The packet that the operands name. -/
def State.packet (s : State) : List Byte := s.readBytes s.arg0.toNat 188

theorem byteAt_packet (s : State) {k : Nat} (hk : k < 188) :
    byteAt s.packet k = s.readByte (s.arg0.toNat + k) := byteAt_readBytes s _ _ _ hk

/-- The packet lies in BUF and has its sync byte. -/
def State.hasPacket (s : State) : Prop :=
  s.arg0.toNat + 188 ≤ s.par.bufBytes ∧ s.readByte s.arg0.toNat = 0x47

theorem tsHeader_pid (s : State) : (tsHeader s.packet).pid = s.packetPid := by
  simp only [tsHeader, State.packetPid]
  rw [byteAt_packet s (by decide), byteAt_packet s (by decide)]

/-- What a packet of each class leads to (R273). -/
def classPacket (e : Nat) (hdv : Bool) (t : List Byte) (ts : Word) : PidClass → M Unit
  | .video => streamPacket e .video t ts
  | .audio => streamPacket e .audio t ts
  | .psi => psiPacket e t
  | .hdv => if hdv then notify (.hdvTable e t) else pure ()
  | .other => pure ()

theorem exec_tsPacket (hs : s.idle) (he : e < s.inst.length) :
    exec (.tsPacket e) s = .next (endCommand (tsPacketBody e s)) :=
  asCommand_run_instance rfl hs.1 he (.inl hs.2)

/-- The pseudocode of TS_PACKET on the operands. -/
theorem tsPacketBody_eq (s : State) (e : Nat) :
    tsPacketBody e s = (tsPacket e s.arg0.toNat s.arg1 >>= fun st => answer st) s := rfl

theorem exec_tsPacket_outside (hs : s.idle) (he : e < s.inst.length)
    (hout : s.par.bufBytes < s.arg0.toNat + 188) :
    exec (.tsPacket e) s = .next (s.takeFault (.badAddress s.arg0.toNat 188)) := by
  rw [exec_tsPacket hs he, tsPacketBody_eq, run_bind, tsPacket, run_bind, run_memRead_bad (Nat.not_le.mpr hout)]
  rfl

theorem exec_tsPacket_unsynced (hs : s.idle) (he : e < s.inst.length)
    (hin : s.arg0.toNat + 188 ≤ s.par.bufBytes) (hsync : s.readByte s.arg0.toNat ≠ 0x47) :
    exec (.tsPacket e) s = .next { s with status := 0x06 } := by
  have hbyte : byteAt (s.readBytes s.arg0.toNat 188) 0 ≠ 0x47 := by rwa [byteAt_readBytes s _ _ 0 (by decide)]
  rw [exec_tsPacket hs he, tsPacketBody_eq, run_bind, tsPacket, run_bind, run_memRead_ok hin]
  dsimp only
  rw [run_ite, if_pos hbyte]
  rfl

/-- A packet is counted and handled by its class, and then the PSI watchdog looks at the count. -/
theorem run_tsPacket (he : e < s.inst.length) (hp : s.hasPacket) : tsPacket e s.arg0.toNat s.arg1 s =
    (classPacket e (s.ts e).hdvRegistered s.packet s.arg1 ((s.ts e).classify s.par s.packetPid) >>= fun _ =>
      psiWatchdog e >>= fun _ => pure .success) (s.counted e) := by
  obtain ⟨hin, hsync⟩ := hp
  have hbyte : ¬ byteAt s.packet 0 ≠ 0x47 := by rw [byteAt_packet s (by decide)]; simpa using hsync
  have hclass : Ts.classify s.par (s.addCount e (s.ts e))
      (tsHeader s.packet).pid = (s.ts e).classify s.par s.packetPid := by
    rw [tsHeader_pid]
    rfl
  rw [tsPacket, run_bind, run_memRead_ok hin]
  dsimp only
  rw [← State.packet, run_ite, if_neg hbyte, run_bind, run_modTs, counted_eq]
  dsimp only
  rw [run_bind, run_getPar]
  dsimp only
  rw [run_bind, run_getTs, ts_counted he, show (s.counted e).par = s.par from rfl]
  dsimp only
  rw [hclass]
  cases (s.ts e).classify s.par s.packetPid with
  | video | audio | psi | other => rfl
  | hdv =>
    have hreg : (s.addCount e (s.ts e)).hdvRegistered =
        (s.ts e).hdvRegistered := rfl
    rw [hreg, classPacket]
    split <;> rfl

/-! ### How a packet ends (R284) -/

section

variable {u v : State}

theorem exec_tsPacket_of_run (hs : s.idle) (he : e < s.inst.length) (hp : s.hasPacket)
    (hrun : classPacket e (s.ts e).hdvRegistered s.packet s.arg1 ((s.ts e).classify s.par s.packetPid)
      (s.counted e) = .ok () u) (hend : psiWatchdog e u = .ok () v) :
    exec (.tsPacket e) s = .next (v.setStatus .success) := by
  rw [exec_tsPacket hs he, tsPacketBody_eq, run_bind, run_tsPacket he hp, run_bind, hrun]
  dsimp only
  rw [run_bind, hend]
  rfl

end

/-- The PSI watchdog reads the same in both records. -/
structure Ts.SameWatch (t u : Ts) : Prop where
  mode : u.mode = t.mode
  psiTimeout : u.psiTimeout = t.psiTimeout
  pktSinceCb : u.pktSinceCb = t.pktSinceCb

/-- After the calls `outs` and the changes `x` of the record, the PSI watchdog ends the packet. -/
def State.PacketEnds (s : State) (e : Nat) (outs : List Out) (x : Ts → Ts) : Prop :=
  (∀ ds rest : List Draw, (s.ts e).mode.getLsbD 0 = true → (s.ts e).psiTimeout.toNat < s.packetCount e →
    s.answers ds rest (outs.length + 1) →
    exec (.tsPacket e) s = .next (((s.told (outs ++ [.pes e .rescanningForPsi none]) rest).modTs e (fun d =>
      (x (s.addCount e d)).rescanned)).setStatus .success)) ∧
  (∀ ds rest : List Draw, ((s.ts e).mode.getLsbD 0 = true → s.packetCount e ≤ (s.ts e).psiTimeout.toNat) →
    s.answers ds rest outs.length →
    exec (.tsPacket e) s = .next (((s.told outs rest).modTs e (fun d =>
      x (s.addCount e d))).setStatus .success))

/-- The same of a packet that makes no callback of its own. -/
def State.PacketEndsSilently (s : State) (e : Nat) (x : Ts → Ts) : Prop :=
  (∀ (c : Draw) (rest : List Draw), (s.ts e).mode.getLsbD 0 = true →
    (s.ts e).psiTimeout.toNat < s.packetCount e → s.tape = c :: rest → c.quiet →
    exec (.tsPacket e) s = .next (((s.told [.pes e .rescanningForPsi none] rest).modTs e (fun d =>
      (x (s.addCount e d)).rescanned)).setStatus .success)) ∧
  (((s.ts e).mode.getLsbD 0 = true → s.packetCount e ≤ (s.ts e).psiTimeout.toNat) →
    exec (.tsPacket e) s = .next ((s.modTs e (fun d => x (s.addCount e d))).setStatus .success))

theorem State.PacketEnds.silently {x : Ts → Ts} (h : s.PacketEnds e [] x) : s.PacketEndsSilently e x := by
  obtain ⟨hrescan, hidle⟩ := h
  refine ⟨fun c rest hauto hlt ht hc => hrescan [c] rest hauto hlt ⟨ht, rfl, by simpa using hc⟩, fun hle => ?_⟩
  rw [hidle [] s.tape hle ⟨rfl, rfl, by simp⟩, State.told_nil rfl]

section

variable (hs : s.idle) (he : e < s.inst.length) (hp : s.hasPacket)

include hs he hp

theorem packetEnds_of_run {outs : List Out} {x : Ts → Ts}
    (hrun : ∀ ds rest : List Draw, s.answers ds rest outs.length →
      classPacket e (s.ts e).hdvRegistered s.packet s.arg1 ((s.ts e).classify s.par s.packetPid) (s.counted e) =
        .ok () ((s.told outs rest).modTs e (fun d => x (s.addCount e d))))
    (hwatch : (s.addCount e (s.ts e)).SameWatch
      (x (s.addCount e (s.ts e)))) : s.PacketEnds e outs x := by
  obtain ⟨hmode, htimeout, hcount⟩ := hwatch
  have hts : ∀ rest, ((s.told outs rest).modTs e
      (fun d => x (s.addCount e d))).ts e =
        x (s.addCount e (s.ts e)) :=
    fun rest => ts_modTs_same (s.told outs rest) _ (by simpa using he)
  have hcount' : (x (s.addCount e (s.ts e))).pktSinceCb.toNat =
      s.packetCount e := by rw [hcount, Ts.pktSinceCb_recount, toNat_packetCount]
  refine ⟨fun ds rest hauto hlt ha => ?rescan, fun ds rest hle ha => ?idle⟩
  case rescan =>
    obtain ⟨ds1, ds2, ha1, hlen2, hquiet2⟩ := State.answers_add ha
    obtain ⟨c, rfl⟩ : ∃ c, ds2 = [c] := List.length_eq_one_iff.mp hlen2
    have hend := run_psiWatchdog_rescan (e := e)
      (s := (s.told outs ([c] ++ rest)).modTs e (fun d => x (s.addCount e d)))
      (rest := rest) (c := c) (by rw [hts, Ts.autoPsi, hmode]; exact hauto)
      (by rw [hts, hcount', htimeout]; exact hlt) rfl (hquiet2 c (by simp))
    rw [exec_tsPacket_of_run hs he hp (hrun ds1 _ ha1) hend]
    simp only [modTs_told, modTs_modTs, State.told_told]
  case idle =>
    exact exec_tsPacket_of_run hs he hp (hrun ds rest ha) (run_psiWatchdog_idle fun hauto => by
      rw [hts, hcount', htimeout]
      rw [hts, Ts.autoPsi, hmode] at hauto
      exact hle hauto)

/-- A packet that makes no callback. -/
theorem packetEndsSilently_of_run {x : Ts → Ts}
    (hrun : classPacket e (s.ts e).hdvRegistered s.packet s.arg1 ((s.ts e).classify s.par s.packetPid)
      (s.counted e) = .ok () (s.modTs e (fun d => x (s.addCount e d))))
    (hwatch : (s.addCount e (s.ts e)).SameWatch
      (x (s.addCount e (s.ts e)))) : s.PacketEndsSilently e x := by
  refine (packetEnds_of_run hs he hp (fun ds rest ha => ?_) hwatch).silently
  obtain ⟨htape, hlen, -⟩ := ha
  obtain rfl : ds = [] := List.eq_nil_of_length_eq_zero hlen
  rw [hrun, State.told_nil (by simpa using htape)]

/-- A packet that makes a callback, which restarts the count. -/
theorem exec_tsPacket_restarted {u : State}
    (hrun : classPacket e (s.ts e).hdvRegistered s.packet s.arg1 ((s.ts e).classify s.par s.packetPid)
      (s.counted e) = .ok () u) (hcount : (u.ts e).pktSinceCb = 0) :
    exec (.tsPacket e) s = .next (u.setStatus .success) :=
  exec_tsPacket_of_run hs he hp hrun (run_psiWatchdog_restarted hcount)

end

end Sys2Proof.Machine
end

section
/-! PROOF. TS_PACKET of a packet that belongs to no stream (obligation O47; 45_ts_demux.md R271, R273, R284 to
R286). -/

namespace Sys2Proof.Machine

variable {e : Nat} {s : State} {c : Draw} {rest : List Draw}

/-! ### The PSI decoder and the raw client (R285, R286) -/

theorem Ts.applyVideoPid_some (t : Ts) (v : Pid) : t.applyVideoPid (some v) =
    if t.videoPid = ⟨true, v⟩ then t else ({ t with videoPid := ⟨true, v⟩ } : Ts).restarted .video := by
  rw [Ts.restarted_eq]
  unfold Ts.applyVideoPid
  dsimp only
  split
  · next h => rw [← h]
  · rfl

theorem Ts.applyAudioPid_some (t : Ts) (v : Pid) : t.applyAudioPid (some v) =
    if t.audioPid = ⟨true, v⟩ then t else ({ t with audioPid := ⟨true, v⟩ } : Ts).restarted .audio := by
  rw [Ts.restarted_eq]
  unfold Ts.applyAudioPid
  dsimp only
  split
  · next h => rw [← h]
  · rfl

/-- The three fields of an answer, one after another. -/
theorem Ts.answered_eq (t : Ts) (d : Draw) :
    ((t.applyVideoPid d.videoPid).applyAudioPid d.audioPid).applyPmtPid d.pmtPid = t.answered d := by
  have hvideo : t.applyVideoPid d.videoPid = (match d.videoPid with
      | some v => if t.videoPid = ⟨true, v⟩ then t else ({ t with videoPid := ⟨true, v⟩ } : Ts).restarted .video
      | none => t) := by
    cases d.videoPid with
    | none => rfl
    | some v => exact t.applyVideoPid_some v
  have haudio : ∀ u : Ts, u.applyAudioPid d.audioPid = (match d.audioPid with
      | some v => if u.audioPid = ⟨true, v⟩ then u else ({ u with audioPid := ⟨true, v⟩ } : Ts).restarted .audio
      | none => u) := by
    intro u
    cases d.audioPid with
    | none => rfl
    | some v => exact u.applyAudioPid_some v
  have hpmt : ∀ u : Ts, u.applyPmtPid d.pmtPid = (match d.pmtPid with
      | some v => { u with pmtPid := ⟨true, v⟩ }
      | none => u) := by
    intro u
    cases d.pmtPid <;> rfl
  rw [hvideo, haudio, hpmt]
  rfl

theorem Ts.SameWatch.refl (t : Ts) : t.SameWatch t := ⟨rfl, rfl, rfl⟩

theorem Ts.SameWatch.trans {t u v : Ts} (h : t.SameWatch u) (k : u.SameWatch v) : t.SameWatch v :=
  ⟨k.mode.trans h.mode, k.psiTimeout.trans h.psiTimeout, k.pktSinceCb.trans h.pktSinceCb⟩

theorem Ts.sameWatch_restarted (t : Ts) (y : StreamType) : t.SameWatch (t.restarted y) := by
  rw [Ts.restarted_eq, Ts.resetStream, Ts.emptyCurrent_eq]
  constructor <;> simp

/-- The PSI decoder's answer changes PIDs and streams alone. -/
theorem Ts.sameWatch_answered (t : Ts) (d : Draw) : t.SameWatch (t.answered d) := by
  have hvideo : t.SameWatch (t.applyVideoPid d.videoPid) := by
    cases d.videoPid with
    | none => exact .refl t
    | some v =>
      rw [Ts.applyVideoPid_some]
      split
      · exact .refl t
      · exact Ts.SameWatch.trans (u := { t with videoPid := ⟨true, v⟩ }) ⟨rfl, rfl, rfl⟩
          (Ts.sameWatch_restarted _ _)
  have haudio : ∀ u : Ts, u.SameWatch (u.applyAudioPid d.audioPid) := by
    intro u
    cases d.audioPid with
    | none => exact .refl u
    | some v =>
      rw [Ts.applyAudioPid_some]
      split
      · exact .refl u
      · exact Ts.SameWatch.trans (u := { u with audioPid := ⟨true, v⟩ }) ⟨rfl, rfl, rfl⟩
          (Ts.sameWatch_restarted _ _)
  have hpmt : ∀ u : Ts, u.SameWatch (u.applyPmtPid d.pmtPid) := by
    intro u
    cases d.pmtPid <;> exact ⟨rfl, rfl, rfl⟩
  rw [← Ts.answered_eq]
  exact (hvideo.trans (haudio _)).trans (hpmt _)

/-- The calls to the raw client (R286). -/
def Ts.rawCalls (t : Ts) (e : Nat) (packet : List Byte) : List Out :=
  if t.rawPsiRegistered then [.psiRaw e packet] else []

/-- `psiPacket` once the decoder has answered (R286). -/
def rawPsi (e : Nat) (packet : List Byte) : M Unit := do
  let t ← getTs e
  if t.rawPsiRegistered then notify (.psiRaw e packet) else pure ()

theorem run_rawPsi {packet : List Byte} {ds : List Draw} (ha : s.answers ds rest ((s.ts e).rawCalls e packet).length) :
    rawPsi e packet s = .ok () (s.told ((s.ts e).rawCalls e packet) rest) := by
  rw [rawPsi, run_bind, run_getTs]
  dsimp only
  rw [run_ite]
  unfold Ts.rawCalls at ha ⊢
  by_cases hraw : (s.ts e).rawPsiRegistered = true
  · rw [if_pos hraw] at ha ⊢
    rw [if_pos hraw]
    obtain ⟨d, es, rfl, hd, ht, hlen, -⟩ := State.answers_succ ha
    obtain rfl : es = [] := List.eq_nil_of_length_eq_zero hlen
    exact run_notify_told ht hd
  · rw [if_neg hraw] at ha ⊢
    rw [if_neg hraw]
    obtain ⟨ht, hlen, -⟩ := ha
    obtain rfl : ds = [] := List.eq_nil_of_length_eq_zero hlen
    rw [State.told_nil (by simpa using ht), run_pure]

theorem run_psiPacket_manual {packet : List Byte} (h : (s.ts e).autoPsi = false) :
    psiPacket e packet s = rawPsi e packet s := by
  rw [psiPacket, run_bind, run_getTs]
  simp only [h, Bool.false_eq_true, if_false]
  rfl

/-- The decoder is asked, and its answer is taken over (R285). -/
theorem run_psiPacket_auto {packet : List Byte} (h : (s.ts e).autoPsi = true) (ht : s.tape = c :: rest)
    (hc : c.quiet) : psiPacket e packet s =
      rawPsi e packet ((s.told [.psiDecoder e packet] rest).modTs e (·.answered c)) := by
  have hanswer : (fun t : Ts =>
      ((t.applyVideoPid c.videoPid).applyAudioPid c.audioPid).applyPmtPid c.pmtPid) = (·.answered c) :=
    funext fun t => t.answered_eq c
  rw [psiPacket, run_bind, run_getTs]
  simp only [h, if_true]
  rw [run_bind, run_callback_quiet ht hc]
  dsimp only
  rw [run_bind, run_modTs, hanswer]
  rfl

/-! ### The classes (R273) -/

/-- The PID is one of the two elementary streams'. -/
abbrev Ts.selects (t : Ts) (pid : Pid) : Prop :=
  (t.videoPid.valid = true ∧ pid = t.videoPid.pid) ∨ (t.audioPid.valid = true ∧ pid = t.audioPid.pid)

/-- The PID is one of program-specific information. -/
abbrev Ts.psiPid (t : Ts) (pid : Pid) : Prop := pid = 0 ∨ (t.pmtPid.valid = true ∧ pid = t.pmtPid.pid)

section

variable {p : Params} {t : Ts} {pid : Pid} (hn : ¬ t.selects pid)

include hn

theorem Ts.classify_psi (h : t.psiPid pid) : t.classify p pid = .psi := by
  obtain ⟨hv, ha⟩ := not_or.mp hn
  rw [Ts.classify, if_neg hv, if_neg ha, if_pos h]

theorem Ts.classify_hdv (h : ¬ t.psiPid pid) (hhdv : pid ∈ p.hdvPids) : t.classify p pid = .hdv := by
  obtain ⟨hv, ha⟩ := not_or.mp hn
  rw [Ts.classify, if_neg hv, if_neg ha, if_neg h, if_pos hhdv]

theorem Ts.classify_other (h : ¬ t.psiPid pid) (hhdv : pid ∉ p.hdvPids) : t.classify p pid = .other := by
  obtain ⟨hv, ha⟩ := not_or.mp hn
  rw [Ts.classify, if_neg hv, if_neg ha, if_neg h, if_neg hhdv]

end

/-! ### The four kinds of packet -/

section

variable (hs : s.idle) (he : e < s.inst.length) (hp : s.hasPacket) (hn : ¬ (s.ts e).selects s.packetPid)

include hs he hp hn

/-- A packet of no class, or of a class that has no client, only counts. -/
theorem packetEnds_unheard (hpsi : ¬ (s.ts e).psiPid s.packetPid)
    (hhdv : s.packetPid ∈ s.par.hdvPids → (s.ts e).hdvRegistered = false) : s.PacketEnds e [] id := by
  refine packetEnds_of_run hs he hp (fun ds rest ha => ?_) (.refl _)
  obtain ⟨ht, hlen, -⟩ := ha
  obtain rfl : ds = [] := List.eq_nil_of_length_eq_zero hlen
  rw [State.told_nil (by simpa using ht)]
  by_cases hmem : s.packetPid ∈ s.par.hdvPids
  · rw [Ts.classify_hdv hn hpsi hmem, hhdv hmem]
    rfl
  · rw [Ts.classify_other hn hpsi hmem]
    rfl

theorem packetEnds_hdv (hpsi : ¬ (s.ts e).psiPid s.packetPid) (hmem : s.packetPid ∈ s.par.hdvPids)
    (hreg : (s.ts e).hdvRegistered = true) : s.PacketEnds e [.hdvTable e s.packet] id := by
  refine packetEnds_of_run hs he hp (fun ds rest ha => ?_) (.refl _)
  obtain ⟨d, es, rfl, hd, ht, hlen, -⟩ := State.answers_succ ha
  obtain rfl : es = [] := List.eq_nil_of_length_eq_zero hlen
  rw [Ts.classify_hdv hn hpsi hmem, hreg]
  exact run_notify_told (s := s.counted e) ht hd

theorem packetEnds_manual (hpsi : (s.ts e).psiPid s.packetPid) (hauto : (s.ts e).autoPsi = false) :
    s.PacketEnds e ((s.ts e).rawCalls e s.packet) id := by
  refine packetEnds_of_run hs he hp (fun ds rest ha => ?_) (.refl _)
  have hts := ts_counted he
  have hraw := run_rawPsi (s := s.counted e) (e := e) (packet := s.packet) (ds := ds) (rest := rest)
    (by rw [hts]; exact ha)
  rw [hts] at hraw
  rw [Ts.classify_psi hn hpsi, classPacket, run_psiPacket_manual (by rw [hts]; exact hauto), hraw]
  rfl

theorem packetEnds_decoded (hpsi : (s.ts e).psiPid s.packetPid) (hauto : (s.ts e).autoPsi = true)
    (hc : s.tape.head? = some c) :
    s.PacketEnds e (.psiDecoder e s.packet :: (s.ts e).rawCalls e s.packet) (·.answered c) := by
  refine packetEnds_of_run hs he hp (fun ds rest ha => ?_) (Ts.sameWatch_answered _ c)
  obtain ⟨d, es, rfl, hd, ht, hlen, hes⟩ := State.answers_succ ha
  obtain rfl : d = c := by
    rw [ht] at hc
    exact Option.some.inj hc
  have hts := ts_counted he
  have hts' : (((s.counted e).told [.psiDecoder e s.packet] (es ++ rest)).modTs e (·.answered d)).ts e =
      (s.addCount e (s.ts e)).answered d :=
    (ts_modTs_same ((s.counted e).told [.psiDecoder e s.packet] (es ++ rest)) _
      (by simpa [State.counted] using he)).trans (congrArg (Ts.answered · d) hts)
  have hcalls : ((s.addCount e (s.ts e)).answered d).rawCalls e s.packet = (s.ts e).rawCalls e s.packet := by
    have hmode := (Ts.sameWatch_answered (s.addCount e (s.ts e)) d).mode
    rw [Ts.rawCalls, Ts.rawPsiRegistered, hmode]
    rfl
  have hraw := run_rawPsi (e := e) (packet := s.packet) (ds := es) (rest := rest)
    (s := ((s.counted e).told [.psiDecoder e s.packet] (es ++ rest)).modTs e (·.answered d))
    (by rw [hts', hcalls]; exact ⟨rfl, hlen, hes⟩)
  rw [hts', hcalls] at hraw
  rw [Ts.classify_psi hn hpsi, classPacket, run_psiPacket_auto (by rw [hts]; exact hauto) (by exact ht) hd, hraw]
  simp only [State.counted, modTs_told, modTs_modTs, State.told_told]
  rfl

end

/-- Settles O47: the two refusals, and each class of packet outside the streams. -/
theorem packetOutsideStreams : Obligations.PacketOutsideStreams := by
  intro s e hs he d a packet pid count selected psi auto counted ends
  refine ⟨exec_tsPacket_outside hs he, exec_tsPacket_unsynced hs he, fun hin hsync hn => ?_⟩
  have hp : s.hasPacket := ⟨hin, hsync⟩
  exact ⟨packetEnds_unheard hs he hp hn, packetEnds_hdv hs he hp hn, packetEnds_manual hs he hp hn,
    fun c => packetEnds_decoded hs he hp hn⟩

end Sys2Proof.Machine
end

section
/-! PROOF. TS_PACKET of a packet of a stream without a start: errors and gaps (obligation O50; 45_ts_demux.md R276,
R277, R279), and packets in order (obligation O48; R274, R275, R278, R281, R288). -/

namespace Sys2Proof.Machine

variable {e b : Nat} {s : State} {y : StreamType} {c : Draw} {rest : List Draw}

/-! ### The fields of the packet (R272) -/

theorem tsHeader_tei (s : State) : (tsHeader s.packet).tei = (s.readByte (s.arg0.toNat + 1)).getLsbD 7 :=
  congrArg (BitVec.getLsbD · 7) (byteAt_packet s (by decide))

theorem tsHeader_pusi (s : State) : (tsHeader s.packet).pusi = (s.readByte (s.arg0.toNat + 1)).getLsbD 6 :=
  congrArg (BitVec.getLsbD · 6) (byteAt_packet s (by decide))

theorem tsHeader_afc (s : State) :
    (tsHeader s.packet).afc = (s.readByte (s.arg0.toNat + 3)).extractLsb' 4 2 :=
  congrArg (BitVec.extractLsb' 4 2) (byteAt_packet s (by decide))

theorem tsHeader_cc (s : State) :
    (tsHeader s.packet).cc = (s.readByte (s.arg0.toNat + 3)).extractLsb' 0 4 :=
  congrArg (BitVec.extractLsb' 0 4) (byteAt_packet s (by decide))

/-- The length of the adaptation field of the packet. -/
theorem tsHeader_packet_afl (s : State) : (tsHeader s.packet).afl =
    if ((s.readByte (s.arg0.toNat + 3)).extractLsb' 4 2).getLsbD 1 then
      1 + (s.readByte (s.arg0.toNat + 4)).toNat
    else 0 := by
  rw [tsHeader_afl, TsHeader.hasAdaptation, tsHeader_afc, byteAt_packet s (by decide)]

theorem readBytes_drop (s : State) (a n k : Nat) :
    (s.readBytes a n).drop k = s.readBytes (a + k) (n - k) := by
  apply List.ext_getElem
  · simp
  · intro j h1 h2
    simp [State.readBytes, Nat.add_assoc]

/-- The payload stands behind the adaptation field (R272). -/
theorem tsPayload_packet (s : State) (h : (tsHeader s.packet).hasPayload = true) :
    tsPayload (tsHeader s.packet) s.packet =
      s.readBytes (s.arg0.toNat + 4 + (tsHeader s.packet).afl) (184 - (tsHeader s.packet).afl) := by
  rw [tsPayload, if_pos h, State.packet, readBytes_drop, ← Nat.add_assoc, ← Nat.sub_sub]

theorem tsPayload_none (s : State) (h : (tsHeader s.packet).hasPayload = false) :
    tsPayload (tsHeader s.packet) s.packet = [] := by
  rw [tsPayload, if_neg (by simp [h])]

/-! ### The command (R273, R274) -/

theorem State.packetOn.hasPacket (h : s.packetOn e y) : s.hasPacket := ⟨h.1, h.2.1⟩

/-- A packet on a stream is handled as one (R273, R274). -/
theorem classPacket_stream (h : s.packetOn e y) :
    classPacket e (s.ts e).hdvRegistered s.packet s.arg1 ((s.ts e).classify s.par s.packetPid) =
      streamPacket e y s.packet s.arg1 := by
  obtain ⟨-, -, hvideo, haudio⟩ := h
  cases y with
  | video => rw [Ts.classify, if_pos (hvideo rfl)]; rfl
  | audio =>
    obtain ⟨hnot, haudio⟩ := haudio rfl
    rw [Ts.classify, if_neg hnot, if_pos haudio]
    rfl

section

variable (hs : s.idle) (he : e < s.inst.length) (hon : s.packetOn e y)

include hs he hon

/-- A packet on a stream that makes no callback and changes the record as `x` says. -/
theorem packetEndsSilently_stream {x z : Ts → Ts}
    (hrun : streamPacket e y s.packet s.arg1 (s.counted e) = .ok () ((s.counted e).modTs e x))
    (heq : x (s.addCount e (s.ts e)) = z (s.addCount e (s.ts e)))
    (hwatch : (s.addCount e (s.ts e)).SameWatch (z (s.addCount e (s.ts e)))) : s.PacketEndsSilently e z := by
  refine packetEndsSilently_of_run hs he hon.hasPacket ?_ hwatch
  rw [classPacket_stream hon, hrun, State.counted, modTs_modTs]
  exact congrArg _ (modTs_congr heq)

/-- A packet on a stream whose client is told `m`, which restarts the count. -/
theorem exec_tsPacket_tells {m : Msg} {b : Option Nat} {x z : Ts → Ts}
    (hrun : streamPacket e y s.packet s.arg1 (s.counted e) =
      .ok () (((s.counted e).told [.pes e m b] rest).modTs e x))
    (heq : x (s.addCount e (s.ts e)) = z (s.ts e)) (hcount : (x (s.addCount e (s.ts e))).pktSinceCb = 0) :
    exec (.tsPacket e) s = .next (((s.told [.pes e m b] rest).modTs e z).setStatus .success) := by
  have hts : (((s.counted e).told [.pes e m b] rest).modTs e x).ts e = z (s.ts e) :=
    (ts_modTs_same ((s.counted e).told [.pes e m b] rest) x (by simpa [State.counted] using he)).trans
      ((congrArg x (ts_counted he)).trans heq)
  rw [exec_tsPacket_restarted hs he hon.hasPacket ((congrFun (classPacket_stream hon) _).trans hrun)
    (by rw [hts, ← heq, hcount])]
  simp only [State.counted, modTs_told, modTs_modTs]
  have hmod : s.modTs e (fun d => x (s.addCount e d)) = s.modTs e z := modTs_congr heq
  rw [hmod]

end

/-! ### Packets without start indicator (R274, R278) -/

section

variable {h : TsHeader} {ts : Word} {bytes : List Byte}

theorem not_inOrder_of_gap {x : Stream} {last : BitVec 4} (hlast : x.streamCont = some last)
    (hcc : h.cc ≠ expectedCc h last) : ¬ h.inOrder x := fun hord => hcc (hord last hlast)

theorem run_acceptPacket_continued (hpusi : h.pusi = false) :
    acceptPacket e y h ts bytes s =
      fillPes e y bytes (s.modTs e (·.modStream y (fun x => { x with streamCont := some h.cc }))) := by
  rw [acceptPacket, run_bind, run_modTs]
  simp only [hpusi, Bool.false_eq_true, if_false]

theorem run_fillPes_dropped (hdrop : ((s.ts e).stream y).foundFirst = false ∨ bytes = []) :
    fillPes e y bytes s = .ok () s := by
  rw [fillPes, run_bind, run_getTs]
  dsimp only
  rw [run_ite, run_ite]
  rcases hdrop with hfound | rfl
  · rw [hfound, if_neg (by simp)]
    rfl
  · rw [if_neg (show ¬ 0 < ([] : List Byte).length by simp), run_pure, ite_self]

theorem run_fillPes_found (hfound : ((s.ts e).stream y).foundFirst = true) (hlen : 0 < bytes.length) :
    fillPes e y bytes s = accumulate e y bytes s := by
  rw [fillPes, run_bind, run_getTs]
  simp only [hfound, hlen, if_true]

end

section

variable (hs : s.idle) (he : e < s.inst.length) (hon : s.packetOn e y)
  (htei : (tsHeader s.packet).tei = false) (hpusi : (tsHeader s.packet).pusi = false)
  (hafc : (tsHeader s.packet).afc ≠ 0#2) (hafl : (tsHeader s.packet).afl ≤ 184)

include he htei hpusi hafc hafl

/-- A gap is told, and nothing is accumulated (R279). -/
theorem run_streamPacket_gap (hord : ¬ (tsHeader s.packet).inOrder ((s.ts e).stream y))
    (ht : s.tape = c :: rest) (hc : c.quiet) : streamPacket e y s.packet s.arg1 (s.counted e) =
      .ok () (((s.counted e).told [.pes e .discontinuity none] rest).modTs e (fun t =>
        ((t.dropPartial y).recount 0).modStream y (fun x =>
          { x with streamCont := some (tsHeader s.packet).cc }))) := by
  have hts := ts_counted he
  have hord' : ¬ (tsHeader s.packet).inOrder (((s.counted e).ts e).stream y) := by
    rw [hts, Ts.stream_recount]
    exact hord
  rw [run_streamPacket_accepted htei hafc hafl, run_bind,
    run_continuity_gap hord' (by exact ht) hc]
  dsimp only
  rw [run_acceptPacket_continued hpusi, modTs_modTs]
  refine run_fillPes_dropped (.inl ?_)
  rw [modTs_told, State.told_ts, ts_modTs_same _ _ (by simpa [State.counted] using he), Ts.dropPartial]
  simp

/-- A packet in order joins what has been accumulated. -/
theorem run_streamPacket_inOrder (hord : (tsHeader s.packet).inOrder ((s.ts e).stream y)) :
    streamPacket e y s.packet s.arg1 (s.counted e) =
      fillPes e y (tsPayload (tsHeader s.packet) s.packet) ((s.counted e).modTs e
        (·.modStream y (fun x => { x with streamCont := some (tsHeader s.packet).cc }))) := by
  have hts := ts_counted he
  have hord' : (tsHeader s.packet).inOrder (((s.counted e).ts e).stream y) := by
    rw [hts, Ts.stream_recount]
    exact hord
  rw [run_streamPacket_accepted htei hafc hafl, run_bind, run_continuity_inOrder hord']
  dsimp only
  rw [run_acceptPacket_continued hpusi]

end

/-! ### Errors and gaps (R276, R277, R279) -/

/-- A gap discards the PES in progress and restarts the count. -/
theorem Ts.dropPartial_recount (t : Ts) (y : StreamType) :
    (t.dropPartial y).recount 0 = (match (t.stream y).curBuf with
      | some b => (t.recount 0).modBuf b (fun r => { r with pesBufLen := 0 })
      | none => t.recount 0).modStream y (fun x =>
        { x with foundFirst := false, truncated := false, pesPacketPos := 0 }) := by
  rw [Ts.dropPartial, Ts.recount_modStream]
  unfold Ts.emptyCurrent
  cases (t.stream y).curBuf <;> rfl

section

variable (he : e < s.inst.length)
  (herr : (tsHeader s.packet).tei = true ∨ (tsHeader s.packet).afc ≠ 0#2 ∧ 184 < (tsHeader s.packet).afl)
  (ht : s.tape = c :: rest) (hc : c.quiet)

include he herr ht hc

theorem run_streamPacket_error_filled (hb : ((s.ts e).stream y).curBuf = some b)
    (hlen : 0 < ((s.ts e).buf b).pesBufLen) : streamPacket e y s.packet s.arg1 (s.counted e) =
      .ok () (((s.counted e).told [.pes e .packetError (some b)] rest).modTs e (fun t =>
        (t.handed y b).modStream y (fun x =>
          { x with foundFirst := false, streamCont := none, truncated := false }))) := by
  have hts := ts_counted he
  rw [run_streamPacket_error herr, run_packetError_filled (by exact ht) hc]
  · rw [hts, Ts.stream_recount, hb]
  · rw [hts]
    exact hlen

theorem run_streamPacket_error_empty
    (hempty : ∀ b, ((s.ts e).stream y).curBuf = some b → ((s.ts e).buf b).pesBufLen = 0) :
    streamPacket e y s.packet s.arg1 (s.counted e) =
      .ok () (((s.counted e).told [.pes e .packetError none] rest).modTs e (fun t =>
        (t.recount 0).modStream y (fun x =>
          { x with foundFirst := false, streamCont := none, truncated := false }))) := by
  have hts := ts_counted he
  rw [run_streamPacket_error herr, run_packetError_empty (by exact ht) hc]
  rw [hts, Ts.stream_recount]
  exact hempty

end

/-- Settles O50: a gap, and an error with and without a PES in progress. -/
theorem packetReports : Obligations.PacketReports := by
  intro s e y c rest hs he hon ht hc d x afc cc afl tei told
  refine ⟨?gap, fun herr => ?error⟩
  case gap =>
    intro last htei hafc hafl hpusi hlast hcc
    have hgap : ¬ (tsHeader s.packet).inOrder x := not_inOrder_of_gap hlast
      (by rw [expectedCc, TsHeader.hasPayload, tsHeader_cc, tsHeader_afc]; exact hcc)
    have hrun := run_streamPacket_gap he ((tsHeader_tei s).trans htei) ((tsHeader_pusi s).trans hpusi)
      (by rw [tsHeader_afc]; exact hafc) (by rw [tsHeader_packet_afl]; exact hafl) hgap ht hc
    change _ = Host.Outcome.next (((s.told [.pes e .discontinuity none] rest).setStatus .success).modTs e _)
    rw [modTs_setStatus]
    refine exec_tsPacket_tells hs he hon hrun ?_ (by simp)
    rw [Ts.dropPartial_recount, Ts.modStream_modStream, tsHeader_cc]
    rfl
  case error =>
    have herr' : (tsHeader s.packet).tei = true ∨
        (tsHeader s.packet).afc ≠ 0#2 ∧ 184 < (tsHeader s.packet).afl := by
      rw [tsHeader_tei, tsHeader_afc, tsHeader_packet_afl]
      exact herr
    refine ⟨fun b hb hlen => ?filled, fun hempty => ?empty⟩
    case filled =>
      change _ = Host.Outcome.next (((s.told [.pes e .packetError (some b)] rest).setStatus .success).modTs e _)
      rw [modTs_setStatus]
      refine exec_tsPacket_tells hs he hon (run_streamPacket_error_filled he herr' ht hc hb hlen) ?_
        (by simp [Ts.handed_eq])
      rw [Ts.handed_eq, Ts.modStream_modStream, Ts.recount_recount, Ts.stream_recount]
      rfl
    case empty =>
      change _ = Host.Outcome.next (((s.told [.pes e .packetError none] rest).setStatus .success).modTs e _)
      rw [modTs_setStatus]
      refine exec_tsPacket_tells hs he hon (run_streamPacket_error_empty he herr' ht hc hempty) ?_ (by simp)
      rfl

/-! ### Packets in order (R275, R278, R281, R288) -/

theorem Ts.partialDemux_congr {t u : Ts} (h : u.mode = t.mode) : u.partialDemux = t.partialDemux := by
  rw [Ts.partialDemux, Ts.partialDemux, h]

theorem Ts.cap_congr {p : Params} {t u : Ts} (h : u.mode = t.mode) (y : StreamType) : u.cap p y = t.cap p y := by
  unfold Ts.cap
  rw [Ts.partialDemux_congr h]

/-- The continuity counter of the packet has been noted (R278). -/
def State.noteCounter (s : State) (y : StreamType) (t : Ts) : Ts :=
  t.modStream y (fun x => { x with streamCont := some (tsHeader s.packet).cc })

section

variable {bytes : List Byte} (hs : s.idle) (he : e < s.inst.length) (hon : s.packetOn e y)
  (hrun : streamPacket e y s.packet s.arg1 (s.counted e) =
    fillPes e y bytes ((s.counted e).modTs e (s.noteCounter y)))

include he in
theorem ts_noteCounter : ((s.counted e).modTs e (s.noteCounter y)).ts e =
    (s.addCount e (s.ts e)).modStream y (fun x => { x with streamCont := some (tsHeader s.packet).cc }) :=
  (ts_modTs_same _ _ (by simpa [State.counted] using he)).trans (congrArg _ (ts_counted he))

include hs he hon hrun

/-- Before the first start, and without payload, only the counter moves. -/
theorem packetEnds_dropped (hdrop : ((s.ts e).stream y).foundFirst = false ∨ bytes = []) :
    s.PacketEndsSilently e (s.noteCounter y) := by
  refine packetEndsSilently_stream hs he hon (hrun.trans (run_fillPes_dropped ?_)) rfl ?_
  · rw [ts_noteCounter he]
    simpa using hdrop
  · constructor <;> simp [State.noteCounter]

variable (hfound : ((s.ts e).stream y).foundFirst = true) (hlen : 0 < bytes.length)
  (hb : ((s.ts e).stream y).curBuf = some b)

omit hs hon in
include hfound hlen in
theorem run_streamPacket_found : streamPacket e y s.packet s.arg1 (s.counted e) =
    accumulate e y bytes ((s.counted e).modTs e (s.noteCounter y)) :=
  hrun.trans (run_fillPes_found (by rw [ts_noteCounter he]; simpa using hfound) hlen)

include hfound hlen hb

/-- The payload joins the PES in progress (R281). -/
theorem packetEnds_fits (hid : b < (s.ts e).nextPesId)
    (hfits : ((s.ts e).buf b).pesBufLen + bytes.length ≤ (s.ts e).cap s.par y) :
    s.PacketEndsSilently e (fun t => (t.modBuf b (fun r => { r with
      data := sparseSetRun r.data r.pesBufLen bytes
      pesBufLen := r.pesBufLen + bytes.length })).modStream y (fun x => { x with
        streamCont := some (tsHeader s.packet).cc
        pesPacketPos := ((s.ts e).buf b).pesBufLen + bytes.length })) := by
  have hts := ts_noteCounter (s := s) (y := y) he
  have hacc := run_accumulate_fits (s := (s.counted e).modTs e (s.noteCounter y)) (e := e) (y := y) (b := b)
    (bytes := bytes) (by rw [hts]; simpa using hb) (by rw [hts]; simpa using hid) (by
      rw [hts, Ts.cap_congr (t := s.ts e) (by simp)]
      simpa [State.counted] using hfits)
  rw [modTs_modTs] at hacc
  refine packetEndsSilently_stream hs he hon ((run_streamPacket_found he hrun hfound hlen).trans hacc) ?_ ?_
  · simp [State.noteCounter, Ts.filled]
  · constructor <;> simp

/-- Partial demux cuts the PES to the cap (R288). -/
theorem packetEnds_cut (hid : b < (s.ts e).nextPesId) {cap : Nat} (hcap : (s.ts e).cap s.par y = cap)
    (hexceeds : cap < ((s.ts e).buf b).pesBufLen + bytes.length) (hle : ((s.ts e).buf b).pesBufLen ≤ cap)
    (hpartial : (s.ts e).partialDemux = true) :
    s.PacketEndsSilently e (fun t => (t.modBuf b (fun r => { r with
      data := sparseSetRun r.data r.pesBufLen (bytes.take (cap - ((s.ts e).buf b).pesBufLen))
      pesBufLen := cap })).modStream y (fun x => { x with
        streamCont := some (tsHeader s.packet).cc, truncated := true, pesPacketPos := cap })) := by
  have hts := ts_noteCounter (s := s) (y := y) he
  have hcap' : (((s.counted e).modTs e (s.noteCounter y)).ts e).cap s.par y = cap := by
    rw [hts, Ts.cap_congr (t := s.ts e) (by simp), hcap]
  have hbuf : (((s.counted e).modTs e (s.noteCounter y)).ts e).buf b = (s.ts e).buf b := by
    rw [hts]
    simp
  have hacc := run_accumulate_cut (s := (s.counted e).modTs e (s.noteCounter y)) (e := e) (y := y) (b := b)
    (bytes := bytes) (by rw [hts]; simpa using hb) (by rw [hts]; simpa using hid)
    (by rw [hbuf]; exact hcap'.trans_lt hexceeds)
    (by rw [hts, Ts.partialDemux_congr (t := s.ts e) (by simp), hpartial])
  rw [modTs_modTs, hbuf, show ((s.counted e).modTs e (s.noteCounter y)).par = s.par from rfl, hcap'] at hacc
  refine packetEndsSilently_stream hs he hon ((run_streamPacket_found he hrun hfound hlen).trans hacc) ?_ ?_
  · have htake : ((s.ts e).buf b).pesBufLen + (bytes.take (cap - ((s.ts e).buf b).pesBufLen)).length = cap := by
      rw [List.length_take]
      omega
    simp only [State.noteCounter, Ts.filled, Ts.modBuf_modStream, Ts.modStream_modStream, Ts.buf_modStream,
      Ts.buf_recount, htake]
    refine congrArg (Ts.modStream · y _) (Ts.modBuf_congr ?_)
    simp only [Ts.buf_recount, htake]
  · constructor <;> simp

/-- A PES that would exceed the buffer is delivered, and the packet dropped (R281). -/
theorem exec_tsPacket_exceeds (hexceeds : (s.ts e).cap s.par y < ((s.ts e).buf b).pesBufLen + bytes.length)
    (hwhole : (s.ts e).partialDemux = false) (ht : s.tape = c :: rest) (hc : c.quiet) :
    exec (.tsPacket e) s = .next (((s.told [.pes e .pesLargerThanAllocatedBuffer (some b)] rest).modTs e
      (fun d => ((d.recount 0).modBuf b (fun r =>
        { r with state := .delivered, pesTruncated := ((s.ts e).stream y).truncated })).modStream y (fun x =>
          { x with
            curBuf := none, foundFirst := false, streamCont := some (tsHeader s.packet).cc
            pesPacketPos := 0 }))).setStatus .success) := by
  have hts := ts_noteCounter (s := s) (y := y) he
  have hacc := run_accumulate_exceeds (s := (s.counted e).modTs e (s.noteCounter y)) (e := e) (y := y) (b := b)
    (bytes := bytes) (c := c) (rest := rest) (by rw [hts]; simpa using hb)
    (by
      rw [hts, Ts.cap_congr (t := s.ts e) (by simp)]
      simpa [State.counted] using hexceeds)
    (by rw [hts, Ts.partialDemux_congr (t := s.ts e) (by simp), hwhole]) ht hc
  rw [modTs_told, modTs_modTs, ← modTs_told] at hacc
  refine exec_tsPacket_tells hs he hon ((run_streamPacket_found he hrun hfound hlen).trans hacc) ?_
    (by simp [Ts.handed_eq])
  simp [State.noteCounter, Ts.handed_eq]

end

/-- Settles O48: a packet in order adds its payload to what its stream has accumulated. -/
theorem packetAccumulates : Obligations.PacketAccumulates := by
  intro s e b y hs he hon d x afc cc afl n payload have_ cap count counted ends htei
  have htei' : (tsHeader s.packet).tei = false := (tsHeader_tei s).trans htei
  refine ⟨fun hafc => ?discarded, fun hpusi hafc hafl hord => ?accepted⟩
  case discarded =>
    refine packetEndsSilently_stream hs he hon (x := id) (z := id) ?_ rfl (.refl _)
    rw [run_streamPacket_discarded htei' ((tsHeader_afc s).trans hafc), modTs_self _ _ _ rfl]
  case accepted =>
    have hafc' : (tsHeader s.packet).afc = afc := tsHeader_afc s
    have hcc : (tsHeader s.packet).cc = cc := tsHeader_cc s
    have hafl' : (tsHeader s.packet).afl = afl := tsHeader_packet_afl s
    have hcap : d.cap s.par y = cap := by cases y <;> rfl
    have hrun := run_streamPacket_inOrder he htei' ((tsHeader_pusi s).trans hpusi)
      (by rw [hafc']; exact hafc) (by rw [hafl']; exact hafl) (y := y) (by
        intro last hlast
        rw [hcc, expectedCc, TsHeader.hasPayload, hafc']
        exact hord last hlast)
    refine ⟨fun hdrop => ?dropped, fun hfound hpay hlt hb hid => ?found⟩
    case dropped =>
      rw [← hcc]
      refine packetEnds_dropped hs he hon hrun (hdrop.imp_right fun hnone => ?_)
      rcases hnone with hpay | hfull
      · exact tsPayload_none s (by rw [TsHeader.hasPayload, hafc', hpay])
      · cases hpay : (tsHeader s.packet).hasPayload with
        | false => exact tsPayload_none s hpay
        | true =>
          rw [tsPayload_packet s hpay, hafl', hfull]
          rfl
    case found =>
      have hpayload : tsPayload (tsHeader s.packet) s.packet = payload := by
        rw [tsPayload_packet s (by rw [TsHeader.hasPayload, hafc', hpay]), hafl']
      have hlen : payload.length = n := readBytes_length s _ _
      have hpos : 0 < payload.length := by omega
      rw [hpayload] at hrun
      rw [← hcc, ← hlen]
      refine ⟨fun hfits => ?fits, fun hexceeds hle hpartial => ?cut, fun c rest hexceeds hwhole ht hc => ?exceeds⟩
      case fits =>
        exact packetEnds_fits hs he hon hrun hfound hpos hb hid (hfits.trans_eq hcap.symm)
      case cut =>
        exact packetEnds_cut hs he hon hrun hfound hpos hb hid hcap hexceeds hle hpartial
      case exceeds =>
        exact exec_tsPacket_exceeds hs he hon hrun hfound hpos hb (hcap.trans_lt hexceeds) hwhole ht hc

end Sys2Proof.Machine
end

section
/-! PROOF. TS_PACKET of a packet that starts a PES (obligation O49; 45_ts_demux.md R278 to R280, R282, R283): the
buffer it starts in is the current one, the head of the free queue or a fresh one, whatever came before. -/

namespace Sys2Proof.Machine

variable {e b : Nat} {s : State} {y : StreamType} {c : Draw} {rest : List Draw}

/-! ### The three buffers that a PES can start in (R280, R282) -/

/-- The stream whose PES has started in buffer `b` and holds `n` bytes. -/
def Stream.openedIn (b : Nat) (cc : BitVec 4) (n : Nat) (x : Stream) : Stream :=
  { x with
    curBuf := some b, foundFirst := true, truncated := false, streamCont := some cc, pesPacketPos := n }

section

variable (t : Ts) (y : StreamType) (b : Nat) (q : List Nat) (cc : BitVec 4) (ts : Word) (bytes : List Byte)
  (n : Nat)

/-- The PES has started in the current buffer `b`. -/
def Ts.keptPes : Ts :=
  (t.modBuf b (fun r => { r with
    startTSPacketTimeStamp := ts, data := sparseSetRun r.data 0 bytes, pesBufLen := n })).modStream y
      (Stream.openedIn b cc n)

/-- The PES has started in buffer `b`, taken from the free queue with `q` left in it. -/
def Ts.takenPes : Ts :=
  ((t.setPesFree y q).modBuf b (fun r => { r with
    state := .filling, pesTruncated := false, startTSPacketTimeStamp := ts
    data := sparseSetRun r.data 0 bytes, pesBufLen := n })).modStream y (Stream.openedIn b cc n)

/-- The PES has started in a fresh buffer. -/
def Ts.freshPes : Ts :=
  ({ t with bufs := t.bufs ++ [{
      stype := y, data := sparseSetRun [] 0 bytes, pesBufLen := n, startTSPacketTimeStamp := ts
      state := .filling, pesTruncated := false }] } : Ts).modStream y (Stream.openedIn t.bufs.length cc n)

end

/-- From the record `t` a PES starts with `bytes`, and `u` is the record after it. -/
def Ts.Starts (t : Ts) (y : StreamType) (ts : Word) (bytes : List Byte) (u : Ts) : Prop :=
  (t.readied y).mode = t.mode ∧ ∃ b, ((t.readied y).stream y).curBuf = some b ∧
    b < (t.readied y).nextPesId ∧ (t.readied y).opened y b ts bytes = u

theorem Ts.allocCurrent_cons {t : Ts} {q : List Nat} (hq : t.pesFree y = b :: q) : t.allocCurrent y =
    ((t.setPesFree y q).modBuf b (fun r =>
      { r with state := .filling, pesBufLen := 0, pesTruncated := false })).modStream y
        (fun x => { x with curBuf := some b }) := by
  simp only [Ts.allocCurrent, hq]

theorem Ts.allocCurrent_nil {t : Ts} (hq : t.pesFree y = []) : t.allocCurrent y =
    ({ t with bufs := t.bufs ++ [{ PesBuf.reset y with state := .filling }] } : Ts).modStream y
      (fun x => { x with curBuf := some t.bufs.length }) := by
  simp only [Ts.allocCurrent, hq]
  rfl

theorem Ts.stream_store (t : Ts) (bufs : List PesBuf) (y : StreamType) :
    ({ t with bufs := bufs } : Ts).stream y = t.stream y := by cases y <;> rfl

/-- The buffer at the end of the store, changed. -/
theorem Ts.modBuf_last (t : Ts) (r : PesBuf) (f : PesBuf → PesBuf) :
    ({ t with bufs := t.bufs ++ [r] } : Ts).modBuf t.bufs.length f = { t with bufs := t.bufs ++ [f r] } := by
  simp [Ts.modBuf, Ts.buf]

section

variable {t : Ts} {g : Stream → Stream} {cc : BitVec 4} {ts : Word} {bytes : List Byte} {n : Nat}
  (hcc : (g (t.stream y)).streamCont = some cc) (hn : bytes.length = n)

include hcc hn

theorem Ts.starts_kept (hb : (g (t.stream y)).curBuf = some b) (hid : b < t.nextPesId) :
    (t.modStream y g).Starts y ts bytes (t.keptPes y b cc ts bytes n) := by
  subst hn
  have hcur : ((t.modStream y g).stream y).curBuf = some b := by simpa using hb
  refine ⟨by rw [Ts.readied_some hcur], b, ?_, ?_, ?_⟩
  · rw [Ts.readied_some hcur, hcur]
  · rw [Ts.readied_some hcur]
    simpa using hid
  · rw [Ts.readied_some hcur, Ts.opened, Ts.keptPes, Ts.modBuf_modStream, Ts.modStream_modStream]
    refine Ts.modStream_congr ?_
    simp [Stream.openedIn, hb, hcc]

theorem Ts.starts_taken {q : List Nat} (hb : (g (t.stream y)).curBuf = none) (hq : t.pesFree y = b :: q)
    (hid : b < t.nextPesId) :
    (t.modStream y g).Starts y ts bytes (t.takenPes y b q cc ts bytes n) := by
  subst hn
  have hready : (t.modStream y g).readied y = ((t.setPesFree y q).modBuf b (fun r =>
      { r with state := .filling, pesBufLen := 0, pesTruncated := false })).modStream y
        (fun x => { g x with curBuf := some b }) := by
    rw [Ts.readied_none (by simpa using hb), Ts.allocCurrent_cons (b := b) (q := q) (by simpa using hq)]
    simp
  refine ⟨by simp [hready], b, by simp [hready], by simpa [hready] using hid, ?_⟩
  rw [hready, Ts.opened, Ts.takenPes, Ts.modBuf_modStream, Ts.modBuf_modBuf, Ts.modStream_modStream]
  refine Ts.modStream_congr ?_
  simp [Stream.openedIn, hcc]

theorem Ts.starts_fresh (hb : (g (t.stream y)).curBuf = none) (hq : t.pesFree y = []) :
    (t.modStream y g).Starts y ts bytes (t.freshPes y cc ts bytes n) := by
  subst hn
  have hready : (t.modStream y g).readied y =
      ({ t with bufs := t.bufs ++ [{ PesBuf.reset y with state := .filling }] } : Ts).modStream y
        (fun x => { g x with curBuf := some t.bufs.length }) := by
    rw [Ts.readied_none (by simpa using hb), Ts.allocCurrent_nil (by simpa using hq)]
    cases y <;> rfl
  refine ⟨by simp [hready], t.bufs.length, by simp [hready], by simp [hready, Ts.nextPesId], ?_⟩
  rw [hready, Ts.opened, Ts.freshPes, Ts.modBuf_modStream, Ts.modBuf_last, Ts.modStream_modStream]
  refine Ts.modStream_congr ?_
  rw [Ts.stream_store]
  simp [Stream.openedIn, hcc]

end

/-! ### Runs (R274, R280) -/

section

variable {h : TsHeader} {ts : Word} {bytes : List Byte} {u : Ts}

theorem run_acceptPacket_started (hpusi : h.pusi = true) : acceptPacket e y h ts bytes s =
    (startPes e y ts >>= fun _ => fillPes e y bytes)
      (s.modTs e (·.modStream y (fun x => { x with streamCont := some h.cc }))) := by
  rw [acceptPacket, run_bind, run_modTs]
  simp only [hpusi, if_true]

variable {t : Ts} (he : e < s.inst.length)

include he

/-- A PES starts where none is in progress. -/
theorem run_take_fill_starts (hts : s.ts e = t) (hstarts : t.Starts y ts bytes u)
    (hfits : bytes.length ≤ t.cap s.par y) :
    (takePes e y ts >>= fun _ => fillPes e y bytes) s = .ok () (s.modTs e (fun _ => u)) := by
  subst hts
  obtain ⟨hmode, b, hb, hid, hopened⟩ := hstarts
  rw [run_take_fill he hb hid (by rw [Ts.cap_congr hmode]; exact hfits)]
  exact congrArg _ (modTs_congr hopened)

theorem run_start_fill_empty (hts : s.ts e = t)
    (hempty : ∀ b, (t.stream y).curBuf = some b → (t.buf b).pesBufLen = 0)
    (hstarts : t.Starts y ts bytes u) (hfits : bytes.length ≤ t.cap s.par y) :
    (startPes e y ts >>= fun _ => fillPes e y bytes) s = .ok () (s.modTs e (fun _ => u)) := by
  rw [← run_take_fill_starts he hts hstarts hfits, run_bind, run_bind,
    run_startPes_empty (by rw [hts]; exact hempty)]

/-- A PES starts once the one in progress has been delivered. -/
theorem run_start_fill_filled (hts : s.ts e = t) (hb : (t.stream y).curBuf = some b)
    (hlen : 0 < (t.buf b).pesBufLen) (ht : s.tape = c :: rest) (hc : c.quiet)
    (hstarts : (t.handed y b).Starts y ts bytes u) (hfits : bytes.length ≤ t.cap s.par y) :
    (startPes e y ts >>= fun _ => fillPes e y bytes) s =
      .ok () ((s.told [.pes e .pesReceived (some b)] rest).modTs e (fun _ => u)) := by
  subst hts
  have hrun := run_take_fill_starts
    (s := (s.told [.pes e .pesReceived (some b)] rest).modTs e (·.handed y b)) (by simpa using he)
    (ts_modTs_same (s.told [.pes e .pesReceived (some b)] rest) _ he) hstarts
    (by rw [Ts.cap_congr (t := s.ts e) (by simp [Ts.handed_eq])]; exact hfits)
  rw [run_bind] at hrun
  rw [run_bind, run_startPes_filled hb hlen ht hc, hrun, modTs_modTs]

end

/-- A discarded PES leaves the current buffer empty. -/
theorem Ts.dropPartial_empty (t : Ts) (y : StreamType) (b : Nat)
    (hb : ((t.dropPartial y).stream y).curBuf = some b) : ((t.dropPartial y).buf b).pesBufLen = 0 := by
  rw [Ts.dropPartial, Ts.emptyCurrent_eq] at hb
  have hcur : (t.stream y).curBuf = some b := by simpa [Ts.stream_store] using hb
  rw [Ts.dropPartial, Ts.emptyCurrent, hcur, Ts.buf_modStream, Ts.buf_modBuf]
  split
  · rfl
  · next hout =>
    have hbeyond : t.bufs.length ≤ b := Nat.le_of_not_lt fun hlt => hout ⟨rfl, hlt⟩
    rw [Ts.buf, List.getD_eq_default _ _ hbeyond]
    rfl

/-! ### The packet -/

section

variable {u : Ts} {z : Ts → Ts} (hs : s.idle) (he : e < s.inst.length) (hon : s.packetOn e y)
  (htei : (tsHeader s.packet).tei = false) (hpusi : (tsHeader s.packet).pusi = true)
  (hafc : (tsHeader s.packet).afc ≠ 0#2) (hafl : (tsHeader s.packet).afl ≤ 184)
  (hfits : (tsPayload (tsHeader s.packet) s.packet).length ≤ (s.ts e).cap s.par y)

include hs he hon htei hpusi hafc hafl hfits

/-- After a gap the PES in progress is discarded, and the new one starts (R279). -/
theorem exec_tsPacket_gap_starts (hord : ¬ (tsHeader s.packet).inOrder ((s.ts e).stream y))
    (ht : s.tape = c :: rest) (hc : c.quiet)
    (hstarts : (s.noteCounter y (((s.addCount e (s.ts e)).dropPartial y).recount 0)).Starts y s.arg1
      (tsPayload (tsHeader s.packet) s.packet) (z (s.ts e))) (hcount : (z (s.ts e)).pktSinceCb = 0) :
    exec (.tsPacket e) s =
      .next (((s.told [.pes e .discontinuity none] rest).modTs e z).setStatus .success) := by
  have hord' : ¬ (tsHeader s.packet).inOrder (((s.counted e).ts e).stream y) := by
    rw [ts_counted he, Ts.stream_recount]
    exact hord
  have hstart := run_start_fill_empty (s := ((s.counted e).told [.pes e .discontinuity none] rest).modTs e
      (fun t => s.noteCounter y ((t.dropPartial y).recount 0))) (by simpa [State.counted] using he)
    ((ts_modTs_same ((s.counted e).told [.pes e .discontinuity none] rest) _
      (by simpa [State.counted] using he)).trans (by rw [State.told_ts, ts_counted he])) (by
        intro b hb
        rw [State.noteCounter] at hb ⊢
        rw [Ts.buf_modStream, Ts.buf_recount]
        exact Ts.dropPartial_empty _ _ _ (by simpa using hb)) hstarts
    (by
      rw [State.noteCounter, Ts.cap_congr (t := s.ts e) (by simp [Ts.dropPartial, Ts.emptyCurrent_eq])]
      exact hfits)
  have hrun : streamPacket e y s.packet s.arg1 (s.counted e) =
      .ok () (((s.counted e).told [.pes e .discontinuity none] rest).modTs e (fun _ => z (s.ts e))) := by
    rw [run_streamPacket_accepted htei hafc hafl, run_bind, run_continuity_gap hord' (by exact ht) hc]
    dsimp only
    rw [run_acceptPacket_started hpusi, modTs_modTs]
    exact hstart.trans (by rw [modTs_modTs])
  exact exec_tsPacket_tells hs he hon hrun rfl hcount

omit hs hon hfits in
theorem run_streamPacket_starts (hord : (tsHeader s.packet).inOrder ((s.ts e).stream y)) :
    streamPacket e y s.packet s.arg1 (s.counted e) =
      (startPes e y s.arg1 >>= fun _ => fillPes e y (tsPayload (tsHeader s.packet) s.packet))
        ((s.counted e).modTs e (s.noteCounter y)) := by
  have hord' : (tsHeader s.packet).inOrder (((s.counted e).ts e).stream y) := by
    rw [ts_counted he, Ts.stream_recount]
    exact hord
  rw [run_streamPacket_accepted htei hafc hafl, run_bind, run_continuity_inOrder hord']
  dsimp only
  rw [run_acceptPacket_started hpusi]
  rfl

omit hs hon htei hpusi hafc hafl he in
theorem payload_fits_noteCounter : (tsPayload (tsHeader s.packet) s.packet).length ≤
    (s.noteCounter y (s.addCount e (s.ts e))).cap s.par y := by
  rw [State.noteCounter, Ts.cap_congr (t := s.ts e) (by simp)]
  exact hfits

/-- In order, with nothing accumulated. -/
theorem packetEnds_starts (hord : (tsHeader s.packet).inOrder ((s.ts e).stream y))
    (hempty : ∀ b, ((s.ts e).stream y).curBuf = some b → ((s.ts e).buf b).pesBufLen = 0)
    (hstarts : (s.noteCounter y (s.addCount e (s.ts e))).Starts y s.arg1
      (tsPayload (tsHeader s.packet) s.packet) (z (s.addCount e (s.ts e))))
    (hwatch : (s.addCount e (s.ts e)).SameWatch (z (s.addCount e (s.ts e)))) :
    s.PacketEndsSilently e z := by
  have hstart := run_start_fill_empty (by simpa [State.counted] using he) (ts_noteCounter he)
    (by simpa using hempty) hstarts (payload_fits_noteCounter hfits)
  rw [modTs_modTs] at hstart
  exact packetEndsSilently_stream hs he hon
    ((run_streamPacket_starts he htei hpusi hafc hafl hord).trans hstart) rfl hwatch

/-- In order, with a PES accumulated (R280). -/
theorem exec_tsPacket_received_starts (hord : (tsHeader s.packet).inOrder ((s.ts e).stream y))
    (hb : ((s.ts e).stream y).curBuf = some b) (hlen : 0 < ((s.ts e).buf b).pesBufLen)
    (ht : s.tape = c :: rest) (hc : c.quiet)
    (hstarts : ((s.noteCounter y (s.addCount e (s.ts e))).handed y b).Starts y s.arg1
      (tsPayload (tsHeader s.packet) s.packet) (z (s.ts e))) (hcount : (z (s.ts e)).pktSinceCb = 0) :
    exec (.tsPacket e) s =
      .next (((s.told [.pes e .pesReceived (some b)] rest).modTs e z).setStatus .success) := by
  have hstart := run_start_fill_filled (by simpa [State.counted] using he) (ts_noteCounter he)
    (by simpa using hb) (by simpa using hlen) (by exact ht) hc hstarts (payload_fits_noteCounter hfits)
  rw [modTs_told, modTs_modTs, ← modTs_told] at hstart
  exact exec_tsPacket_tells hs he hon ((run_streamPacket_starts he htei hpusi hafc hafl hord).trans hstart) rfl hcount

end

/-! ### The obligation -/

/-! What the start of a PES leaves, for the watchdog. -/

section

variable (t : Ts) (cc : BitVec 4) (ts : Word) (bytes : List Byte) (n : Nat) (q : List Nat)

theorem Ts.sameWatch_keptPes : t.SameWatch (t.keptPes y b cc ts bytes n) := by
  constructor <;> simp [Ts.keptPes]

theorem Ts.sameWatch_takenPes : t.SameWatch (t.takenPes y b q cc ts bytes n) := by
  constructor <;> simp [Ts.takenPes]

theorem Ts.sameWatch_freshPes : t.SameWatch (t.freshPes y cc ts bytes n) := by
  constructor <;> simp [Ts.freshPes]

end

/-- The counter of the packet has been noted behind a gap (R279). -/
def Stream.gapped (cc : BitVec 4) (x : Stream) : Stream :=
  { x with foundFirst := false, truncated := false, pesPacketPos := 0, streamCont := some cc }

theorem noteCounter_gap_none (hb : ((s.ts e).stream y).curBuf = none) :
    s.noteCounter y (((s.addCount e (s.ts e)).dropPartial y).recount 0) =
      ((s.ts e).recount 0).modStream y (Stream.gapped (tsHeader s.packet).cc) := by
  rw [State.noteCounter, Ts.dropPartial_recount, Ts.stream_recount, hb, Ts.modStream_modStream]
  rfl

theorem noteCounter_gap_some (hb : ((s.ts e).stream y).curBuf = some b) :
    s.noteCounter y (((s.addCount e (s.ts e)).dropPartial y).recount 0) =
      (((s.ts e).recount 0).modBuf b (fun r => { r with pesBufLen := 0 })).modStream y
        (Stream.gapped (tsHeader s.packet).cc) := by
  rw [State.noteCounter, Ts.dropPartial_recount, Ts.stream_recount, hb, Ts.modStream_modStream]
  rfl

/-- The length of the PES before the one that starts is of no account. -/
theorem Ts.keptPes_emptied (t : Ts) (cc : BitVec 4) (ts : Word) (bytes : List Byte) (n : Nat) :
    (t.modBuf b (fun r => { r with pesBufLen := 0 })).keptPes y b cc ts bytes n =
      t.keptPes y b cc ts bytes n := by
  rw [Ts.keptPes, Ts.keptPes, Ts.modBuf_modBuf]

/-- The PES before the one that starts has been handed to the client, and the record says so (R280). -/
def Ts.deliveredPes (t : Ts) (b : Nat) (x : Stream) : Ts :=
  t.modBuf b (fun r => { r with state := .delivered, pesTruncated := x.truncated })

theorem noteCounter_handed : (s.noteCounter y (s.addCount e (s.ts e))).handed y b =
    (((s.ts e).recount 0).deliveredPes b ((s.ts e).stream y)).modStream y (fun x =>
      { x with streamCont := some (tsHeader s.packet).cc, curBuf := none, pesPacketPos := 0 }) := by
  simp [State.noteCounter, Ts.handed_eq, Ts.deliveredPes]

/-- Settles O49: for each buffer that the PES can start in, what the packet does in order, behind a gap, and behind
a PES that it ends. -/
theorem packetStartsPes : Obligations.PacketStartsPes := by
  intro s e y hs he hon d x afc cc afl n payload cap count counted inOrder opened kept taken fresh ends tells
    delivered htei hpusi hafc hafl hn
  have htei' : (tsHeader s.packet).tei = false := (tsHeader_tei s).trans htei
  have hpusi' : (tsHeader s.packet).pusi = true := (tsHeader_pusi s).trans hpusi
  have hafcEq : (tsHeader s.packet).afc = afc := tsHeader_afc s
  have haflEq : (tsHeader s.packet).afl = afl := tsHeader_packet_afl s
  have hafc' : (tsHeader s.packet).afc ≠ 0#2 := by rw [hafcEq]; exact hafc
  have hafl' : (tsHeader s.packet).afl ≤ 184 := by rw [haflEq]; exact hafl
  have hcc : (tsHeader s.packet).cc = cc := tsHeader_cc s
  have hpay : (tsHeader s.packet).hasPayload = afc.getLsbD 0 := by rw [TsHeader.hasPayload, hafcEq]
  have hpayload : tsPayload (tsHeader s.packet) s.packet = payload := by
    cases hbit : afc.getLsbD 0 with
    | true => simp only [tsPayload_packet s (hpay.trans hbit), haflEq, payload, n, hbit, if_true]
    | false =>
      have hn0 : n = 0 := if_neg (by rw [hbit]; decide)
      rw [tsPayload_none s (hpay.trans hbit)]
      simp [payload, hn0, State.readBytes]
  have hlen : payload.length = n := readBytes_length s _ _
  have hfits : (tsPayload (tsHeader s.packet) s.packet).length ≤ (s.ts e).cap s.par y := by
    rw [hpayload, hlen]
    exact hn.trans_eq (by cases y <;> rfl)
  have hord : inOrder ↔ (tsHeader s.packet).inOrder x := by
    simp only [inOrder, TsHeader.inOrder, expectedCc, hpay, hcc]
  have hcurEmpty (hb : x.curBuf = none) : ∀ b, ((s.ts e).stream y).curBuf = some b →
      ((s.ts e).buf b).pesBufLen = 0 := fun b hb' => nomatch hb.symm.trans hb'
  refine ⟨fun hb b q hq hid => ⟨fun h => ?takenEnds, fun h c rest ht hc => ?takenGap⟩,
    fun hb hq => ⟨fun h => ?freshEnds, fun h c rest ht hc => ?freshGap⟩,
    fun b hb hid => ⟨fun h hempty => ?keptEnds, fun h c rest ht hc => ?keptGap, fun h hlen' =>
      ⟨fun b' q hq hid' hne c rest ht hc => ?takenReceived, fun hq c rest ht hc => ?freshReceived⟩⟩⟩
  case takenEnds =>
    refine packetEnds_starts (z := fun t => t.takenPes y b q cc s.arg1 payload n) hs he hon htei' hpusi' hafc'
      hafl' hfits (hord.1 h) (hcurEmpty hb) ?_ (Ts.sameWatch_takenPes ..)
    rw [hpayload]
    exact Ts.starts_taken (congrArg some hcc) hlen (by simpa using hb) (by simpa using hq) hid
  case takenGap =>
    refine exec_tsPacket_gap_starts (z := fun t => (t.recount 0).takenPes y b q cc s.arg1 payload n) hs he hon
      htei' hpusi' hafc' hafl' hfits (mt hord.2 h) ht hc ?_ (Ts.sameWatch_takenPes ..).pktSinceCb
    rw [hpayload, noteCounter_gap_none hb]
    exact Ts.starts_taken (congrArg some hcc) hlen (by simpa [Stream.gapped] using hb) (by simpa using hq) hid
  case freshEnds =>
    refine packetEnds_starts (z := fun t => t.freshPes y cc s.arg1 payload n) hs he hon htei' hpusi' hafc'
      hafl' hfits (hord.1 h) (hcurEmpty hb) ?_ (Ts.sameWatch_freshPes ..)
    rw [hpayload]
    exact Ts.starts_fresh (congrArg some hcc) hlen (by simpa using hb) (by simpa using hq)
  case freshGap =>
    refine exec_tsPacket_gap_starts (z := fun t => (t.recount 0).freshPes y cc s.arg1 payload n) hs he hon
      htei' hpusi' hafc' hafl' hfits (mt hord.2 h) ht hc ?_ (Ts.sameWatch_freshPes ..).pktSinceCb
    rw [hpayload, noteCounter_gap_none hb]
    exact Ts.starts_fresh (congrArg some hcc) hlen (by simpa [Stream.gapped] using hb) (by simpa using hq)
  case keptEnds =>
    refine packetEnds_starts (z := fun t => t.keptPes y b cc s.arg1 payload n) hs he hon htei' hpusi' hafc'
      hafl' hfits (hord.1 h) ?_ ?_ (Ts.sameWatch_keptPes ..)
    · intro b' hb'
      obtain rfl : b = b' := Option.some.inj (hb.symm.trans hb')
      exact hempty
    · rw [hpayload]
      exact Ts.starts_kept (congrArg some hcc) hlen (by simpa using hb) hid
  case keptGap =>
    refine exec_tsPacket_gap_starts (z := fun t => (t.recount 0).keptPes y b cc s.arg1 payload n) hs he hon
      htei' hpusi' hafc' hafl' hfits (mt hord.2 h) ht hc ?_ (Ts.sameWatch_keptPes ..).pktSinceCb
    rw [hpayload, noteCounter_gap_some hb, ← Ts.keptPes_emptied]
    exact Ts.starts_kept (congrArg some hcc) hlen (by simpa [Stream.gapped] using hb)
      (by simpa using show b < (s.ts e).nextPesId from hid)
  case takenReceived =>
    refine exec_tsPacket_received_starts
      (z := fun t => ((t.recount 0).deliveredPes b x).takenPes y b' q cc s.arg1 payload n) hs he hon
      htei' hpusi' hafc' hafl' hfits (hord.1 h) hb hlen' ht hc ?_ (Ts.sameWatch_takenPes ..).pktSinceCb
    rw [hpayload, noteCounter_handed]
    exact Ts.starts_taken (congrArg some hcc) hlen rfl (by simpa [Ts.deliveredPes] using hq)
      (by simpa [Ts.deliveredPes] using show b' < (s.ts e).nextPesId from hid')
  case freshReceived =>
    refine exec_tsPacket_received_starts
      (z := fun t => ((t.recount 0).deliveredPes b x).freshPes y cc s.arg1 payload n) hs he hon
      htei' hpusi' hafc' hafl' hfits (hord.1 h) hb hlen' ht hc ?_ (Ts.sameWatch_freshPes ..).pktSinceCb
    rw [hpayload, noteCounter_handed]
    exact Ts.starts_fresh (congrArg some hcc) hlen rfl (by simpa [Ts.deliveredPes] using hq)

end Sys2Proof.Machine
end

section
/-! PROOF. TS_FLUSH (obligation O51; 45_ts_demux.md R287), with the client that gives a buffer back inside its
callback (R289; 60_exceptions.md R319). -/

namespace Sys2Proof.Machine

variable {e b : Nat} {s : State} {y z : StreamType} {c : Draw} {rest : List Draw}

/-! ### A client that gives the buffer back inside its callback (R289) -/

/-- What a client does that releases the PES buffer `b`. -/
def pesReleaseActs (e b : Nat) : List HostAct :=
  [.write .arg0 (BitVec.ofNat 32 b), .write .cmd (encodeWord (.tsReleasePes e))]

/-- The command port after that. -/
def State.pesReleaseIssued (s : State) (e b : Nat) : State :=
  { s with arg0 := BitVec.ofNat 32 b, cmd := encodeWord (.tsReleasePes e), status := 0x00 }

theorem modTs_pesReleaseIssued (s : State) (e b i : Nat) (g : Ts → Ts) :
    (s.pesReleaseIssued e b).modTs i g = (s.modTs i g).pesReleaseIssued e b := rfl

theorem State.setStatus_pesReleaseIssued (s : State) (e b : Nat) :
    (s.pesReleaseIssued e b).setStatus .success = s.pesReleaseIssued e b := rfl

section

variable {o : Out} (hhalt : s.halted = false) (he : e < s.inst.length) (hfits : e ≤ 255) (hword : b < 2 ^ 32)
  (hid : b < (s.ts e).nextPesId) (hstate : ((s.ts e).buf b).state = .delivered)
  (hacts : c.acts = pesReleaseActs e b)

include hhalt he hfits hword hid hstate hacts

theorem State.called_pesRelease : s.called o c rest =
    (((s.modTs e (·.releaseBuf b)).enterCallback o).takeDraw rest).pesReleaseIssued e b := by
  have hwf : (Instr.tsReleasePes e).wellFormed = true := by
    simpa [Instr.wellFormed, instanceFits] using by omega
  have hdecode : decodeCommand (encodeWord (.tsReleasePes e)) = .ok (.tsReleasePes e) :=
    decodeCommand_of_decode (decode_of_encodeWord hwf rfl rfl) rfl
  let v : State := (s.enterCallback o).takeDraw rest
  let w : State := { v with arg0 := BitVec.ofNat 32 b, cmd := encodeWord (.tsReleasePes e) }
  have harg : w.arg0.toNat = b := (BitVec.toNat_ofNat b 32).trans (Nat.mod_eq_of_lt hword)
  have hheld : ¬ ((w.ts e).nextPesId ≤ b ∨ ((w.ts e).buf b).state ≠ .delivered) :=
    not_or.mpr ⟨Nat.not_le.mpr hid, not_not.mpr hstate⟩
  have hrelease : exec (.tsReleasePes e) w = .next ((w.modTs e (·.releaseBuf b)).setStatus .success) := by
    rw [exec_tsReleasePes (s := w) hhalt he, run_tsReleasePes, harg, if_neg hheld]
    rfl
  have hdoes : State.clientDoes (v.clientDoes (.write .arg0 (BitVec.ofNat 32 b)))
      (.write .cmd (encodeWord (.tsReleasePes e))) = _ := clientDoes_command hdecode hrelease
  rw [State.called, hacts]
  change v.clientRan (pesReleaseActs e b) = _
  rw [pesReleaseActs, State.clientRan_cons v _ _ hhalt,
    State.clientRan_cons (v.clientDoes (.write .arg0 (BitVec.ofNat 32 b))) _ _ hhalt, hdoes]
  rfl

theorem run_notify_pesRelease (ht : s.tape = c :: rest) (hreset : c.reset = false) :
    notify o s = .ok () (((s.told [o] rest).modTs e (·.releaseBuf b)).pesReleaseIssued e b) := by
  have hcalled := State.called_pesRelease (o := o) (rest := rest) hhalt he hfits hword hid hstate hacts
  have hgoesOn : ¬ (s.called o c rest).halted = true := by
    rw [hcalled]
    exact fun h => Bool.false_ne_true (hhalt.symm.trans h)
  rw [run_notify_called hhalt ht, if_neg hgoesOn, if_neg (by simp [hreset]), hcalled]
  rfl

end

/-! ### One stream (R287) -/

theorem run_flushStream_empty
    (hempty : ∀ b, ((s.ts e).stream y).curBuf = some b → ((s.ts e).buf b).pesBufLen = 0) :
    flushStream e y s = .ok () (s.modTs e (·.modStream y Stream.wiped)) := by
  rw [flushStream, run_bind, run_getTs]
  simp only [Ts.hasPartial_of_empty hempty, Bool.false_eq_true, if_false]
  rfl

/-- Buffers that hold bytes have been created. -/
theorem Ts.lt_nextPesId_of_filled {t : Ts} (hlen : 0 < (t.buf b).pesBufLen) : b < t.nextPesId := by
  by_contra hout
  rw [Ts.buf, List.getD_eq_default _ _ (Nat.not_lt.mp hout)] at hlen
  exact absurd hlen (by decide)

section

variable (hb : ((s.ts e).stream y).curBuf = some b) (hlen : 0 < ((s.ts e).buf b).pesBufLen)
  (ht : s.tape = c :: rest)

include hb hlen ht

theorem run_flushStream_filled (hc : c.quiet) :
    flushStream e y s = .ok () ((s.told [.pes e .flushedPesBuffer (some b)] rest).modTs e (fun t =>
      (t.handed y b).modStream y Stream.wiped)) := by
  rw [flushStream, run_bind, run_getTs]
  simp only [Ts.hasPartial_of_filled hb hlen, if_true]
  rw [run_bind, run_deliver ht hc hb]
  dsimp only
  rw [run_modTs, modTs_modTs]
  rfl

/-- The client gives the buffer back before the stream starts afresh. -/
theorem run_flushStream_released (hhalt : s.halted = false) (he : e < s.inst.length) (hfits : e ≤ 255)
    (hword : b < 2 ^ 32) (hacts : c.acts = pesReleaseActs e b) (hreset : c.reset = false) :
    flushStream e y s = .ok () (((s.told [.pes e .flushedPesBuffer (some b)] rest).modTs e (fun t =>
      ((t.handed y b).releaseBuf b).modStream y Stream.wiped)).pesReleaseIssued e b) := by
  have hid : b < (s.ts e).nextPesId := Ts.lt_nextPesId_of_filled hlen
  have hts : (s.modTs e (·.handed y b)).ts e = (s.ts e).handed y b := ts_modTs_same s _ he
  have hnotify := run_notify_pesRelease (s := s.modTs e (·.handed y b)) (b := b)
    (o := .pes e .flushedPesBuffer (some b)) hhalt (by simpa using he) hfits hword
    (by rw [hts, Ts.handed_eq]; simpa using hid)
    (by rw [hts, Ts.handed_eq, Ts.buf_modStream, Ts.buf_modBuf_same _ (by exact hid)]) hacts ht hreset
  have hdeliver : deliver e y .flushedPesBuffer s =
      notify (.pes e .flushedPesBuffer (some b)) (s.modTs e (·.handed y b)) := by
    rw [deliver, run_bind, run_getTs]
    simp only [hb]
    rw [run_bind, run_modTs]
    dsimp only
    rw [notifyPes, run_bind, run_modTs, modTs_modTs]
    rfl
  rw [flushStream, run_bind, run_getTs]
  simp only [Ts.hasPartial_of_filled hb hlen, if_true]
  rw [run_bind, hdeliver, hnotify]
  dsimp only
  rw [run_modTs, modTs_pesReleaseIssued, modTs_told, modTs_modTs, modTs_told, modTs_modTs]
  rfl

end

/-! ### Both streams, video first (R287) -/

theorem Ts.modStream_comm (t : Ts) (hyz : y ≠ z) (g k : Stream → Stream) :
    (t.modStream y g).modStream z k = (t.modStream z k).modStream y g := by
  cases y <;> cases z
  · exact absurd rfl hyz
  · rfl
  · rfl
  · exact absurd rfl hyz

theorem Ts.handed_modStream (t : Ts) (hyz : y ≠ z) (b : Nat) (g : Stream → Stream) :
    (t.modStream z g).handed y b = (t.handed y b).modStream z g := by
  have hother : (t.modStream z g).stream y = t.stream y := by simp [hyz.symm]
  rw [Ts.handed_eq, Ts.handed_eq, hother, Ts.recount_modStream, Ts.modBuf_modStream, Ts.modStream_comm _ hyz.symm]

theorem Ts.releaseBuf_modStream (t : Ts) (b : Nat) (g : Stream → Stream) :
    (t.modStream z g).releaseBuf b = (t.releaseBuf b).modStream z g := by
  simp [Ts.releaseBuf]

/-- What a flush makes of the streams, of which `y` has been delivered. -/
def Ts.flushed (t : Ts) (y z : StreamType) : Ts :=
  ((t.recount 0).modStream y (fun x => { x.wiped with curBuf := none })).modStream z Stream.wiped

/-- The current buffer `b` has been delivered by a flush. -/
theorem Ts.flushed_handed (t : Ts) (y z : StreamType) (b : Nat) :
    ((t.handed y b).modStream y Stream.wiped).modStream z Stream.wiped =
      (t.flushed y z).modBuf b (fun r =>
        { r with state := .delivered, pesTruncated := (t.stream y).truncated }) := by
  simp [Ts.handed_eq, Ts.flushed, Stream.wiped]

/-- The client has given it back. -/
theorem Ts.flushed_released (t : Ts) (hid : b < t.nextPesId) :
    (((t.handed y b).releaseBuf b).modStream y Stream.wiped).modStream z Stream.wiped =
      ((t.flushed y z).modBuf b (fun r =>
        { r with state := .free, pesBufLen := 0, pesTruncated := false })).setPesFree
          (t.buf b).stype (t.pesFree (t.buf b).stype ++ [b]) := by
  have hstype : ((t.handed y b).buf b).stype = (t.buf b).stype := by
    rw [Ts.handed_eq, Ts.buf_modStream, Ts.buf_modBuf_same _ (by exact hid)]
    rfl
  rw [Ts.releaseBuf, hstype, Ts.handed_eq]
  simp [Ts.flushed, Stream.wiped]

/-- The client to which a flush hands the buffer `b`: it does nothing, or it gives the buffer back. -/
inductive FlushClient (e b : Nat) (c : Draw) : Bool → Prop
  | quiet (hc : c.quiet) : FlushClient e b c false
  | releases (hacts : c.acts = pesReleaseActs e b) (hreset : c.reset = false) (hfits : e ≤ 255)
      (hword : b < 2 ^ 32) : FlushClient e b c true

/-- The command port after the client, which has `released` the buffer or not. -/
def State.flushReplied (s : State) (e b : Nat) (released : Bool) : State :=
  if released then s.pesReleaseIssued e b else s

/-- The stream has been flushed and its client has `released` the buffer `b` or not. -/
def Ts.flushedOne (t : Ts) (y : StreamType) (b : Nat) (released : Bool) : Ts :=
  (if released then (t.handed y b).releaseBuf b else t.handed y b).modStream y Stream.wiped

theorem Ts.pesBufLen_handed (t : Ts) (y : StreamType) (b a : Nat) :
    ((t.handed y b).buf a).pesBufLen = (t.buf a).pesBufLen := by
  rw [Ts.handed_eq, Ts.buf_modStream, Ts.buf_modBuf]
  split
  · next h =>
    obtain ⟨rfl, -⟩ := h
    rfl
  · rfl

section

variable {released : Bool}

theorem modTs_flushReplied (s : State) (e b i : Nat) (g : Ts → Ts) :
    (s.flushReplied e b released).modTs i g = (s.modTs i g).flushReplied e b released := by
  cases released <;> rfl

theorem ts_flushReplied (s : State) (e b i : Nat) : (s.flushReplied e b released).ts i = s.ts i := by
  cases released <;> rfl

theorem Ts.flushedOne_modStream (t : Ts) (hyz : y ≠ z) (b : Nat) (g : Stream → Stream) :
    (t.modStream z g).flushedOne y b released = (t.flushedOne y b released).modStream z g := by
  cases released
  · rw [Ts.flushedOne, Ts.flushedOne, if_neg Bool.false_ne_true, if_neg Bool.false_ne_true,
      Ts.handed_modStream t hyz, Ts.modStream_comm _ hyz.symm]
  · rw [Ts.flushedOne, Ts.flushedOne, if_pos rfl, if_pos rfl, Ts.handed_modStream t hyz, Ts.releaseBuf_modStream,
      Ts.modStream_comm _ hyz.symm]

/-- A flush of one stream leaves the other's current buffer. -/
theorem Ts.curBuf_flushedOne (t : Ts) (hyz : y ≠ z) (b : Nat) :
    ((t.flushedOne y b released).stream z).curBuf = (t.stream z).curBuf := by
  cases released <;> simp [Ts.flushedOne, Ts.handed_eq, Ts.releaseBuf, hyz]

/-- A flush fills no buffer. -/
theorem Ts.pesBufLen_flushedOne (t : Ts) (y : StreamType) (b a : Nat) (hempty : (t.buf a).pesBufLen = 0) :
    ((t.flushedOne y b released).buf a).pesBufLen = 0 := by
  have hhanded : ((t.handed y b).buf a).pesBufLen = 0 := (t.pesBufLen_handed y b a).trans hempty
  cases released with
  | false =>
    rw [Ts.flushedOne, if_neg Bool.false_ne_true, Ts.buf_modStream]
    exact hhanded
  | true =>
    rw [Ts.flushedOne, if_pos rfl, Ts.releaseBuf, Ts.buf_modStream, Ts.buf_setPesFree, Ts.buf_modBuf]
    split
    · rfl
    · exact hhanded

theorem run_flushStream_told (hb : ((s.ts e).stream y).curBuf = some b) (hlen : 0 < ((s.ts e).buf b).pesBufLen)
    (ht : s.tape = c :: rest) (hhalt : s.halted = false) (he : e < s.inst.length)
    (hc : FlushClient e b c released) :
    flushStream e y s = .ok () (((s.told [.pes e .flushedPesBuffer (some b)] rest).modTs e
      (·.flushedOne y b released)).flushReplied e b released) := by
  cases hc with
  | quiet hc => exact run_flushStream_filled hb hlen ht hc
  | releases hacts hreset hfits hword =>
    exact run_flushStream_released hb hlen ht hhalt he hfits hword hacts hreset

/-- Both streams have been flushed, the audio one after the video one. -/
theorem Ts.flushedOne_both (t : Ts) (v a : Nat) : (t.flushedOne .video v false).flushedOne .audio a false =
    (({ t with
        pktSinceCb := 0, video := { t.video.wiped with curBuf := none }
        audio := { t.audio.wiped with curBuf := none } } : Ts).modBuf v (fun r =>
      { r with state := .delivered, pesTruncated := t.video.truncated })).modBuf a (fun r =>
        { r with state := .delivered, pesTruncated := t.audio.truncated }) := by
  simp only [Ts.flushedOne, Ts.handed_eq, Bool.false_eq_true, if_false]
  rfl

end

/-! ### The command -/

theorem exec_tsFlush_of_run {u : State} (hs : s.idle) (he : e < s.inst.length) (hrun : tsFlush e s = .ok () u) :
    exec (.tsFlush e) s = .next (u.setStatus .success) := by
  have hexec : exec (.tsFlush e) s = .next (endCommand (tsFlushBody e s)) :=
    asCommand_run_instance rfl hs.1 he (.inl hs.2)
  rw [hexec, tsFlushBody, run_bind, hrun]
  rfl

/-- A stream that has accumulated nothing. -/
def State.pesEmpty (s : State) (e : Nat) (y : StreamType) : Prop :=
  ∀ b, ((s.ts e).stream y).curBuf = some b → ((s.ts e).buf b).pesBufLen = 0

theorem run_tsFlush_empty (he : e < s.inst.length) (hvideo : s.pesEmpty e .video) (haudio : s.pesEmpty e .audio) :
    tsFlush e s =
      .ok () (s.modTs e (fun t => (t.modStream .video Stream.wiped).modStream .audio Stream.wiped)) := by
  have hts : (s.modTs e (·.modStream .video Stream.wiped)).ts e = (s.ts e).modStream .video Stream.wiped :=
    ts_modTs_same s _ he
  rw [tsFlush, run_bind, run_flushStream_empty hvideo]
  dsimp only
  rw [run_flushStream_empty (by rw [hts]; simpa [State.pesEmpty] using haudio), modTs_modTs]

/-- One stream has accumulated a PES: the other's flush makes no callback, before or after it. -/
theorem run_tsFlush_one {released : Bool} (hhalt : s.halted = false) (he : e < s.inst.length) (hyz : y ≠ z)
    (hempty : s.pesEmpty e z) (hb : ((s.ts e).stream y).curBuf = some b)
    (hlen : 0 < ((s.ts e).buf b).pesBufLen) (ht : s.tape = c :: rest) (hc : FlushClient e b c released) :
    tsFlush e s = .ok () (((s.told [.pes e .flushedPesBuffer (some b)] rest).modTs e (fun t =>
      (t.flushedOne y b released).modStream z Stream.wiped)).flushReplied e b released) := by
  cases y with
  | video =>
    obtain rfl : z = .audio := by cases z with
      | video => exact absurd rfl hyz
      | audio => rfl
    have hts : ((s.told [.pes e .flushedPesBuffer (some b)] rest).modTs e (·.flushedOne .video b released)).ts e =
        (s.ts e).flushedOne .video b released :=
      ts_modTs_same (s.told [.pes e .flushedPesBuffer (some b)] rest) _ he
    rw [tsFlush, run_bind, run_flushStream_told hb hlen ht hhalt he hc]
    dsimp only
    rw [run_flushStream_empty, modTs_flushReplied, modTs_modTs]
    intro a ha
    rw [ts_flushReplied, hts] at ha ⊢
    rw [Ts.curBuf_flushedOne _ hyz] at ha
    exact Ts.pesBufLen_flushedOne _ _ _ _ (hempty a ha)
  | audio =>
    obtain rfl : z = .video := by cases z with
      | video => rfl
      | audio => exact absurd rfl hyz
    have hts : (s.modTs e (·.modStream .video Stream.wiped)).ts e = (s.ts e).modStream .video Stream.wiped :=
      ts_modTs_same s _ he
    rw [tsFlush, run_bind, run_flushStream_empty hempty]
    dsimp only
    rw [run_flushStream_told (s := s.modTs e (·.modStream .video Stream.wiped)) (by rw [hts]; simpa using hb)
      (by rw [hts]; simpa using hlen) ht hhalt (by simpa using he) hc, modTs_told, modTs_modTs, modTs_told]
    simp only [Ts.flushedOne_modStream _ hyz]

/-- Both streams have accumulated a PES. -/
theorem run_tsFlush_both {v a : Nat} {ds : List Draw} (hhalt : s.halted = false) (he : e < s.inst.length)
    (hv : (s.ts e).video.curBuf = some v) (hvlen : 0 < ((s.ts e).buf v).pesBufLen)
    (ha : (s.ts e).audio.curBuf = some a) (halen : 0 < ((s.ts e).buf a).pesBufLen)
    (hanswers : s.answers ds rest 2) :
    tsFlush e s = .ok ()
      ((s.told [.pes e .flushedPesBuffer (some v), .pes e .flushedPesBuffer (some a)] rest).modTs e (fun t =>
        (t.flushedOne .video v false).flushedOne .audio a false)) := by
  obtain ⟨d, es, rfl, hd, htape, hes, hquiet⟩ := State.answers_succ hanswers
  obtain ⟨d', rfl⟩ := List.length_eq_one_iff.mp hes
  rw [List.cons_append, List.nil_append] at htape
  have hd' : d'.quiet := hquiet d' List.mem_cons_self
  have hts : ((s.told [.pes e .flushedPesBuffer (some v)] (d' :: rest)).modTs e
      (·.flushedOne .video v false)).ts e = (s.ts e).flushedOne .video v false :=
    ts_modTs_same (s.told [.pes e .flushedPesBuffer (some v)] (d' :: rest)) _ he
  have hkept : (((s.ts e).flushedOne .video v false).buf a).pesBufLen = ((s.ts e).buf a).pesBufLen := by
    rw [Ts.flushedOne, if_neg Bool.false_ne_true, Ts.buf_modStream, Ts.pesBufLen_handed]
  rw [tsFlush, run_bind, run_flushStream_told (y := .video) hv hvlen htape hhalt he (.quiet hd)]
  dsimp only
  rw [State.flushReplied, if_neg Bool.false_ne_true, run_flushStream_told (y := .audio)
    (s := (s.told [.pes e .flushedPesBuffer (some v)] (d' :: rest)).modTs e (·.flushedOne .video v false))
    (by rw [hts, Ts.curBuf_flushedOne _ (by decide)]; exact ha) (by rw [hts, hkept]; exact halen) rfl hhalt
    (by simpa using he) (.quiet hd'), State.flushReplied, if_neg Bool.false_ne_true]
  simp only [modTs_told, modTs_modTs, State.told_told, List.cons_append, List.nil_append]

/-- Settles O51: by which streams have accumulated a PES, and what the client of a lone one does. -/
theorem flushResult : Obligations.FlushResult := by
  intro s e hs he d empty wiped
  refine ⟨fun hvideo haudio => ?none, fun y z b c rest hyz hempty hb hlen ht => ?one,
    fun v a ds rest hv hvlen ha halen hanswers => ?both⟩
  case none =>
    rw [exec_tsFlush_of_run hs he (run_tsFlush_empty he hvideo haudio)]
    rfl
  case one =>
    intro told flushed
    have hid : b < d.nextPesId := Ts.lt_nextPesId_of_filled hlen
    refine ⟨fun hc => ?quiet, fun hacts hreset hfits hword => ?releases⟩
    case quiet =>
      rw [exec_tsFlush_of_run hs he (run_tsFlush_one hs.1 he hyz hempty hb hlen ht (.quiet hc)), State.flushReplied,
        if_neg Bool.false_ne_true]
      refine congrArg (fun u : State => Host.Outcome.next (u.setStatus .success)) (modTs_congr ?_)
      exact Ts.flushed_handed d y z b
    case releases =>
      rw [exec_tsFlush_of_run hs he (run_tsFlush_one hs.1 he hyz hempty hb hlen ht
        (.releases hacts hreset hfits hword)), State.flushReplied, if_pos rfl,
        State.setStatus_pesReleaseIssued]
      refine congrArg (fun u : State => Host.Outcome.next (u.pesReleaseIssued e b)) (modTs_congr ?_)
      exact Ts.flushed_released d hid
  case both =>
    rw [exec_tsFlush_of_run hs he (run_tsFlush_both hs.1 he hv hvlen ha halen hanswers)]
    refine congrArg (fun u : State => Host.Outcome.next (u.setStatus .success)) (modTs_congr ?_)
    exact Ts.flushedOne_both d v a

end Sys2Proof.Machine
end

section
/-! PROOF. What CSR_READ answers for every CSR and what CSR_WRITE refuses (obligations O18 and O21). The
tables of the obligations are tied to the model's `csrAt`: the rows read are the CSRs of the four units in
order, and the rows refused are found by their access type or by their one legal set. -/

namespace Sys2Proof.Machine

/-! ### The CSRs of the four units -/

/-- The rows (unit, index, value read) of one unit's CSRs. -/
def unitRows (x : Inst) (u : Nat) (cs : List Csr) : List (Nat × Nat × Nat) :=
  cs.zipIdx.map fun c => (u, c.2, (c.1.value x).toNat)

/-- The rows (unit, index, value read) of every CSR of an instance. -/
def csrRows (x : Inst) : List (Nat × Nat × Nat) :=
  unitRows x 3 engCsrs ++ unitRows x 4 dvrCsrs ++ unitRows x 5 dvtCsrs ++ unitRows x 6 tsCsrs

theorem mem_unitRows {x : Inst} {u w n v : Nat} {cs : List Csr} :
    (w, n, v) ∈ unitRows x u cs ↔ w = u ∧ ∃ c, cs[n]? = some c ∧ v = (c.value x).toNat := by
  simp only [unitRows, List.mem_map, Prod.exists, List.mem_zipIdx_iff_getElem?, Prod.mk.injEq]
  constructor
  · rintro ⟨c, k, hc, rfl, rfl, rfl⟩
    exact ⟨rfl, c, hc, rfl⟩
  · rintro ⟨rfl, c, hc, rfl⟩
    exact ⟨c, n, hc, rfl, rfl, rfl⟩

theorem csrAt_of_mem_csrRows {x : Inst} {u n v : Nat} (h : (u, n, v) ∈ csrRows x) :
    ∃ c, csrAt u n = some c ∧ v = (c.value x).toNat := by
  simp only [csrRows, List.mem_append, mem_unitRows] at h
  rcases h with ((⟨rfl, h⟩ | ⟨rfl, h⟩) | ⟨rfl, h⟩) | ⟨rfl, h⟩ <;> exact h

/-- Which pairs of a unit and an index name no CSR (10_state.md R25). -/
theorem csrAt_eq_none {u n : Nat}
    (h : ¬ (u = 3 ∧ n ≤ 0x0F ∨ u = 4 ∧ n ≤ 0x08 ∨ u = 5 ∧ n ≤ 0x0B ∨ u = 6 ∧ n ≤ 0x0B)) :
    csrAt u n = none := by
  unfold csrAt
  split_ifs with h3 h4 h5 h6
  · exact List.getElem?_eq_none (show 16 ≤ n by omega)
  · exact List.getElem?_eq_none (show 9 ≤ n by omega)
  · exact List.getElem?_eq_none (show 12 ≤ n by omega)
  · exact List.getElem?_eq_none (show 12 ≤ n by omega)
  · rfl

/-! ### The numbers of the composite words -/

theorem Kind.toNat_code (k : Kind) :
    k.code.toNat = match k with | .dvrx => 0 | .dvtx => 1 | .urx => 2 | .utx => 3 := by
  cases k <;> rfl

theorem FrameState.toNat_code (t : FrameState) :
    t.code.toNat = match t with | .free => 0 | .filling => 1 | .dispatched => 2 := by
  cases t <;> rfl

/-- A flag set counts its bit. -/
theorem ite_two_pow (b : Bool) (n : Nat) : (if b = true then 2 ^ n else 0) = b.toNat * 2 ^ n := by
  cases b <;> simp

/-- A field of one bit is its flag. -/
theorem toNat_flag (b : Bool) : (BitVec.ofBool b).toNat = if b = true then 2 ^ 0 else 0 := by
  cases b <;> rfl

/-- Of two fields side by side the upper one counts in units of the lower one's size. -/
theorem toNat_append_field {j k : Nat} (a : BitVec j) (b : BitVec k) :
    (a ++ b).toNat = b.toNat + a.toNat * 2 ^ k := by
  rw [BitVec.toNat_append, ← Nat.shiftLeft_add_eq_or_of_lt b.isLt, Nat.shiftLeft_eq, Nat.add_comm]

theorem Eng.toNat_transport (g : Eng) :
    g.transport.toNat = (if g.running then 2 ^ 0 else 0) + (if g.setupDone then 2 ^ 1 else 0) +
      (if decide (0 < g.finalizeOwed) then 2 ^ 2 else 0) + (if g.fatal then 2 ^ 3 else 0) +
      (if g.firstCallback then 2 ^ 4 else 0) := by
  rw [Eng.transport, BitVec.toNat_setWidth_of_le (by decide)]
  simp only [toNat_append_field, BitVec.toNat_ofBool, ite_two_pow]
  omega

theorem Eng.toNat_watchdog (g : Eng) :
    g.watchdog.toNat = (if g.wdRegistered then 2 ^ 0 else 0) + (if g.wdArmed then 2 ^ 1 else 0) := by
  rw [Eng.watchdog, BitVec.toNat_setWidth_of_le (by decide)]
  simp only [toNat_append_field, BitVec.toNat_ofBool, ite_two_pow]
  omega

theorem toNat_frameIndexWord (f : Option Nat) :
    (frameIndexWord f).toNat = match f with | some f => 2 ^ 15 + f % 2 ^ 15 | none => 0 := by
  cases f with
  | none => rfl
  | some f =>
    rw [frameIndexWord, BitVec.toNat_setWidth_of_le (by decide), toNat_append_field, BitVec.toNat_ofNat]
    exact Nat.add_comm _ _

theorem PidReg.toNat_word (r : PidReg) :
    r.word.toNat = r.pid.toNat + (if r.valid then 2 ^ 15 else 0) := by
  rw [PidReg.word, BitVec.toNat_setWidth_of_le (by decide)]
  simp only [toNat_append_field, BitVec.toNat_ofBool, BitVec.toNat_ofNat, ite_two_pow]
  omega

theorem Stream.toNat_stateWord (t : Stream) :
    t.stateWord.toNat = (if t.foundFirst then 2 ^ 0 else 0) +
      (if t.streamCont.isSome then 2 ^ 1 else 0) + (t.streamCont.getD 0).toNat * 16 +
      (if t.truncated then 2 ^ 8 else 0) := by
  rw [Stream.stateWord, BitVec.toNat_setWidth_of_le (by decide)]
  simp only [toNat_append_field, BitVec.toNat_ofBool, BitVec.toNat_ofNat, ite_two_pow]
  omega

/-- FRAME_INFO of DV receive (10_state.md R29). -/
theorem Csr.toNat_value_dvrFrameInfo (x : Inst) :
    (Csr.value x .dvrFrameInfo).toNat =
      (match (x.dvr.frame x.dvr.frameSel.toNat).state with
        | .free => 0 | .filling => 1 | .dispatched => 2) +
      (x.dvr.frame x.dvr.frameSel.toNat).refCount % 2 ^ 8 * 2 ^ 8 := by
  simp only [Csr.value, BitVec.toNat_setWidth_of_le (show 16 ≤ 32 by decide), toNat_append_field,
    FrameState.toNat_code, BitVec.toNat_ofNat]
  omega

/-- FRAME_INFO of DV transmit (10_state.md R32). -/
theorem Csr.toNat_value_dvtFrameInfo (x : Inst) :
    (Csr.value x .dvtFrameInfo).toNat =
      (if (x.dvt.frame x.dvt.frameSel.toNat).inUse then 2 ^ 0 else 0) +
      (x.dvt.frame x.dvt.frameSel.toNat).dclProgramRefCount % 2 ^ 16 * 2 ^ 16 := by
  simp only [Csr.value, toNat_append_field, BitVec.toNat_ofBool, BitVec.toNat_ofNat, ite_two_pow]
  omega

/-! ### CSR_READ -/

section

variable {s : State} {u i n v : Nat}

/-- CSR_READ of a CSR that does not exist is refused (10_state.md R25). -/
theorem exec_csrRead_undefined (hhalt : s.halted = false) (hi : i < s.inst.length)
    (hc : csrAt u n = none) : exec (.csrRead u i n) s = .next (s.setStatus .badArgument) := by
  rw [exec_csrRead_run hhalt hi]
  simp [csrReadBody, hc]

/-- CSR_READ answers the row of the table that it names. -/
theorem exec_csrRead_row {rows : List (Nat × Nat × Nat)} (hhalt : s.halted = false)
    (hi : i < s.inst.length) (hrow : (u, n, v) ∈ rows) (hrows : rows = csrRows (s.instAt i)) :
    exec (.csrRead u i n) s =
      .next ((s.setRes0 (BitVec.ofNat 32 v)).setStatus .success) := by
  obtain ⟨c, hc, rfl⟩ := csrAt_of_mem_csrRows (hrows ▸ hrow)
  rw [exec_csrRead hhalt hi hc, BitVec.ofNat_toNat, BitVec.setWidth_eq]

end

/-- Settles O18: the obligation's rows are the CSRs of the four units, each with the number its word has. -/
theorem csrReadValues : Obligations.CsrReadValues := by
  intro s i hhalt hi g r x d rf xf bit index stream pid
  refine ⟨fun u n v hrow => exec_csrRead_row hhalt hi hrow ?rows, fun u n hout => ?undefined⟩
  case rows =>
    simp only [csrRows, unitRows, engCsrs, dvrCsrs, dvtCsrs, tsCsrs, List.zipIdx_cons, List.zipIdx_nil,
      List.map_cons, List.map_nil, List.cons_append, List.nil_append, Csr.toNat_value_dvrFrameInfo,
      Csr.toNat_value_dvtFrameInfo]
    simp only [Csr.value, Kind.toNat_code, Eng.toNat_transport, Eng.toNat_watchdog, toNat_flag,
      toNat_frameIndexWord, PidReg.toNat_word, Stream.toNat_stateWord, BitVec.toNat_ofNat,
      BitVec.toNat_setWidth_of_le, Nat.reduceLeDiff]
    rfl
  case undefined =>
    show _ = Host.Outcome.next (s.setStatus .badArgument)
    exact exec_csrRead_undefined hhalt hi (csrAt_eq_none hout)

/-! ### What CSR_WRITE refuses -/

section

variable {g : Eng} {c : Csr}

theorem Csr.writable_ro (hc : c.access = .ro) : c.writable g = false := by
  simp [Csr.writable, hc]

theorem Csr.writable_setUp (hc : c.access = .rws) (h : g.setupDone = true) : c.writable g = false := by
  simp [Csr.writable, hc, h]

theorem Csr.writable_running (hc : c.access = .rwt) (h : g.running = true) : c.writable g = false := by
  simp [Csr.writable, hc, h]

end

section

variable {p : Params} {x : Inst} {v : Word}

/-- Of the values of three bits only 1, 2 and 4 are legal (47_control.md R303). -/
theorem Csr.illegal_blocksPerCycle (h : v.toNat % 8 ∉ [1, 2, 4]) :
    Csr.legal p x (v &&& Csr.mask .dvtBlocksPerCycle) .dvtBlocksPerCycle = false := by
  have hcut : (v &&& 7).toNat = v.toNat % 8 := toNat_and_lowMask (k := 3) (by decide) (by decide) v
  have hword : ∀ w : Word, w.toNat ∉ [1, 2, 4] → (w == 1 || w == 2 || w == 4) = false := by
    intro w hw
    simpa [← BitVec.toNat_inj, and_assoc] using hw
  exact hword _ (hcut ▸ h)

/-- A format that the parameters do not list is not written, whatever its record (R303). -/
theorem Csr.illegal_dvMode (h : p.dvRow (v.setWidth 8) = none) :
    (p.dvRow ((v &&& 0xFF).setWidth 8)).isSome = false := by
  rw [setWidth_and_lowMask (by decide), h]
  rfl

end

section

variable {s : State} {u i n : Nat} {c : Csr}

/-- A CSR_WRITE that the access type or the legal set does not allow is refused. -/
theorem exec_csrWrite_refused (hs : s.idle) (hi : i < s.inst.length) (hc : csrAt u n = some c)
    (h : ¬ (c.writable (s.eng i) = true ∧ c.legal s.par (s.instAt i) (s.arg0 &&& c.mask) = true)) :
    exec (.csrWrite u i n) s = .next (s.setStatus .badArgument) := by
  rw [exec_csrWrite hs hi hc, if_neg h]

/-- A CSR_WRITE of a CSR that the engine's condition keeps from being written. -/
theorem exec_csrWrite_denied {a : Access} {rows : List (Nat × Nat)} (hs : s.idle) (hi : i < s.inst.length)
    (hrow : (u, n) ∈ rows) (hrows : ∀ r ∈ rows, (csrAt r.1 r.2).map Csr.access = some a)
    (hdenied : ∀ c : Csr, c.access = a → c.writable (s.eng i) = false) :
    exec (.csrWrite u i n) s = .next (s.setStatus .badArgument) := by
  obtain ⟨c, hc, hacc⟩ := Option.map_eq_some_iff.mp (hrows _ hrow)
  exact exec_csrWrite_refused hs hi hc fun h => by simp [hdenied c hacc] at h

/-- A CSR_WRITE of a value outside the field's legal set. -/
theorem exec_csrWrite_illegal (hs : s.idle) (hi : i < s.inst.length) (hc : csrAt u n = some c)
    (hl : c.legal s.par (s.instAt i) (s.arg0 &&& c.mask) = false) :
    exec (.csrWrite u i n) s = .next (s.setStatus .badArgument) :=
  exec_csrWrite_refused hs hi hc fun h => by simp [hl] at h

end

/-- Settles O21: the first four premises are of the access type, the others each of one field's legal set. -/
theorem csrWriteRefused : Obligations.CsrWriteRefused := by
  intro s i u n hs hi hcase
  have hcut : (s.arg0 &&& 0xFFFF).toNat = s.arg0.toNat % 2 ^ 16 :=
    toNat_and_lowMask (by decide) (by decide) s.arg0
  show _ = Host.Outcome.next (s.setStatus .badArgument)
  rcases hcase with hro | hout | ⟨hrws, hset⟩ | ⟨hrwt, hrun⟩ | ⟨hrow, hv⟩ | ⟨hrow, hv⟩ | ⟨hrow, hv⟩ |
    ⟨hrow, hv⟩ | ⟨hrow, hv⟩ | ⟨hrow, hv⟩ | ⟨hrow, hv⟩
  · exact exec_csrWrite_denied hs hi hro (by decide) fun c => Csr.writable_ro
  · exact exec_csrWrite_undefined hs hi (csrAt_eq_none hout)
  · exact exec_csrWrite_denied hs hi hrws (by decide) fun c hc => Csr.writable_setUp hc hset
  · exact exec_csrWrite_denied hs hi hrwt (by decide) fun c hc => Csr.writable_running hc hrun
  · obtain ⟨rfl, rfl⟩ := Prod.mk.inj hrow
    exact exec_csrWrite_illegal (c := .engSegments) hs hi rfl
      (decide_eq_false (hcut ▸ Nat.not_le.mpr hv))
  · simp only [List.mem_cons, List.not_mem_nil, or_false, Prod.mk.injEq] at hrow
    have hzero : ¬ 1 ≤ (s.arg0 &&& 0xFFFF).toNat := by omega
    rcases hrow with ⟨rfl, rfl⟩ | ⟨rfl, rfl⟩
    · exact exec_csrWrite_illegal (c := .engCyclesPerSeg) hs hi rfl (decide_eq_false hzero)
    · exact exec_csrWrite_illegal (c := .engMinPayload) hs hi rfl (decide_eq_false hzero)
  · simp only [List.mem_cons, List.not_mem_nil, or_false, Prod.mk.injEq] at hrow
    rcases hrow with ⟨rfl, rfl⟩ | ⟨rfl, rfl⟩
    · exact exec_csrWrite_illegal (c := .dvrDvMode) hs hi rfl (Csr.illegal_dvMode hv)
    · exact exec_csrWrite_illegal (c := .dvtDvMode) hs hi rfl (Csr.illegal_dvMode hv)
  · obtain ⟨rfl, rfl⟩ := Prod.mk.inj hrow
    exact exec_csrWrite_illegal (c := .dvrFrameSel) hs hi rfl
      (decide_eq_false (hcut ▸ Nat.not_lt.mpr hv))
  · obtain ⟨rfl, rfl⟩ := Prod.mk.inj hrow
    exact exec_csrWrite_illegal (c := .dvtBlocksPerCycle) hs hi rfl (Csr.illegal_blocksPerCycle hv)
  · obtain ⟨rfl, rfl⟩ := Prod.mk.inj hrow
    exact exec_csrWrite_illegal (c := .dvtFrameSel) hs hi rfl
      (decide_eq_false (hcut ▸ Nat.not_lt.mpr hv))
  · obtain ⟨rfl, rfl⟩ := Prod.mk.inj hrow
    refine exec_csrWrite_illegal (c := .tsPsiTimeout) hs hi rfl ?_
    rw [hv]
    rfl

end Sys2Proof.Machine
end

section
/-! PROOF. What reset leaves (obligation O56). The reset record of one index meets every law, and a block at
power-on holds nothing but reset records (70_reset_and_hazards.md R341, R342). -/

namespace Sys2Proof.Machine

/-- A reset step (R341). -/
theorem step_reset {s s' : State} (h : s.nextAction = (.reset, s')) : step s = .next s'.resetBlock :=
  step_of_nextAction h

section

variable (p : Params)

/-- The instances of a block at power-on are reset records (R342). -/
theorem powerOn_every {P : Inst → Prop} (h : P (Inst.reset p)) : (State.powerOn p).every P := fun x hx => by
  obtain rfl : x = Inst.reset p := List.eq_of_mem_replicate hx
  exact h

theorem powerOn_registerLaw (h : p.wf = true) : (State.powerOn p).registerLaw := by
  have hbuf : Memory.wf p.bufBytes [] := ⟨List.Pairwise.nil, nofun⟩
  exact ⟨h, List.length_replicate, powerOn_every p (Inst.reset_storesFilled p), hbuf, Nat.zero_le 7,
    (by decide : (0#32).toNat < 128)⟩

end

/-- Settles O56: the reset step is `State.resetBlock`, and each law holds of the reset record. -/
theorem resetState : Obligations.ResetState := by
  refine ⟨fun s s' h => ?step, fun p => rfl, fun p hp => ?laws, rfl, by decide, rfl⟩
  case step =>
    exact ⟨s'.resetBlock, step_reset h, rfl, rfl, rfl, rfl, rfl, rfl, rfl, rfl, rfl, rfl, rfl, rfl, rfl⟩
  case laws =>
    exact ⟨powerOn_registerLaw p hp, powerOn_every p (ringLaw_moves.reset p),
      powerOn_every p (transportLaw_moves.reset p), powerOn_every p (Dvr.law_reset p),
      powerOn_every p (Ts.law_reset p)⟩

end Sys2Proof.Machine
end

section
/-! PROOF. Writes to CMD and nested commands (obligations O5 and O6; 60_exceptions.md R318 to R320). The checks
of the decode order are those of every command; a nested command leaves the callback it is in, the calls made
and the answers taken as they are. -/

namespace Sys2Proof.Machine

/-! ### The checks of the decode order (R320) -/

section

variable {s s' : State} {i : Instr}

/-- A halted block ignores a write to CMD (check 1). -/
theorem step_host_command_halted {w : Word} (h : s.nextAction = (.host (.write .cmd w), s'))
    (hhalt : s'.halted = true) : step s = .next s' := by
  rw [step_host h]
  simp [hostStep, issue, hhalt]

/-- A command that names an index beyond E_INST answers BadArgument (check 3). -/
theorem exec_noInstance (hi : i.isEvent = false) (hhalt : s.halted = false) (hinst : s.hasInstance i = false) :
    exec i s = .next (s.setStatus .badArgument) := by
  obtain ⟨body, hexec⟩ := exec_command hi
  rw [hexec s]
  exact asCommand_noInstance hhalt hinst

/-- A command that is not allowed inside a callback raises there (check 4; R319). -/
theorem exec_reentrant (hi : i.isEvent = false) (hhalt : s.halted = false) (hinst : s.hasInstance i = true)
    (hcall : 0 < s.inCallback) (hn : nestable i = false) :
    exec i s = .next { s with
      halted := true, faults := s.faults ||| 0x20, faultInfo := some (.reentrant (encodeWord i)) } := by
  obtain ⟨body, hexec⟩ := exec_command hi
  rw [hexec s, asCommand_reentrant hhalt hinst hcall hn, takeFault_eq hhalt]
  rfl

end

/-- Settles O5: each check is one outcome of the write, and the word is the encoding of its command. -/
theorem decodeOrder : Obligations.DecodeOrder := by
  intro s s' w h hhold
  refine ⟨step_host_command_halted h, fun hhalt => ⟨fun r hr => step_host_illegal h hhalt hhold hr,
    fun i hi => ?_⟩⟩
  obtain ⟨hdecode, hevent⟩ := decodeCommand_ok hi
  rw [step_host_command h hhalt hhold hi]
  refine ⟨fun hinst => exec_noInstance hevent hhalt hinst, fun hinst hcall hn => ?_⟩
  rw [exec_reentrant (s := s'.setCmd w) hevent hhalt hinst hcall hn, encodeWord_of_decode hdecode]
  rfl

/-! ### What a nested command leaves (R319) -/

/-- The callback in progress, the calls made and the answers taken are the same. -/
structure Unasked (s t : State) : Prop where
  inCallback : t.inCallback = s.inCallback
  out : t.out = s.out
  drawn : t.drawn = s.drawn

theorem unasked_clients : ClientStable Unasked where
  refl _ := ⟨rfl, rfl, rfl⟩
  trans a b := ⟨b.inCallback.trans a.inCallback, b.out.trans a.out, b.drawn.trans a.drawn⟩
  setCmd _ _ := ⟨rfl, rfl, rfl⟩
  setStatus _ _ := ⟨rfl, rfl, rfl⟩
  setRes0 _ _ := ⟨rfl, rfl, rfl⟩
  setRes1 _ _ := ⟨rfl, rfl, rfl⟩
  setRes2 _ _ := ⟨rfl, rfl, rfl⟩
  setRes3 _ _ := ⟨rfl, rfl, rfl⟩
  hostWrite _ r _ := by cases r <;> exact ⟨rfl, rfl, rfl⟩
  writeBytes _ _ _ _ := ⟨rfl, rfl, rfl⟩
  takeFault _ _ := ⟨rfl, rfl, rfl⟩
  release _ _ _ _ _ _ := ⟨rfl, rfl, rfl⟩
  releaseBuf _ _ _ _ _ := ⟨rfl, rfl, rfl⟩
  setWatchdog _ _ _ := ⟨rfl, rfl, rfl⟩

section

variable {i : Instr} {s : State}

/-- A command that runs inside a callback makes no call of its own. -/
theorem exec_inCallback_unasked (hi : i.isEvent = false) (hhalt : s.halted = false) (hcall : 0 < s.inCallback) :
    ∃ t, exec i s = .next t ∧ Unasked s t :=
  have hR := unasked_clients
  ⟨_, exec_inCallback hi hhalt hcall,
    leads_runCommand hR.toTravels hR.setStatus hR.takeFault i (leads_nestedBody hR i s)⟩

/-- The commands that R319 lists. -/
theorem nestable_iff : nestable i = true ↔
    i = .isCip ∨ i = .parseCip ∨ i = .buildCip ∨ i = .ctAdd ∨ i = .ctDelta ∨ i = .ctIndex ∨
      (∃ u e x, i = .csrRead u e x) ∨ (∃ e, i = .dvrRelease e) ∨ (∃ e, i = .tsReleasePes e) ∨
      (∃ e, i = .engSetWatchdog e) := by
  cases i <;> simp [nestable]

end

/-! ### The callback around it (R318) -/

section

variable {s : State} {o : Out} {d : Draw} {rest : List Draw}

/-- The return from a callback restores the nesting. -/
theorem State.leaveCallback_called (hhalt : s.halted = false) (hran : (s.called o d rest).halted = false) :
    (s.called o d rest).leaveCallback = { s.called o d rest with inCallback := s.inCallback } := by
  rw [State.leaveCallback, State.called_inCallback hhalt hran, Nat.add_sub_cancel]

/-- A raise inside a callback ends the step there (R315). -/
theorem run_callback_raised (hhalt : s.halted = false) (ht : s.tape = d :: rest)
    (hran : (s.called o d rest).halted = true) : callback o s = .error .fault (s.called o d rest) := by
  rw [run_callback_called hhalt ht, if_pos hran]

theorem run_callback_returned (hhalt : s.halted = false) (ht : s.tape = d :: rest)
    (hran : (s.called o d rest).halted = false) (hreset : d.reset = false) :
    callback o s = .ok d { s.called o d rest with inCallback := s.inCallback } := by
  rw [run_callback_called hhalt ht, if_neg (by simp [hran]), if_neg (by simp [hreset]),
    State.leaveCallback_called hhalt hran]

/-- A reset that falls while the client runs ends the step there (70_reset_and_hazards.md R341). -/
theorem run_callback_abandoned (hhalt : s.halted = false) (ht : s.tape = d :: rest)
    (hran : (s.called o d rest).halted = false) (hreset : d.reset = true) :
    callback o s = .error .reset (s.called o d rest) := by
  rw [run_callback_called hhalt ht, if_neg (by simp [hran]), if_pos hreset]

end

/-- Settles O6: what runs inside a callback is the nested command, and the client's acts are
`State.called`. -/
theorem nestedCommands : Obligations.NestedCommands := by
  refine ⟨fun i s hi hhalt hcall hinst => ⟨fun _ => ?listed, fun hn => ?other⟩,
    fun o s d rest ht hhalt => ⟨run_callback_raised hhalt ht, run_callback_returned hhalt ht,
      run_callback_abandoned hhalt ht⟩⟩
  case listed =>
    obtain ⟨t, hexec, hsame⟩ := exec_inCallback_unasked hi hhalt hcall
    exact ⟨t, hexec, hsame.inCallback, hsame.out, hsame.drawn⟩
  case other =>
    rw [← nestable_iff, Bool.not_eq_true] at hn
    exact exec_reentrant hi hhalt hinst hcall hn

end Sys2Proof.Machine
end

section
/-! PROOF. Faults and the halted state (obligation O7; 60_exceptions.md R314). In a halted block only the
environment's moves and the host's accesses to ARG0 to ARG3 and BUF are left, and none of them touches RES,
STATUS or the recorded outcome. -/

namespace Sys2Proof.Machine

/-- A halted block takes no command and consumes no event (R320). -/
theorem exec_halted (i : Instr) {s : State} (hs : s.halted = true) : exec i s = .next s := by
  cases hi : i.isEvent with
  | false =>
    obtain ⟨body, hexec⟩ := exec_command hi
    rw [hexec s]
    exact asCommand_halted hs
  | true =>
    obtain ⟨e, body, -, hexec⟩ := exec_event hi
    rw [hexec s]
    exact asEvent_halted hs

/-! ### What stays in a halted block -/

/-- RES and STATUS are the same, and a halted block stays halted with the outcome it has recorded (R314). -/
structure StaysHalted (s t : State) : Prop where
  res : (t.res0, t.res1, t.res2, t.res3) = (s.res0, s.res1, s.res2, s.res3)
  status : t.status = s.status
  halted : s.halted = true → t.halted = true
  faultInfo : s.halted = true → t.faultInfo = s.faultInfo

/-- A move outside RES, STATUS, the halted state and the recorded outcome. -/
theorem staysHalted_of_same {s t : State}
    (hres : (t.res0, t.res1, t.res2, t.res3) = (s.res0, s.res1, s.res2, s.res3))
    (hstatus : t.status = s.status) (hhalted : t.halted = s.halted) (hinfo : t.faultInfo = s.faultInfo) :
    StaysHalted s t :=
  ⟨hres, hstatus, hhalted.trans, fun _ => hinfo⟩

theorem staysHalted_travels : Travels StaysHalted where
  refl _ := staysHalted_of_same rfl rfl rfl rfl
  trans a b := ⟨b.res.trans a.res, b.status.trans a.status, fun h => b.halted (a.halted h),
    fun h => (b.faultInfo (a.halted h)).trans (a.faultInfo h)⟩

/-- A raise in a halted block leaves the outcome of the first (R314; log 8). -/
theorem staysHalted_takeFault (s : State) (f : BlockFault) : StaysHalted s (s.takeFault f) :=
  ⟨rfl, rfl, fun _ => rfl, fun h => if_pos h⟩

theorem staysHalted_modEng (s : State) (e : Nat) (g : Eng → Eng) : StaysHalted s (s.modEng e g) :=
  staysHalted_of_same rfl rfl rfl rfl

theorem staysHalted_writeBytes (s : State) (a : Nat) (bs : List Byte) : StaysHalted s (s.writeBytes a bs) :=
  staysHalted_of_same rfl rfl rfl rfl

theorem staysHalted_hostWrite (s : State) (r : HostReg) (v : Word) : StaysHalted s (s.hostWrite r v) := by
  cases r <;> exact staysHalted_of_same rfl rfl rfl rfl

/-! ### The Port Engine (20_memory.md R72, R73) -/

theorem staysHalted_draw : Leads StaysHalted draw := leads_draw fun _ _ _ => staysHalted_of_same rfl rfl rfl rfl

theorem staysHalted_memRead (a n : Nat) : Leads StaysHalted (memRead a n) :=
  leads_memRead staysHalted_travels staysHalted_takeFault a n

theorem staysHalted_memWrite (a : Nat) (bs : List Byte) : Leads StaysHalted (memWrite a bs) :=
  leads_memWrite staysHalted_takeFault (fun s a bs _ => staysHalted_writeBytes s a bs) a bs

theorem staysHalted_peReceive (e k : Nat) : Leads StaysHalted (peReceive e k) := by
  have hR := staysHalted_travels
  refine leads_bind hR (leads_getState hR) fun _ => leads_bind hR staysHalted_draw fun _ => ?_
  refine leads_bind hR (leads_update fun s => staysHalted_modEng s e _) fun _ => ?_
  exact leads_bind hR (leads_getEng hR e) fun _ => staysHalted_memWrite _ _

theorem staysHalted_peSend (e k : Nat) : Leads StaysHalted (peSend e k) := by
  have hR := staysHalted_travels
  refine leads_bind hR (leads_getEng hR e) fun _ => ?_
  split
  · exact leads_raise fun s => staysHalted_takeFault s _
  · exact leads_bind hR (staysHalted_memRead _ _) fun _ =>
      leads_update fun _ => staysHalted_of_same rfl rfl rfl rfl

theorem staysHalted_peCycle (e k : Nat) : Leads StaysHalted (peCycle e k) :=
  leads_bind staysHalted_travels (leads_getEng staysHalted_travels e) fun _ =>
    leads_ite (staysHalted_peReceive e k) (staysHalted_peSend e k)

theorem staysHalted_peCycles (e : Nat) : ∀ n k, Leads StaysHalted (peCycles e n k)
  | 0, _ => leads_pure staysHalted_travels _
  | n + 1, k => leads_bind staysHalted_travels (staysHalted_peCycle e k) fun _ =>
      staysHalted_peCycles e n (k + 1)

theorem staysHalted_peSegment (e : Nat) : Leads StaysHalted (peSegment e) := by
  have hR := staysHalted_travels
  have hmod : ∀ g, Leads StaysHalted (modEng e g) := fun g => leads_update fun s => staysHalted_modEng s e g
  refine leads_bind hR (leads_getEng hR e) fun _ => leads_bind hR (staysHalted_peCycles e _ _) fun _ => ?_
  refine leads_bind hR staysHalted_draw fun _ => leads_bind hR (hmod _) fun _ => ?_
  refine leads_bind hR (leads_getEng hR e) fun _ => ?_
  split
  · exact hmod _
  · exact leads_bind hR (staysHalted_peCycle e _) fun _ => hmod _
  · exact leads_pure hR ()

/-! ### A step of a halted block -/

theorem staysHalted_nextAction (s : State) : StaysHalted s s.nextAction.2 := by
  unfold State.nextAction
  split <;> exact staysHalted_of_same rfl rfl rfl rfl

/-- A host step in a halted block: a command is ignored, the other accesses work (R314). -/
theorem staysHalted_hostStep {s t : State} (hs : s.halted = true) (a : HostAct)
    (ht : hostStep a s = .next t) : StaysHalted s t := by
  cases a with
  | read r => cases ht; exact staysHalted_travels.refl s
  | poke a b => cases ht; exact staysHalted_memWrite a [b] s
  | peek a =>
    cases ht
    exact leads_bind staysHalted_travels (staysHalted_memRead a 1)
      (fun _ => leads_pure staysHalted_travels ()) s
  | write r v =>
    cases r with
    | cmd =>
      rw [hostStep, issue, if_pos (Or.inl hs)] at ht
      cases ht
      exact staysHalted_travels.refl s
    | _ => cases ht; exact staysHalted_hostWrite s _ v

/-- A move of the schedule other than reset (R314; 70_reset_and_hazards.md R341). -/
theorem staysHalted_perform {s t : State} (hs : s.halted = true) {a : Action} (ha : a ≠ .reset)
    (ht : perform a s = .next t) : StaysHalted s t := by
  have hite : ∀ {c : Prop} [Decidable c] {u : State}, StaysHalted s u → StaysHalted s (if c then u else s) := by
    intro c _ u hu
    split
    · exact hu
    · exact staysHalted_travels.refl s
  cases a with
  | reset => exact absurd rfl ha
  | host a => exact staysHalted_hostStep hs a ht
  | consume e =>
    rw [perform, consumeEvent, if_pos hs] at ht
    cases ht
    exact staysHalted_travels.refl s
  | peSegment e => cases ht; exact hite (staysHalted_peSegment e s)
  | peFinalize e | peForceStop e | watchdog e | pollTimeout e =>
    cases ht
    exact hite (staysHalted_modEng s e _)

theorem step_staysHalted {s t : State} (hs : s.halted = true) (ht : step s = .next t)
    (hreset : s.nextAction.1 ≠ .reset) : StaysHalted s t :=
  have hn := staysHalted_nextAction s
  staysHalted_travels.trans hn (staysHalted_perform (hn.halted hs) hreset ht)

/-! ### The host's memory port (20_memory.md R61, R62, R67) -/

/-- A scheduled access to BUF, inside it or not (log 9). -/
theorem step_port {s s' : State} (a : Nat) (b : Byte) :
    (s.nextAction = (.host (.poke a b), s') → step s = .next (
      if a < s'.par.bufBytes then s'.writeBytes a [b] else s'.takeFault (.badAddress a 1))) ∧
    (s.nextAction = (.host (.peek a), s') → step s = .next (
      if a < s'.par.bufBytes then s' else s'.takeFault (.badAddress a 1))) := by
  constructor <;> intro h <;> rw [step_host h, hostStep]
  · rw [run_portWrite]
    split <;> rfl
  · rw [run_portRead]
    split <;> rfl

/-- Settles O7: a fault by its bit, the halted block by what stays over each move, the reset by its block. -/
theorem takingAFault : Obligations.TakingAFault := by
  refine ⟨fun s a b w o => ?bits, fun i s => exec_halted i, fun s t hs ht hreset => ?stays,
    fun s t ht hreset => ?reset, fun s s' a b => step_port a b⟩
  case bits => exact ⟨rfl, rfl, rfl, rfl, rfl, rfl, rfl⟩
  case stays =>
    have h := step_staysHalted hs ht hreset
    exact ⟨h.halted hs, h.faultInfo hs, h.status, h.res⟩
  case reset =>
    have hnext : step s = .next s.nextAction.2.resetBlock := step_reset (Prod.ext hreset rfl)
    obtain rfl := Host.Outcome.next.inj (hnext.symm.trans ht)
    exact ⟨rfl, rfl⟩

end Sys2Proof.Machine
end
